-- ==== Sys2Proof/Word.lean ====
section
/-!
DEFINITION. The word types of the QX8 and nothing else: bytes, 64-bit words, and the widths of the
fields of a syllable (R34, R36, R37).
-/

namespace Sys2Proof

/-- One byte of memory (R8). -/
abbrev Byte := BitVec 8
/-- A scalar or address register, a special register, a syllable. -/
abbrev Word := BitVec 64
/-- A row of 256 bytes, byte 0 in bits 7:0 (R8, R118). -/
abbrev RowBits := BitVec 2048

/-- A 6-bit field that names a scalar s0-s63 (R37). -/
abbrev SReg := BitVec 6
/-- The 4 bits used of a field that names an address register a0-a15 (R37). -/
abbrev AReg := BitVec 4
/-- The 5 bits used of a field that names a predicate p0-p31 (R37). -/
abbrev PReg := BitVec 5
/-- The 4 bits used of a field that names a gate g0-g15 (R37). -/
abbrev GReg := BitVec 4
/-- The 4 bits used of a field that names an accumulator tile T0-T15 (R37). -/
abbrev TReg := BitVec 4
/-- A 10-bit vector operand field: level in 9:8, index in 7:0 (R15, R55). -/
abbrev VField := BitVec 10
/-- A copy queue q0-q3 (R37). -/
abbrev Queue := BitVec 2
/-- An ordering class (R36, R264). -/
abbrev Class := BitVec 4

end Sys2Proof
end

