-- ==== Sys2Proof/Syntax.lean ====
section
/-!
DEFINITION. The syntax: `Instr`, one constructor per row of spec/opcode_table.json. The first 177 rows
are syllables; their arguments are the fields of the encoding at the width the encoding uses (R36-R58),
so that a reserved bit of a register field has no place in the term. The other 60 rows are the steps of
the device's other agents (spec/95); their arguments name the agent concerned and what comes from outside.
-/

namespace Sys2Proof

/-- One QFT message as it arrives (R350): the port it came through (8 is the host port), the IPv6
source address of its datagram, and the fields of its 32-byte header that the type leaves open. -/
structure Msg where
  port    : Nat
  src     : BitVec 128
  version : Byte
  chan    : Nat
  seq     : Word
  ack     : Word
  target  : Word
  body    : List Byte
  deriving DecidableEq, Repr, Inhabited

/-- What a COLL message says (R360). The manual does not lay out its body (log 16). `who` is the
strand's number on its device. -/
inductive Coll where
  /-- a member's device asks to join; `team` is the team that QFT carries (R294) -/
  | join (who : Nat) (team : BitVec 16)
  /-- the home answers a join with the result word of R294 -/
  | joined (who : Nat) (result : Word)
  /-- a member leaves (R295) -/
  | leave (who : Nat)
  /-- a member arrives at the barrier (R295) -/
  | arrive (who : Nat)
  /-- the home tells a member that its generation completed, and how many of its arrivals are then over (R295) -/
  | release (who rank upto : Nat)
  /-- a member's contribution to a CRED round (R114): operator, element type, NVER, count, data -/
  | contribute (who : Nat) (op ty nver : Nat) (count : Nat) (data : List Byte)
  /-- the home returns a round's result: status (R92) and data -/
  | result (who : Nat) (status : Nat) (data : List Byte)
  deriving DecidableEq, Repr, Inhabited

/-- What FUNCTION_READY brings up (R361). -/
inductive Function where
  | tile (n : Nat) | fast (stack : Nat) | capacity (half : Nat) | port (p : Nat) | steward (core : Nat)
  deriving DecidableEq, Repr, Inhabited

/-- The rows of the opcode table. -/
inductive Instr where
  -- every space (R47)
  | tlwaitImm (tl : BitVec 6) (n : BitVec 31)
  | tlwaitReg (tl : BitVec 6) (sa : SReg)
  | nop
  -- the scalar space (R48)
  | add (sd sa sb : SReg)
  | sub (sd sa sb : SReg)
  | mul (sd sa sb : SReg)
  | mulh (sd sa sb : SReg)
  | mulhu (sd sa sb : SReg)
  | div (sd sa sb : SReg)
  | divu (sd sa sb : SReg)
  | rem (sd sa sb : SReg)
  | remu (sd sa sb : SReg)
  | and (sd sa sb : SReg)
  | or (sd sa sb : SReg)
  | xor (sd sa sb : SReg)
  | shl (sd sa sb : SReg)
  | shr (sd sa sb : SReg)
  | sar (sd sa sb : SReg)
  | rotr (sd sa sb : SReg)
  | min (sd sa sb : SReg)
  | max (sd sa sb : SReg)
  | minu (sd sa sb : SReg)
  | maxu (sd sa sb : SReg)
  | clz (sd sa : SReg)
  | ctz (sd sa : SReg)
  | popc (sd sa : SReg)
  | sel (sd sa sb : SReg) (pn : PReg)
  | cmpEq (pd : PReg) (sa sb : SReg)
  | cmpNe (pd : PReg) (sa sb : SReg)
  | cmpLt (pd : PReg) (sa sb : SReg)
  | cmpLe (pd : PReg) (sa sb : SReg)
  | cmpLtu (pd : PReg) (sa sb : SReg)
  | cmpLeu (pd : PReg) (sa sb : SReg)
  | pset (pd pa pb : PReg) (tt : BitVec 4)
  | pmovToScalar (sd : SReg)
  | pmovToPredicates (sa : SReg)
  | extr (sd sa : SReg) (pos len : BitVec 6)
  | ins (sd sa : SReg) (pos len : BitVec 6)
  | sfadd (sd sa sb : SReg)
  | sfmul (sd sa sb : SReg)
  | sfma (sd sa sb sc : SReg)
  | sfcvt (sd sa : SReg) (kind : BitVec 3)
  | abuf (ad : AReg) (sa sb : SReg)
  | aadd (ad aa : AReg) (sb : SReg) (imm : BitVec 13)
  | aget (sd : SReg) (aa : AReg)
  | aset (ad : AReg) (sa : SReg)
  | rdsp (sd : SReg) (num : BitVec 12)
  | wrsp (sa : SReg) (num : BitVec 12)
  | addi (sd sa : SReg) (imm : BitVec 31)
  | andi (sd sa : SReg) (imm : BitVec 31)
  | ori (sd sa : SReg) (imm : BitVec 31)
  | xori (sd sa : SReg) (imm : BitVec 31)
  | shli (sd sa : SReg) (n : BitVec 6)
  | shri (sd sa : SReg) (n : BitVec 6)
  | sari (sd sa : SReg) (n : BitVec 6)
  | movi (sd : SReg) (imm : BitVec 37)
  | movhi (sd : SReg) (imm : BitVec 27)
  -- control (R49)
  | br (off : BitVec 31)
  | brInd (sa : SReg)
  | call (sd : SReg) (off : BitVec 31)
  | callInd (sd sa : SReg)
  | ret (sa : SReg)
  | brpAny (pn : PReg) (cnt : BitVec 6) (off : BitVec 31)
  | brpAll (pn : PReg) (cnt : BitVec 6) (off : BitVec 31)
  | brpNone (pn : PReg) (cnt : BitVec 6) (off : BitVec 31)
  | loopReg (len : BitVec 6) (sa : SReg) (id : BitVec 6)
  | loopImm (len : BitVec 6) (id : BitVec 6) (count : BitVec 13)
  | lbrk
  | fork (map : BitVec 16) (o1 o2 o3 : BitVec 14)
  | join (mask : BitVec 4)
  | gpost (g : GReg)
  | gtake (g : GReg)
  | gwait (g : GReg)
  | gclr (g : GReg)
  | halt
  | yield
  | svc (code : BitVec 13)
  | trapret
  | ctxsave (sa : SReg) (aa : AReg) (grade : BitVec 2)
  | ctxload (sa : SReg) (aa : AReg) (grade : BitVec 2)
  | tinv (sa sb : SReg) (size : BitVec 2)
  -- the access space (R51)
  | ldU8 (sd : SReg) (aa : AReg) (cls : Class) (off : BitVec 27)
  | ldS8 (sd : SReg) (aa : AReg) (cls : Class) (off : BitVec 27)
  | ldU16 (sd : SReg) (aa : AReg) (cls : Class) (off : BitVec 27)
  | ldS16 (sd : SReg) (aa : AReg) (cls : Class) (off : BitVec 27)
  | ldU32 (sd : SReg) (aa : AReg) (cls : Class) (off : BitVec 27)
  | ldS32 (sd : SReg) (aa : AReg) (cls : Class) (off : BitVec 27)
  | ld64 (sd : SReg) (aa : AReg) (cls : Class) (off : BitVec 27)
  | st8 (sa : SReg) (aa : AReg) (cls : Class) (off : BitVec 27)
  | st16 (sa : SReg) (aa : AReg) (cls : Class) (off : BitVec 27)
  | st32 (sa : SReg) (aa : AReg) (cls : Class) (off : BitVec 27)
  | st64 (sa : SReg) (aa : AReg) (cls : Class) (off : BitVec 27)
  | ldacq32 (sd : SReg) (aa : AReg) (cls : Class) (off : BitVec 27)
  | ldacq64 (sd : SReg) (aa : AReg) (cls : Class) (off : BitVec 27)
  | strel32 (sa : SReg) (aa : AReg) (cls : Class) (off : BitVec 27)
  | strel64 (sa : SReg) (aa : AReg) (cls : Class) (off : BitVec 27)
  | ldq (cnt : BitVec 6) (aa : AReg) (cls : Class) (stride : BitVec 13)
  | ldqRowArrival (ctx : Nat)
  | stqa (cnt : BitVec 6) (aa : AReg) (cls : Class) (stride : BitVec 13)
  | pairedStoreWrite (ctx : Nat)
  | amoAdd (sd : SReg) (aa : AReg) (sb : SReg) (cls : Class) (sz un : BitVec 1)
  | amoMin (sd : SReg) (aa : AReg) (sb : SReg) (cls : Class) (sz un : BitVec 1)
  | amoMax (sd : SReg) (aa : AReg) (sb : SReg) (cls : Class) (sz un : BitVec 1)
  | amoAnd (sd : SReg) (aa : AReg) (sb : SReg) (cls : Class) (sz un : BitVec 1)
  | amoOr (sd : SReg) (aa : AReg) (sb : SReg) (cls : Class) (sz un : BitVec 1)
  | amoXor (sd : SReg) (aa : AReg) (sb : SReg) (cls : Class) (sz un : BitVec 1)
  | amoSwap (sd : SReg) (aa : AReg) (sb : SReg) (cls : Class) (sz un : BitVec 1)
  | cas (sd : SReg) (aa : AReg) (sb : SReg) (cls : Class) (sz un : BitVec 1)
  | fence (mask : BitVec 16) (scope : BitVec 3)
  | flset (sb : SReg) (aa : AReg) (cls : Class) (scope : BitVec 6)
  | flsetAdd (sb : SReg) (aa : AReg) (cls : Class) (scope : BitVec 6)
  | flwaitGe (sb : SReg) (aa : AReg) (cls : Class) (scope : BitVec 6)
  | flwaitEq (sb : SReg) (aa : AReg) (cls : Class) (scope : BitVec 6)
  | flwaitNe (sb : SReg) (aa : AReg) (cls : Class) (scope : BitVec 6)
  | flagReevaluation (ctx grp : Nat)
  -- the copy space (R52)
  | cpy (st : SReg) (ad as : AReg) (sn : SReg) (q : Queue) (cls : Class) (sf : SReg)
  | cpyl (ad as : AReg) (sb : SReg) (q : Queue)
  | gath (st : SReg) (ad as : AReg) (sn : SReg) (q : Queue) (cls : Class) (esz : BitVec 2)
  | scat (st : SReg) (ad as : AReg) (sn : SReg) (q : Queue) (cls : Class) (esz : BitVec 2)
  | tmov (st : SReg) (ad as : AReg) (sn : SReg) (q : Queue) (cls : Class) (sf : SReg)
  | rwr (st : SReg) (ad as : AReg) (sn : SReg) (q : Queue) (cls : Class) (sf : SReg)
  | pref (st : SReg) (ad as : AReg) (sn : SReg) (q : Queue) (cls : Class) (sb : SReg)
  | evict (st : SReg) (ad as : AReg) (sn : SReg) (q : Queue) (cls : Class) (sb : SReg)
  | credSum (st : SReg) (ad as : AReg) (sn : SReg) (q : Queue) (cls : Class) (sc : SReg) (ty : BitVec 2)
  | credMax (st : SReg) (ad as : AReg) (sn : SReg) (q : Queue) (cls : Class) (sc : SReg) (ty : BitVec 2)
  | credSmerge (st : SReg) (ad as : AReg) (sn : SReg) (q : Queue) (cls : Class) (sc : SReg) (ty : BitVec 2)
  | credRoundCompletion (crew : Word)
  | kvgath (st : SReg) (ad ab : AReg) (sp : SReg) (q : Queue) (cls : Class) (sl : SReg) (v : BitVec 1) (pol : BitVec 2)
  | kvgathSlotWake (ctx : Nat) (q : Queue)
  | kvapp (st : SReg) (ab as : AReg) (sp : SReg) (q : Queue) (cls : Class) (sl : SReg) (mode : BitVec 1)
  | appendAction (ctx : Nat) (q : Queue)
  | tlget (sd : SReg) (tl : BitVec 6)
  | copyBeat (ctx : Nat) (q : Queue)
  | engineTrap (ctx : Nat)
  -- the vector space (R53-R56)
  | vch (cc : BitVec 2) (a b c : BitVec 5) (d x y z : VField) (m : BitVec 3)
  | vcvt (d x y : VField) (m : BitVec 3) (tag : BitVec 4)
  | vredAdd (d x : VField) (m : BitVec 3)
  | vredMax (d x : VField) (m : BitVec 3)
  | vredMin (d x : VField) (m : BitVec 3)
  | vredAnd (d x : VField) (m : BitVec 3)
  | vredOr (d x : VField) (m : BitVec 3)
  | vscanAdd (d x : VField) (m : BitVec 3)
  | vscanMax (d x : VField) (m : BitVec 3)
  | vscanMin (d x : VField) (m : BitVec 3)
  | vscanAnd (d x : VField) (m : BitVec 3)
  | vscanOr (d x : VField) (m : BitVec 3)
  | vperm (d x y : VField) (m : BitVec 3)
  | vbcast (d x : VField) (m : BitVec 3) (lane : BitVec 8)
  | vshuf (d x y : VField) (m : BitVec 3) (pat : BitVec 4) (n : BitVec 6)
  | vmaskFrom (mk : BitVec 3) (x : VField)
  | vmaskAnd (mk mi mj : BitVec 3)
  | vmaskOr (mk mi mj : BitVec 3)
  | vmaskAndn (mk mi mj : BitVec 3)
  | vmaskCount (d : VField) (mk : BitVec 3)
  | vtag (d x : VField) (m : BitVec 3) (tag : BitVec 4)
  | vmov (d x : VField) (m : BitVec 3)
  | vext (d x : VField) (lane : BitVec 8)
  | vins (d x y : VField) (m : BitVec 3) (lane : BitVec 8)
  | exposedResultLanding (ctx : Nat)
  | scoreboardResultLanding (ctx : Nat)
  -- the matrix space (R57)
  | mcfg (t : TReg) (fmt : BitVec 4)
  | mset (level field : BitVec 6) (sa : SReg)
  | msetI (level field : BitVec 6) (imm : BitVec 13)
  | mgo
  | mwait
  | mclr (t : TReg)
  | mstop
  | msnap (td ts : TReg) (sd : SReg)
  | mplane (ad as : AReg) (sn : SReg) (fmt : BitVec 4)
  | mprov (sd : SReg) (word : BitVec 3)
  | matrixStep (ctx : Nat)
  -- the special space (R58)
  | route (sd : SReg) (atile ar : AReg) (st sl : SReg) (rows : BitVec 6)
  | heddleDelivery (ctx num : Nat)
  | rret (st : SReg) (ar : AReg)
  | reedReturnArrival (i : Nat)
  | routeDeadline (ctx num : Nat)
  | rwait (si : SReg)
  | rstat (sd si : SReg) (word : BitVec 3)
  | conftMaxp (pd : PReg) (al : AReg) (sh sx : SReg)
  | conftEnt (pd : PReg) (al : AReg) (sh sx : SReg)
  | exitRecordPosting (die : Nat)
  | chervilAgeTimeout (die : Nat)
  | chervilCardSubmission (die : Nat)
  | chervilRetry (die : Nat)
  | rngkey (sa sb : SReg) (rst : BitVec 1)
  | enrd (sd : SReg)
  | jobq (sd : SReg) (ac : AReg) (sq : SReg)
  | launch (sd : SReg) (ac : AReg) (sq : SReg)
  | futinit (af : AReg)
  | futreg (af : AReg) (sc sj : SReg)
  | futres (af : AReg) (sv : SReg)
  | futwait (sd : SReg) (af : AReg)
  | continuationCredit
  | continuationLaunch
  | crewjoin (sd sc : SReg)
  | crewleave (sc : SReg)
  | cbar (sc : SReg)
  | crewGenerationCompletion (crew : Word)
  -- traps, scheduling, host and power: the other agents' steps (spec/95)
  | streamDeadlock (ctx : Nat)
  | replayLanding (ctx : Nat)
  | noticePost (ctx : Nat) (n : BitVec 4)
  | noticeTrap (ctx : Nat)
  | agentWatchTrap (ctx : Nat)
  | hang (ctx : Nat)
  | freezeRequest (ctx : Nat)
  | bindNew (ctx : Nat) (record : BitVec 1024)
  | restore (ctx : Nat) (record : BitVec 1024)
  | swapOut (ctx : Nat) (record : BitVec 1024)
  | tearDown (ctx : Nat) (record : BitVec 1024)
  | cadenceRelease (q : Nat)
  | cardAgeing (q : Nat)
  | quantumExpiry (ctxs : List Nat)
  | staticEnergyCharge (tile : Nat)
  | firmwareInvalidation (buffer page : Word) (size : BitVec 2)
  | queueSwitchOut (q : Nat)
  | queueSwitchIn (q : Nat) (desc : BitVec 512)
  | qftWrite (m : Msg)
  | qftRead (m : Msg)
  | qftReaddata (m : Msg)
  | qftPut (m : Msg)
  | qftGet (m : Msg)
  | qftDone (m : Msg)
  | qftLoad (m : Msg)
  | qftColl (m : Msg) (c : Coll)
  | qftTrace (m : Msg)
  | qftNak (m : Msg)
  | nonQftDatagram (port : Nat)
  | qftResendTimeout (port : Nat) (peer : BitVec 128) (chan : Nat)
  | moduleReset
  | functionReady (f : Function)
  | powerWindow (watts : Nat)
  | thermalThrottle (die temp : Nat)
  | thermalTrip (die temp : Nat)
  | cardCountZeroDispatch (q : Nat)
  | traceFrame (cluster : Nat)
  | portLinkChange (port : Nat) (up : Bool)
  | thermalCoolBelow100 (die temp : Nat)
  deriving DecidableEq, Repr, Inhabited

end Sys2Proof
end

