-- ==== Sys2Proof/WellFormed.lean ====
section
/-!
DEFINITION. Which instructions are well formed: the checks of R40 (details 1 to 3) that the field widths
of `Instr` do not already make. `Instr.defect` names the lowest detail that an instruction fails.
-/

namespace Sys2Proof

/-- The level of a vector operand field (R15). -/
def VField.level (f : VField) : Nat := f.toNat / 256
/-- The index of a vector operand field (R15). -/
def VField.index (f : VField) : Nat := f.toNat % 256

/-- Level 11 with an index 0x40-0x7F: a scalar (R55). -/
def VField.isScalar (f : VField) : Bool := f.level == 3 && 0x40 ≤ f.index && f.index ≤ 0x7F
/-- The load-data queue (R55). -/
def VField.isLdq (f : VField) : Bool := f.toNat == 0x300
/-- The random-bits queue (R55). -/
def VField.isRnd (f : VField) : Bool := f.toNat == 0x301
/-- The store data (R55). -/
def VField.isStq (f : VField) : Bool := f.toNat == 0x302

/-- A row, an operand-file entry, a latch or `ldq`: a source that carries a tag of its own (R193, R198, R199). -/
def VField.taggedSource (f : VField) : Bool :=
  match f.level with
  | 0 => true
  | 1 => f.index ≤ 15
  | 2 => f.index ≤ 1
  | _ => f.isLdq

/-- The source column of R55. -/
def VField.sourceOk (f : VField) : Bool :=
  f.taggedSource || (f.level == 3 && (f.index == 1 || 0x40 ≤ f.index))

/-- The destination column of R55, scalars apart. -/
def VField.destOk (f : VField) : Bool :=
  match f.level with
  | 0 => true
  | 1 => f.index ≤ 15
  | 2 => false
  | _ => f.index == 2

/-- The unit operations with two inputs (R54). -/
def unitBinary (op : BitVec 5) : Bool :=
  let n := op.toNat
  (1 ≤ n && n ≤ 6) || (11 ≤ n && n ≤ 21) || n == 26 || n == 27

/-- The chain classes that a unit operation belongs to (R54): class 0b00 is float, 0b01 and 0b10 integer. -/
def unitInClass (cc : BitVec 2) (op : BitVec 5) : Bool :=
  let n := op.toNat
  if n == 31 then false
  else if 15 ≤ n && n ≤ 17 then cc != 0
  else if 22 ≤ n && n ≤ 29 then cc == 0
  else true

/-- A VCH reads y when its first or third unit is binary (R53). -/
def vchReadsY (a c : BitVec 5) : Bool := unitBinary a || unitBinary c
/-- A VCH reads z when its second unit is binary (R53). -/
def vchReadsZ (b : BitVec 5) : Bool := unitBinary b

/-- The special-register numbers that the manual lists (R154). -/
def listedSpecial (num : BitVec 12) : Bool :=
  let n := num.toNat
  n ≤ 0x006 || (0x010 ≤ n && n ≤ 0x012) || n == 0x020 || n == 0x021 ||
  (0x040 ≤ n && n ≤ 0x047) || (0x050 ≤ n && n ≤ 0x055) || (0x060 ≤ n && n ≤ 0x069) ||
  (0x080 ≤ n && n ≤ 0x084) || (0x088 ≤ n && n ≤ 0x08D) || n == 0x0C0 ||
  (0x0C4 ≤ n && n ≤ 0x0CB) || (0x0D0 ≤ n && n ≤ 0x0D2) || n == 0x0D8 || n == 0x0E0 || n == 0x0E1 ||
  (0x100 ≤ n && n ≤ 0x143) || (0x148 ≤ n && n ≤ 0x14B)

/-- The group of slot i in a FORK map (R49). -/
def mapGroup (map : BitVec 16) (i : Nat) : Nat := map.toNat / 4 ^ i % 4
/-- The number of groups of a FORK map (R288). -/
def mapGroups (map : BitVec 16) : Nat := 1 + (List.range 8).foldl (fun m i => Nat.max m (mapGroup map i)) 0

/-- The legality of a FORK map: slot 0 in group 0, groups without a gap (R49). -/
def forkMapOk (map : BitVec 16) : Bool :=
  mapGroup map 0 == 0 && (List.range (mapGroups map)).all (fun g => (List.range 8).any fun i => mapGroup map i == g)

/-- No offset for a group that the map does not use (R49). -/
def forkOffsetsOk (map : BitVec 16) (o1 o2 o3 : BitVec 14) : Bool :=
  (2 ≤ mapGroups map || o1 == 0) && (3 ≤ mapGroups map || o2 == 0) && (4 ≤ mapGroups map || o3 == 0)

/-- The legality of a FORK map and its offsets (R49). -/
def forkOk (map : BitVec 16) (o1 o2 o3 : BitVec 14) : Bool := forkMapOk map && forkOffsetsOk map o1 o2 o3

/-- The field codes of MSET with the levels that may name them (R208, R209). -/
def msetFieldOk (level field : BitVec 6) : Bool :=
  level.toNat ≤ 5 && (field.toNat ≤ 4 || (8 ≤ field.toNat && field.toNat ≤ 21 && level.toNat == 0))

/-- Detail 3 when the condition fails. -/
def range3 (ok : Bool) : Option Nat := if ok then none else some 3

/-- A tag code from lo to hi (R134). -/
def tagIn (t : BitVec 4) (lo hi : Nat) : Bool := lo ≤ t.toNat && t.toNat ≤ hi

/-- The lowest detail of R40 that the instruction fails, if any. Reserved bits outside every field are
the decoder's (detail 2); majors and minors are the opcode maps' (details 0 and 1). -/
def Instr.defect : Instr → Option Nat
  | .tlwaitImm tl _ => range3 (tl.toNat ≤ 6)
  | .tlwaitReg tl _ => range3 (tl.toNat ≤ 6)
  | .tlget _ tl => range3 (tl.toNat ≤ 6)
  | .extr _ _ pos len => range3 (pos.toNat + len.toNat + 1 ≤ 64)
  | .ins _ _ pos len => range3 (pos.toNat + len.toNat + 1 ≤ 64)
  | .sfcvt _ _ kind => range3 (kind.toNat ≤ 5)
  | .rdsp _ num => range3 (listedSpecial num)
  | .wrsp _ num => range3 (listedSpecial num)
  | .brpAny pn cnt _ => range3 (pn.toNat + cnt.toNat + 1 ≤ 32)
  | .brpAll pn cnt _ => range3 (pn.toNat + cnt.toNat + 1 ≤ 32)
  | .brpNone pn cnt _ => range3 (pn.toNat + cnt.toNat + 1 ≤ 32)
  | .fork map o1 o2 o3 => range3 (forkOk map o1 o2 o3)
  | .ctxsave _ _ grade => range3 (grade.toNat ≤ 2)
  | .ctxload _ _ grade => range3 (grade.toNat ≤ 2)
  | .amoAdd _ _ _ _ _ un => range3 (un == 0)
  | .amoAnd _ _ _ _ _ un => range3 (un == 0)
  | .amoOr _ _ _ _ _ un => range3 (un == 0)
  | .amoXor _ _ _ _ _ un => range3 (un == 0)
  | .amoSwap _ _ _ _ _ un => range3 (un == 0)
  | .cas _ _ _ _ _ un => range3 (un == 0)
  | .fence _ scope => range3 (scope.toNat ≤ 5)
  | .flset _ _ _ scope => range3 (scope.toNat ≤ 5)
  | .flsetAdd _ _ _ scope => range3 (scope.toNat ≤ 5)
  | .flwaitGe _ _ _ scope => range3 (scope.toNat ≤ 5)
  | .flwaitEq _ _ _ scope => range3 (scope.toNat ≤ 5)
  | .flwaitNe _ _ _ scope => range3 (scope.toNat ≤ 5)
  | .cpyl _ _ sb _ => range3 (1 ≤ sb.toNat && sb.toNat ≤ 52)
  | .pref _ _ _ _ _ _ sb => range3 (sb != 0)
  | .evict _ _ _ _ _ _ sb => range3 (sb != 0)
  | .credSum _ _ _ _ _ _ _ ty => range3 (ty.toNat ≤ 2)
  | .credMax _ _ _ _ _ _ _ ty => range3 (ty.toNat ≤ 2)
  | .credSmerge _ _ _ _ _ _ _ ty => range3 (ty.toNat ≤ 2)
  | .kvgath _ _ _ _ _ _ _ _ pol => range3 (pol.toNat ≤ 2)
  | .vch cc a b c d x y z _ =>
    if !(unitInClass cc a && unitInClass cc b && unitInClass cc c) then some 1
    else if (!vchReadsY a c && y != 0) || (!vchReadsZ b && z != 0) then some 2
    else range3 (d.destOk && x.sourceOk && (!vchReadsY a c || y.sourceOk) && (!vchReadsZ b || z.sourceOk))
  | .vcvt d x y _ tag => range3 (d.destOk && x.taggedSource && y.sourceOk && tagIn tag 1 8)
  | .vredAdd d x _ => range3 (d.destOk && x.sourceOk)
  | .vredMax d x _ => range3 (d.destOk && x.sourceOk)
  | .vredMin d x _ => range3 (d.destOk && x.sourceOk)
  | .vredAnd d x _ => range3 (d.destOk && x.sourceOk)
  | .vredOr d x _ => range3 (d.destOk && x.sourceOk)
  | .vscanAdd d x _ => range3 (d.destOk && x.sourceOk)
  | .vscanMax d x _ => range3 (d.destOk && x.sourceOk)
  | .vscanMin d x _ => range3 (d.destOk && x.sourceOk)
  | .vscanAnd d x _ => range3 (d.destOk && x.sourceOk)
  | .vscanOr d x _ => range3 (d.destOk && x.sourceOk)
  | .vperm d x y _ => range3 (d.destOk && x.sourceOk && y.sourceOk)
  | .vbcast d x _ _ => range3 (d.destOk && x.sourceOk)
  | .vshuf d x y _ pat n =>
    if (pat.toNat ≤ 5 && pat != 4 && n != 0) || (pat == 5 && y != 0) then some 2
    else range3 (pat.toNat ≤ 5 && d.destOk && x.sourceOk && (pat == 5 || y.sourceOk))
  | .vmaskFrom mk x => range3 (mk != 0 && x.taggedSource)
  | .vmaskAnd mk _ _ => range3 (mk != 0)
  | .vmaskOr mk _ _ => range3 (mk != 0)
  | .vmaskAndn mk _ _ => range3 (mk != 0)
  | .vmaskCount d mk => range3 (mk != 0 && d.isScalar)
  | .vtag d x _ tag => range3 (d.destOk && x.taggedSource && tagIn tag 1 9)
  | .vmov d x _ => range3 (d.destOk && x.sourceOk)
  | .vext d x _ => range3 (d.isScalar && x.taggedSource)
  | .vins d x y _ _ => range3 (d.destOk && x.sourceOk && y.isScalar)
  | .mcfg _ fmt => range3 (tagIn fmt 1 7)
  | .mset level field _ => range3 (msetFieldOk level field)
  | .msetI level field _ => range3 (msetFieldOk level field)
  | .msnap td ts _ => range3 (td != ts)
  | .mplane _ _ _ fmt => range3 (tagIn fmt 3 8)
  | _ => none

/-- An instruction the decoder accepts (R40). -/
def Instr.wellFormed (i : Instr) : Bool := i.defect.isNone

end Sys2Proof
end

