-- ==== Sys2Proof/Decode.lean ====
section
/-!
DEFINITION. The decoder, total on any word (R34-R59), and after it the encoder, from the same operand
tables. A syllable is read as a number with bit 0 its least significant bit; `fld w lo` is the field of w
that starts at bit lo, of the width its use asks for. A reserved bit is a bit that the encoder of the
instruction read would not set (R59, detail 2).
-/

namespace Sys2Proof

/-- The field of w from bit lo upward. -/
def fld {n : Nat} (w lo : Nat) : BitVec n := BitVec.ofNat n (w / 2 ^ lo)

/-- Major and minor opcode at their places (R34, R36). -/
def op (major minor : Nat) : Nat := major * 2 ^ 52 + minor * 2 ^ 43

/-- A field at its place, with the rest of the syllable. -/
def put {n : Nat} (x : BitVec n) (lo rest : Nat) : Nat := x.toNat * 2 ^ lo + rest

/-- Bits 59:0 of the first syllable that holds the instruction, guard 0; `none` for a row that is no
syllable. -/
def Instr.pack : Instr → Nat
  | .tlwaitImm tl n => put tl 37 (put n 0 (op 0xF0 0))
  | .tlwaitReg tl sa => put tl 37 (put sa 31 (op 0xF0 1))
  | .nop => op 0xFF 0
  | .add sd sa sb => put sd 37 (put sa 31 (put sb 25 (op 0x00 0)))
  | .sub sd sa sb => put sd 37 (put sa 31 (put sb 25 (op 0x00 1)))
  | .mul sd sa sb => put sd 37 (put sa 31 (put sb 25 (op 0x00 2)))
  | .mulh sd sa sb => put sd 37 (put sa 31 (put sb 25 (op 0x00 3)))
  | .mulhu sd sa sb => put sd 37 (put sa 31 (put sb 25 (op 0x00 4)))
  | .div sd sa sb => put sd 37 (put sa 31 (put sb 25 (op 0x01 0)))
  | .divu sd sa sb => put sd 37 (put sa 31 (put sb 25 (op 0x01 1)))
  | .rem sd sa sb => put sd 37 (put sa 31 (put sb 25 (op 0x01 2)))
  | .remu sd sa sb => put sd 37 (put sa 31 (put sb 25 (op 0x01 3)))
  | .and sd sa sb => put sd 37 (put sa 31 (put sb 25 (op 0x02 0)))
  | .or sd sa sb => put sd 37 (put sa 31 (put sb 25 (op 0x02 1)))
  | .xor sd sa sb => put sd 37 (put sa 31 (put sb 25 (op 0x02 2)))
  | .shl sd sa sb => put sd 37 (put sa 31 (put sb 25 (op 0x02 3)))
  | .shr sd sa sb => put sd 37 (put sa 31 (put sb 25 (op 0x02 4)))
  | .sar sd sa sb => put sd 37 (put sa 31 (put sb 25 (op 0x02 5)))
  | .rotr sd sa sb => put sd 37 (put sa 31 (put sb 25 (op 0x02 6)))
  | .min sd sa sb => put sd 37 (put sa 31 (put sb 25 (op 0x03 0)))
  | .max sd sa sb => put sd 37 (put sa 31 (put sb 25 (op 0x03 1)))
  | .minu sd sa sb => put sd 37 (put sa 31 (put sb 25 (op 0x03 2)))
  | .maxu sd sa sb => put sd 37 (put sa 31 (put sb 25 (op 0x03 3)))
  | .clz sd sa => put sd 37 (put sa 31 (op 0x03 4))
  | .ctz sd sa => put sd 37 (put sa 31 (op 0x03 5))
  | .popc sd sa => put sd 37 (put sa 31 (op 0x03 6))
  | .sel sd sa sb pn => put sd 37 (put sa 31 (put sb 25 (put pn 19 (op 0x04 0))))
  | .cmpEq pd sa sb => put pd 37 (put sa 31 (put sb 25 (op 0x04 1)))
  | .cmpNe pd sa sb => put pd 37 (put sa 31 (put sb 25 (op 0x04 2)))
  | .cmpLt pd sa sb => put pd 37 (put sa 31 (put sb 25 (op 0x04 3)))
  | .cmpLe pd sa sb => put pd 37 (put sa 31 (put sb 25 (op 0x04 4)))
  | .cmpLtu pd sa sb => put pd 37 (put sa 31 (put sb 25 (op 0x04 5)))
  | .cmpLeu pd sa sb => put pd 37 (put sa 31 (put sb 25 (op 0x04 6)))
  | .pset pd pa pb tt => put pd 37 (put pa 31 (put pb 25 (put tt 0 (op 0x05 0))))
  | .pmovToScalar sd => put sd 37 (op 0x05 1)
  | .pmovToPredicates sa => put sa 31 (op 0x05 2)
  | .extr sd sa pos len => put sd 37 (put sa 31 (put pos 19 (put len 13 (op 0x05 3))))
  | .ins sd sa pos len => put sd 37 (put sa 31 (put pos 19 (put len 13 (op 0x05 4))))
  | .sfadd sd sa sb => put sd 37 (put sa 31 (put sb 25 (op 0x06 0)))
  | .sfmul sd sa sb => put sd 37 (put sa 31 (put sb 25 (op 0x06 1)))
  | .sfma sd sa sb sc => put sd 37 (put sa 31 (put sb 25 (put sc 19 (op 0x06 2))))
  | .sfcvt sd sa kind => put sd 37 (put sa 31 (put kind 0 (op 0x06 3)))
  | .abuf ad sa sb => put ad 37 (put sa 31 (put sb 25 (op 0x07 0)))
  | .aadd ad aa sb imm => put ad 37 (put aa 31 (put sb 25 (put imm 0 (op 0x07 1))))
  | .aget sd aa => put sd 37 (put aa 31 (op 0x07 2))
  | .aset ad sa => put ad 37 (put sa 31 (op 0x07 3))
  | .rdsp sd num => put sd 37 (put num 0 (op 0x07 4))
  | .wrsp sa num => put sa 31 (put num 0 (op 0x07 5))
  | .addi sd sa imm => put sd 37 (put sa 31 (put imm 0 (op 0x10 0)))
  | .andi sd sa imm => put sd 37 (put sa 31 (put imm 0 (op 0x10 1)))
  | .ori sd sa imm => put sd 37 (put sa 31 (put imm 0 (op 0x10 2)))
  | .xori sd sa imm => put sd 37 (put sa 31 (put imm 0 (op 0x10 3)))
  | .shli sd sa n => put sd 37 (put sa 31 (put n 0 (op 0x10 4)))
  | .shri sd sa n => put sd 37 (put sa 31 (put n 0 (op 0x10 5)))
  | .sari sd sa n => put sd 37 (put sa 31 (put n 0 (op 0x10 6)))
  | .movi sd imm => put sd 37 (put imm 0 (op 0x11 0))
  | .movhi sd imm => put sd 37 (put imm 0 (op 0x11 1))
  | .br off => put off 0 (op 0x80 0)
  | .brInd sa => put sa 31 (op 0x80 1)
  | .call sd off => put sd 37 (put off 0 (op 0x80 2))
  | .callInd sd sa => put sd 37 (put sa 31 (op 0x80 3))
  | .ret sa => put sa 31 (op 0x80 4)
  | .brpAny pn cnt off => put pn 37 (put cnt 31 (put off 0 (op 0x81 0)))
  | .brpAll pn cnt off => put pn 37 (put cnt 31 (put off 0 (op 0x81 1)))
  | .brpNone pn cnt off => put pn 37 (put cnt 31 (put off 0 (op 0x81 2)))
  | .loopReg len sa id => put len 37 (put sa 31 (put id 25 (op 0x82 0)))
  | .loopImm len id count => put len 37 (put id 25 (put count 0 (op 0x82 1)))
  | .lbrk => op 0x82 2
  | .join mask => put mask 0 (op 0x84 0)
  | .gpost g => put g 37 (op 0x84 1)
  | .gtake g => put g 37 (op 0x84 2)
  | .gwait g => put g 37 (op 0x84 3)
  | .gclr g => put g 37 (op 0x84 4)
  | .halt => op 0x85 0
  | .yield => op 0x85 1
  | .svc code => put code 0 (op 0x85 2)
  | .trapret => op 0x8F 0
  | .ctxsave sa aa grade => put sa 37 (put aa 31 (put grade 0 (op 0x8F 1)))
  | .ctxload sa aa grade => put sa 37 (put aa 31 (put grade 0 (op 0x8F 2)))
  | .tinv sa sb size => put sa 37 (put sb 31 (put size 0 (op 0x8F 3)))
  | .ldU8 sd aa cls off => put sd 37 (put aa 31 (put cls 27 (put off 0 (op 0x00 0))))
  | .ldS8 sd aa cls off => put sd 37 (put aa 31 (put cls 27 (put off 0 (op 0x00 1))))
  | .ldU16 sd aa cls off => put sd 37 (put aa 31 (put cls 27 (put off 0 (op 0x00 2))))
  | .ldS16 sd aa cls off => put sd 37 (put aa 31 (put cls 27 (put off 0 (op 0x00 3))))
  | .ldU32 sd aa cls off => put sd 37 (put aa 31 (put cls 27 (put off 0 (op 0x00 4))))
  | .ldS32 sd aa cls off => put sd 37 (put aa 31 (put cls 27 (put off 0 (op 0x00 5))))
  | .ld64 sd aa cls off => put sd 37 (put aa 31 (put cls 27 (put off 0 (op 0x00 6))))
  | .st8 sa aa cls off => put sa 37 (put aa 31 (put cls 27 (put off 0 (op 0x01 0))))
  | .st16 sa aa cls off => put sa 37 (put aa 31 (put cls 27 (put off 0 (op 0x01 1))))
  | .st32 sa aa cls off => put sa 37 (put aa 31 (put cls 27 (put off 0 (op 0x01 2))))
  | .st64 sa aa cls off => put sa 37 (put aa 31 (put cls 27 (put off 0 (op 0x01 3))))
  | .ldacq32 sd aa cls off => put sd 37 (put aa 31 (put cls 27 (put off 0 (op 0x02 0))))
  | .ldacq64 sd aa cls off => put sd 37 (put aa 31 (put cls 27 (put off 0 (op 0x02 1))))
  | .strel32 sa aa cls off => put sa 37 (put aa 31 (put cls 27 (put off 0 (op 0x02 2))))
  | .strel64 sa aa cls off => put sa 37 (put aa 31 (put cls 27 (put off 0 (op 0x02 3))))
  | .ldq cnt aa cls stride => put cnt 37 (put aa 31 (put cls 19 (put stride 0 (op 0x03 0))))
  | .stqa cnt aa cls stride => put cnt 37 (put aa 31 (put cls 19 (put stride 0 (op 0x03 1))))
  | .amoAdd sd aa sb cls sz un => put sd 37 (put aa 31 (put sb 25 (put cls 19 (put sz 13 (put un 14 (op 0x04 0))))))
  | .amoMin sd aa sb cls sz un => put sd 37 (put aa 31 (put sb 25 (put cls 19 (put sz 13 (put un 14 (op 0x04 1))))))
  | .amoMax sd aa sb cls sz un => put sd 37 (put aa 31 (put sb 25 (put cls 19 (put sz 13 (put un 14 (op 0x04 2))))))
  | .amoAnd sd aa sb cls sz un => put sd 37 (put aa 31 (put sb 25 (put cls 19 (put sz 13 (put un 14 (op 0x04 3))))))
  | .amoOr sd aa sb cls sz un => put sd 37 (put aa 31 (put sb 25 (put cls 19 (put sz 13 (put un 14 (op 0x04 4))))))
  | .amoXor sd aa sb cls sz un => put sd 37 (put aa 31 (put sb 25 (put cls 19 (put sz 13 (put un 14 (op 0x04 5))))))
  | .amoSwap sd aa sb cls sz un => put sd 37 (put aa 31 (put sb 25 (put cls 19 (put sz 13 (put un 14 (op 0x04 6))))))
  | .cas sd aa sb cls sz un => put sd 37 (put aa 31 (put sb 25 (put cls 19 (put sz 13 (put un 14 (op 0x04 7))))))
  | .fence mask scope => put mask 0 (put scope 16 (op 0x05 0))
  | .flset sb aa cls scope => put sb 37 (put aa 31 (put cls 19 (put scope 13 (op 0x06 0))))
  | .flsetAdd sb aa cls scope => put sb 37 (put aa 31 (put cls 19 (put scope 13 (op 0x06 1))))
  | .flwaitGe sb aa cls scope => put sb 37 (put aa 31 (put cls 19 (put scope 13 (op 0x06 2))))
  | .flwaitEq sb aa cls scope => put sb 37 (put aa 31 (put cls 19 (put scope 13 (op 0x06 3))))
  | .flwaitNe sb aa cls scope => put sb 37 (put aa 31 (put cls 19 (put scope 13 (op 0x06 4))))
  | .cpy st ad as sn q cls sf => put st 37 (put ad 31 (put as 25 (put sn 19 (put q 17 (put cls 13 (put sf 7 (op 0x00 0)))))))
  | .cpyl ad as sb q => put ad 31 (put as 25 (put sb 19 (put q 17 (op 0x00 1))))
  | .gath st ad as sn q cls esz => put st 37 (put ad 31 (put as 25 (put sn 19 (put q 17 (put cls 13 (put esz 5 (op 0x00 2)))))))
  | .scat st ad as sn q cls esz => put st 37 (put ad 31 (put as 25 (put sn 19 (put q 17 (put cls 13 (put esz 5 (op 0x00 3)))))))
  | .tmov st ad as sn q cls sf => put st 37 (put ad 31 (put as 25 (put sn 19 (put q 17 (put cls 13 (put sf 7 (op 0x00 4)))))))
  | .rwr st ad as sn q cls sf => put st 37 (put ad 31 (put as 25 (put sn 19 (put q 17 (put cls 13 (put sf 7 (op 0x00 5)))))))
  | .pref st ad as sn q cls sb => put st 37 (put ad 31 (put as 25 (put sn 19 (put q 17 (put cls 13 (put sb 7 (op 0x01 0)))))))
  | .evict st ad as sn q cls sb => put st 37 (put ad 31 (put as 25 (put sn 19 (put q 17 (put cls 13 (put sb 7 (op 0x01 1)))))))
  | .credSum st ad as sn q cls sc ty => put st 37 (put ad 31 (put as 25 (put sn 19 (put q 17 (put cls 13 (put sc 7 (put ty 0 (op 0x01 2))))))))
  | .credMax st ad as sn q cls sc ty => put st 37 (put ad 31 (put as 25 (put sn 19 (put q 17 (put cls 13 (put sc 7 (put ty 0 (op 0x01 3))))))))
  | .credSmerge st ad as sn q cls sc ty => put st 37 (put ad 31 (put as 25 (put sn 19 (put q 17 (put cls 13 (put sc 7 (put ty 0 (op 0x01 4))))))))
  | .kvgath st ad ab sp q cls sl v pol => put st 37 (put ad 31 (put ab 25 (put sp 19 (put q 17 (put cls 13 (put sl 7 (put v 2 (put pol 0 (op 0x02 0)))))))))
  | .kvapp st ab as sp q cls sl mode => put st 37 (put ab 31 (put as 25 (put sp 19 (put q 17 (put cls 13 (put sl 7 (put mode 0 (op 0x02 1))))))))
  | .tlget sd tl => put sd 37 (put tl 31 (op 0x03 0))
  | .vcvt d x y m tag => put d 33 (put x 23 (put y 13 (put m 10 (put tag 0 (op 0xC0 0)))))
  | .vredAdd d x m => put d 33 (put x 23 (put m 10 (op 0xC1 0)))
  | .vredMax d x m => put d 33 (put x 23 (put m 10 (op 0xC1 1)))
  | .vredMin d x m => put d 33 (put x 23 (put m 10 (op 0xC1 2)))
  | .vredAnd d x m => put d 33 (put x 23 (put m 10 (op 0xC1 3)))
  | .vredOr d x m => put d 33 (put x 23 (put m 10 (op 0xC1 4)))
  | .vscanAdd d x m => put d 33 (put x 23 (put m 10 (op 0xC2 0)))
  | .vscanMax d x m => put d 33 (put x 23 (put m 10 (op 0xC2 1)))
  | .vscanMin d x m => put d 33 (put x 23 (put m 10 (op 0xC2 2)))
  | .vscanAnd d x m => put d 33 (put x 23 (put m 10 (op 0xC2 3)))
  | .vscanOr d x m => put d 33 (put x 23 (put m 10 (op 0xC2 4)))
  | .vperm d x y m => put d 33 (put x 23 (put y 13 (put m 10 (op 0xC3 0))))
  | .vbcast d x m lane => put d 33 (put x 23 (put m 10 (put lane 0 (op 0xC4 0))))
  | .vshuf d x y m pat n => put d 33 (put x 23 (put y 13 (put m 10 (put pat 0 (put n 4 (op 0xC5 0))))))
  | .vmaskFrom mk x => put mk 10 (put x 23 (op 0xC6 0))
  | .vmaskAnd mk mi mj => put mk 10 (put mi 0 (put mj 3 (op 0xC6 1)))
  | .vmaskOr mk mi mj => put mk 10 (put mi 0 (put mj 3 (op 0xC6 2)))
  | .vmaskAndn mk mi mj => put mk 10 (put mi 0 (put mj 3 (op 0xC6 3)))
  | .vmaskCount d mk => put d 33 (put mk 10 (op 0xC6 4))
  | .vtag d x m tag => put d 33 (put x 23 (put m 10 (put tag 0 (op 0xC7 0))))
  | .vmov d x m => put d 33 (put x 23 (put m 10 (op 0xC8 0)))
  | .vext d x lane => put d 33 (put x 23 (put lane 0 (op 0xC9 0)))
  | .vins d x y m lane => put d 33 (put x 23 (put y 13 (put m 10 (put lane 0 (op 0xCA 0)))))
  | .mcfg t fmt => put t 37 (put fmt 0 (op 0x00 0))
  | .mset level field sa => put level 37 (put field 31 (put sa 25 (op 0x00 1)))
  | .msetI level field imm => put level 37 (put field 31 (put imm 0 (op 0x00 2)))
  | .mgo => op 0x00 3
  | .mwait => op 0x00 4
  | .mclr t => put t 37 (op 0x00 5)
  | .mstop => op 0x00 6
  | .msnap td ts sd => put td 37 (put ts 31 (put sd 25 (op 0x01 0)))
  | .mplane ad as sn fmt => put ad 31 (put as 25 (put sn 19 (put fmt 0 (op 0x01 1))))
  | .mprov sd word => put sd 37 (put word 0 (op 0x01 2))
  | .route sd atile ar st sl rows => put sd 37 (put atile 31 (put ar 25 (put st 19 (put sl 13 (put rows 0 (op 0x00 0))))))
  | .rret st ar => put st 37 (put ar 31 (op 0x00 1))
  | .rwait si => put si 31 (op 0x00 2)
  | .rstat sd si word => put sd 37 (put si 31 (put word 0 (op 0x00 3)))
  | .conftMaxp pd al sh sx => put pd 37 (put al 31 (put sh 25 (put sx 19 (op 0x01 0))))
  | .conftEnt pd al sh sx => put pd 37 (put al 31 (put sh 25 (put sx 19 (op 0x01 1))))
  | .rngkey sa sb rst => put sa 31 (put sb 25 (put rst 0 (op 0x02 0)))
  | .enrd sd => put sd 37 (op 0x02 1)
  | .jobq sd ac sq => put sd 37 (put ac 31 (put sq 25 (op 0x03 0)))
  | .launch sd ac sq => put sd 37 (put ac 31 (put sq 25 (op 0x03 1)))
  | .futinit af => put af 31 (op 0x04 0)
  | .futreg af sc sj => put af 31 (put sc 25 (put sj 19 (op 0x04 1)))
  | .futres af sv => put af 31 (put sv 25 (op 0x04 2))
  | .futwait sd af => put sd 37 (put af 31 (op 0x04 3))
  | .crewjoin sd sc => put sd 37 (put sc 31 (op 0x05 0))
  | .crewleave sc => put sc 31 (op 0x05 1)
  | .cbar sc => put sc 31 (op 0x05 2)
  | .fork map _ _ _ => put map 0 (op 0x83 0)
  | .vch cc a b c d x y z m => put cc 58 (put a 53 (put b 48 (put c 43 (put d 33 (put x 23 (put y 13 (put z 3 (put m 0 0))))))))

  | _ => 0

/-- Bits 59:0 of the FORK S1 half (R49, format FK). -/
def packForkS1 (o1 o2 o3 : BitVec 14) : Nat := put o1 29 (put o2 15 (put o3 1 (op 0x83 1)))

/-- The opcode map of the every space (R47). -/
def everyOp (w major minor : Nat) : Except Nat Instr :=
  match major with
  | 0xF0 => match minor with
    | 0 => .ok (.tlwaitImm (fld w 37) (fld w 0))
    | 1 => .ok (.tlwaitReg (fld w 37) (fld w 31))
    | _ => .error 1
  | 0xFF => match minor with
    | 0 => .ok (.nop)
    | _ => .error 1
  | _ => .error 0

/-- The opcode map of the scalar space (R48, R49). -/
def scalarOp (w major minor : Nat) : Except Nat Instr :=
  match major with
  | 0x00 => match minor with
    | 0 => .ok (.add (fld w 37) (fld w 31) (fld w 25))
    | 1 => .ok (.sub (fld w 37) (fld w 31) (fld w 25))
    | 2 => .ok (.mul (fld w 37) (fld w 31) (fld w 25))
    | 3 => .ok (.mulh (fld w 37) (fld w 31) (fld w 25))
    | 4 => .ok (.mulhu (fld w 37) (fld w 31) (fld w 25))
    | _ => .error 1
  | 0x01 => match minor with
    | 0 => .ok (.div (fld w 37) (fld w 31) (fld w 25))
    | 1 => .ok (.divu (fld w 37) (fld w 31) (fld w 25))
    | 2 => .ok (.rem (fld w 37) (fld w 31) (fld w 25))
    | 3 => .ok (.remu (fld w 37) (fld w 31) (fld w 25))
    | _ => .error 1
  | 0x02 => match minor with
    | 0 => .ok (.and (fld w 37) (fld w 31) (fld w 25))
    | 1 => .ok (.or (fld w 37) (fld w 31) (fld w 25))
    | 2 => .ok (.xor (fld w 37) (fld w 31) (fld w 25))
    | 3 => .ok (.shl (fld w 37) (fld w 31) (fld w 25))
    | 4 => .ok (.shr (fld w 37) (fld w 31) (fld w 25))
    | 5 => .ok (.sar (fld w 37) (fld w 31) (fld w 25))
    | 6 => .ok (.rotr (fld w 37) (fld w 31) (fld w 25))
    | _ => .error 1
  | 0x03 => match minor with
    | 0 => .ok (.min (fld w 37) (fld w 31) (fld w 25))
    | 1 => .ok (.max (fld w 37) (fld w 31) (fld w 25))
    | 2 => .ok (.minu (fld w 37) (fld w 31) (fld w 25))
    | 3 => .ok (.maxu (fld w 37) (fld w 31) (fld w 25))
    | 4 => .ok (.clz (fld w 37) (fld w 31))
    | 5 => .ok (.ctz (fld w 37) (fld w 31))
    | 6 => .ok (.popc (fld w 37) (fld w 31))
    | _ => .error 1
  | 0x04 => match minor with
    | 0 => .ok (.sel (fld w 37) (fld w 31) (fld w 25) (fld w 19))
    | 1 => .ok (.cmpEq (fld w 37) (fld w 31) (fld w 25))
    | 2 => .ok (.cmpNe (fld w 37) (fld w 31) (fld w 25))
    | 3 => .ok (.cmpLt (fld w 37) (fld w 31) (fld w 25))
    | 4 => .ok (.cmpLe (fld w 37) (fld w 31) (fld w 25))
    | 5 => .ok (.cmpLtu (fld w 37) (fld w 31) (fld w 25))
    | 6 => .ok (.cmpLeu (fld w 37) (fld w 31) (fld w 25))
    | _ => .error 1
  | 0x05 => match minor with
    | 0 => .ok (.pset (fld w 37) (fld w 31) (fld w 25) (fld w 0))
    | 1 => .ok (.pmovToScalar (fld w 37))
    | 2 => .ok (.pmovToPredicates (fld w 31))
    | 3 => .ok (.extr (fld w 37) (fld w 31) (fld w 19) (fld w 13))
    | 4 => .ok (.ins (fld w 37) (fld w 31) (fld w 19) (fld w 13))
    | _ => .error 1
  | 0x06 => match minor with
    | 0 => .ok (.sfadd (fld w 37) (fld w 31) (fld w 25))
    | 1 => .ok (.sfmul (fld w 37) (fld w 31) (fld w 25))
    | 2 => .ok (.sfma (fld w 37) (fld w 31) (fld w 25) (fld w 19))
    | 3 => .ok (.sfcvt (fld w 37) (fld w 31) (fld w 0))
    | _ => .error 1
  | 0x07 => match minor with
    | 0 => .ok (.abuf (fld w 37) (fld w 31) (fld w 25))
    | 1 => .ok (.aadd (fld w 37) (fld w 31) (fld w 25) (fld w 0))
    | 2 => .ok (.aget (fld w 37) (fld w 31))
    | 3 => .ok (.aset (fld w 37) (fld w 31))
    | 4 => .ok (.rdsp (fld w 37) (fld w 0))
    | 5 => .ok (.wrsp (fld w 31) (fld w 0))
    | _ => .error 1
  | 0x10 => match minor with
    | 0 => .ok (.addi (fld w 37) (fld w 31) (fld w 0))
    | 1 => .ok (.andi (fld w 37) (fld w 31) (fld w 0))
    | 2 => .ok (.ori (fld w 37) (fld w 31) (fld w 0))
    | 3 => .ok (.xori (fld w 37) (fld w 31) (fld w 0))
    | 4 => .ok (.shli (fld w 37) (fld w 31) (fld w 0))
    | 5 => .ok (.shri (fld w 37) (fld w 31) (fld w 0))
    | 6 => .ok (.sari (fld w 37) (fld w 31) (fld w 0))
    | _ => .error 1
  | 0x11 => match minor with
    | 0 => .ok (.movi (fld w 37) (fld w 0))
    | 1 => .ok (.movhi (fld w 37) (fld w 0))
    | _ => .error 1
  | 0x80 => match minor with
    | 0 => .ok (.br (fld w 0))
    | 1 => .ok (.brInd (fld w 31))
    | 2 => .ok (.call (fld w 37) (fld w 0))
    | 3 => .ok (.callInd (fld w 37) (fld w 31))
    | 4 => .ok (.ret (fld w 31))
    | _ => .error 1
  | 0x81 => match minor with
    | 0 => .ok (.brpAny (fld w 37) (fld w 31) (fld w 0))
    | 1 => .ok (.brpAll (fld w 37) (fld w 31) (fld w 0))
    | 2 => .ok (.brpNone (fld w 37) (fld w 31) (fld w 0))
    | _ => .error 1
  | 0x82 => match minor with
    | 0 => .ok (.loopReg (fld w 37) (fld w 31) (fld w 25))
    | 1 => .ok (.loopImm (fld w 37) (fld w 25) (fld w 0))
    | 2 => .ok (.lbrk)
    | _ => .error 1
  | 0x84 => match minor with
    | 0 => .ok (.join (fld w 0))
    | 1 => .ok (.gpost (fld w 37))
    | 2 => .ok (.gtake (fld w 37))
    | 3 => .ok (.gwait (fld w 37))
    | 4 => .ok (.gclr (fld w 37))
    | _ => .error 1
  | 0x85 => match minor with
    | 0 => .ok (.halt)
    | 1 => .ok (.yield)
    | 2 => .ok (.svc (fld w 0))
    | _ => .error 1
  | 0x8F => match minor with
    | 0 => .ok (.trapret)
    | 1 => .ok (.ctxsave (fld w 37) (fld w 31) (fld w 0))
    | 2 => .ok (.ctxload (fld w 37) (fld w 31) (fld w 0))
    | 3 => .ok (.tinv (fld w 37) (fld w 31) (fld w 0))
    | _ => .error 1
  | _ => .error 0

/-- The opcode map of the access space (R51). -/
def accessOp (w major minor : Nat) : Except Nat Instr :=
  match major with
  | 0x00 => match minor with
    | 0 => .ok (.ldU8 (fld w 37) (fld w 31) (fld w 27) (fld w 0))
    | 1 => .ok (.ldS8 (fld w 37) (fld w 31) (fld w 27) (fld w 0))
    | 2 => .ok (.ldU16 (fld w 37) (fld w 31) (fld w 27) (fld w 0))
    | 3 => .ok (.ldS16 (fld w 37) (fld w 31) (fld w 27) (fld w 0))
    | 4 => .ok (.ldU32 (fld w 37) (fld w 31) (fld w 27) (fld w 0))
    | 5 => .ok (.ldS32 (fld w 37) (fld w 31) (fld w 27) (fld w 0))
    | 6 => .ok (.ld64 (fld w 37) (fld w 31) (fld w 27) (fld w 0))
    | _ => .error 1
  | 0x01 => match minor with
    | 0 => .ok (.st8 (fld w 37) (fld w 31) (fld w 27) (fld w 0))
    | 1 => .ok (.st16 (fld w 37) (fld w 31) (fld w 27) (fld w 0))
    | 2 => .ok (.st32 (fld w 37) (fld w 31) (fld w 27) (fld w 0))
    | 3 => .ok (.st64 (fld w 37) (fld w 31) (fld w 27) (fld w 0))
    | _ => .error 1
  | 0x02 => match minor with
    | 0 => .ok (.ldacq32 (fld w 37) (fld w 31) (fld w 27) (fld w 0))
    | 1 => .ok (.ldacq64 (fld w 37) (fld w 31) (fld w 27) (fld w 0))
    | 2 => .ok (.strel32 (fld w 37) (fld w 31) (fld w 27) (fld w 0))
    | 3 => .ok (.strel64 (fld w 37) (fld w 31) (fld w 27) (fld w 0))
    | _ => .error 1
  | 0x03 => match minor with
    | 0 => .ok (.ldq (fld w 37) (fld w 31) (fld w 19) (fld w 0))
    | 1 => .ok (.stqa (fld w 37) (fld w 31) (fld w 19) (fld w 0))
    | _ => .error 1
  | 0x04 => match minor with
    | 0 => .ok (.amoAdd (fld w 37) (fld w 31) (fld w 25) (fld w 19) (fld w 13) (fld w 14))
    | 1 => .ok (.amoMin (fld w 37) (fld w 31) (fld w 25) (fld w 19) (fld w 13) (fld w 14))
    | 2 => .ok (.amoMax (fld w 37) (fld w 31) (fld w 25) (fld w 19) (fld w 13) (fld w 14))
    | 3 => .ok (.amoAnd (fld w 37) (fld w 31) (fld w 25) (fld w 19) (fld w 13) (fld w 14))
    | 4 => .ok (.amoOr (fld w 37) (fld w 31) (fld w 25) (fld w 19) (fld w 13) (fld w 14))
    | 5 => .ok (.amoXor (fld w 37) (fld w 31) (fld w 25) (fld w 19) (fld w 13) (fld w 14))
    | 6 => .ok (.amoSwap (fld w 37) (fld w 31) (fld w 25) (fld w 19) (fld w 13) (fld w 14))
    | 7 => .ok (.cas (fld w 37) (fld w 31) (fld w 25) (fld w 19) (fld w 13) (fld w 14))
    | _ => .error 1
  | 0x05 => match minor with
    | 0 => .ok (.fence (fld w 0) (fld w 16))
    | _ => .error 1
  | 0x06 => match minor with
    | 0 => .ok (.flset (fld w 37) (fld w 31) (fld w 19) (fld w 13))
    | 1 => .ok (.flsetAdd (fld w 37) (fld w 31) (fld w 19) (fld w 13))
    | 2 => .ok (.flwaitGe (fld w 37) (fld w 31) (fld w 19) (fld w 13))
    | 3 => .ok (.flwaitEq (fld w 37) (fld w 31) (fld w 19) (fld w 13))
    | 4 => .ok (.flwaitNe (fld w 37) (fld w 31) (fld w 19) (fld w 13))
    | _ => .error 1
  | _ => .error 0

/-- The opcode map of the copy space (R52). -/
def copyOp (w major minor : Nat) : Except Nat Instr :=
  match major with
  | 0x00 => match minor with
    | 0 => .ok (.cpy (fld w 37) (fld w 31) (fld w 25) (fld w 19) (fld w 17) (fld w 13) (fld w 7))
    | 1 => .ok (.cpyl (fld w 31) (fld w 25) (fld w 19) (fld w 17))
    | 2 => .ok (.gath (fld w 37) (fld w 31) (fld w 25) (fld w 19) (fld w 17) (fld w 13) (fld w 5))
    | 3 => .ok (.scat (fld w 37) (fld w 31) (fld w 25) (fld w 19) (fld w 17) (fld w 13) (fld w 5))
    | 4 => .ok (.tmov (fld w 37) (fld w 31) (fld w 25) (fld w 19) (fld w 17) (fld w 13) (fld w 7))
    | 5 => .ok (.rwr (fld w 37) (fld w 31) (fld w 25) (fld w 19) (fld w 17) (fld w 13) (fld w 7))
    | _ => .error 1
  | 0x01 => match minor with
    | 0 => .ok (.pref (fld w 37) (fld w 31) (fld w 25) (fld w 19) (fld w 17) (fld w 13) (fld w 7))
    | 1 => .ok (.evict (fld w 37) (fld w 31) (fld w 25) (fld w 19) (fld w 17) (fld w 13) (fld w 7))
    | 2 => .ok (.credSum (fld w 37) (fld w 31) (fld w 25) (fld w 19) (fld w 17) (fld w 13) (fld w 7) (fld w 0))
    | 3 => .ok (.credMax (fld w 37) (fld w 31) (fld w 25) (fld w 19) (fld w 17) (fld w 13) (fld w 7) (fld w 0))
    | 4 => .ok (.credSmerge (fld w 37) (fld w 31) (fld w 25) (fld w 19) (fld w 17) (fld w 13) (fld w 7) (fld w 0))
    | _ => .error 1
  | 0x02 => match minor with
    | 0 => .ok (.kvgath (fld w 37) (fld w 31) (fld w 25) (fld w 19) (fld w 17) (fld w 13) (fld w 7) (fld w 2) (fld w 0))
    | 1 => .ok (.kvapp (fld w 37) (fld w 31) (fld w 25) (fld w 19) (fld w 17) (fld w 13) (fld w 7) (fld w 0))
    | _ => .error 1
  | 0x03 => match minor with
    | 0 => .ok (.tlget (fld w 37) (fld w 31))
    | _ => .error 1
  | _ => .error 0

/-- The opcode map of the vector space (R56). -/
def vectorOp (w major minor : Nat) : Except Nat Instr :=
  match major with
  | 0xC0 => match minor with
    | 0 => .ok (.vcvt (fld w 33) (fld w 23) (fld w 13) (fld w 10) (fld w 0))
    | _ => .error 1
  | 0xC1 => match minor with
    | 0 => .ok (.vredAdd (fld w 33) (fld w 23) (fld w 10))
    | 1 => .ok (.vredMax (fld w 33) (fld w 23) (fld w 10))
    | 2 => .ok (.vredMin (fld w 33) (fld w 23) (fld w 10))
    | 3 => .ok (.vredAnd (fld w 33) (fld w 23) (fld w 10))
    | 4 => .ok (.vredOr (fld w 33) (fld w 23) (fld w 10))
    | _ => .error 1
  | 0xC2 => match minor with
    | 0 => .ok (.vscanAdd (fld w 33) (fld w 23) (fld w 10))
    | 1 => .ok (.vscanMax (fld w 33) (fld w 23) (fld w 10))
    | 2 => .ok (.vscanMin (fld w 33) (fld w 23) (fld w 10))
    | 3 => .ok (.vscanAnd (fld w 33) (fld w 23) (fld w 10))
    | 4 => .ok (.vscanOr (fld w 33) (fld w 23) (fld w 10))
    | _ => .error 1
  | 0xC3 => match minor with
    | 0 => .ok (.vperm (fld w 33) (fld w 23) (fld w 13) (fld w 10))
    | _ => .error 1
  | 0xC4 => match minor with
    | 0 => .ok (.vbcast (fld w 33) (fld w 23) (fld w 10) (fld w 0))
    | _ => .error 1
  | 0xC5 => match minor with
    | 0 => .ok (.vshuf (fld w 33) (fld w 23) (fld w 13) (fld w 10) (fld w 0) (fld w 4))
    | _ => .error 1
  | 0xC6 => match minor with
    | 0 => .ok (.vmaskFrom (fld w 10) (fld w 23))
    | 1 => .ok (.vmaskAnd (fld w 10) (fld w 0) (fld w 3))
    | 2 => .ok (.vmaskOr (fld w 10) (fld w 0) (fld w 3))
    | 3 => .ok (.vmaskAndn (fld w 10) (fld w 0) (fld w 3))
    | 4 => .ok (.vmaskCount (fld w 33) (fld w 10))
    | _ => .error 1
  | 0xC7 => match minor with
    | 0 => .ok (.vtag (fld w 33) (fld w 23) (fld w 10) (fld w 0))
    | _ => .error 1
  | 0xC8 => match minor with
    | 0 => .ok (.vmov (fld w 33) (fld w 23) (fld w 10))
    | _ => .error 1
  | 0xC9 => match minor with
    | 0 => .ok (.vext (fld w 33) (fld w 23) (fld w 0))
    | _ => .error 1
  | 0xCA => match minor with
    | 0 => .ok (.vins (fld w 33) (fld w 23) (fld w 13) (fld w 10) (fld w 0))
    | _ => .error 1
  | _ => .error 0

/-- The opcode map of the matrix space (R57). -/
def matrixOp (w major minor : Nat) : Except Nat Instr :=
  match major with
  | 0x00 => match minor with
    | 0 => .ok (.mcfg (fld w 37) (fld w 0))
    | 1 => .ok (.mset (fld w 37) (fld w 31) (fld w 25))
    | 2 => .ok (.msetI (fld w 37) (fld w 31) (fld w 0))
    | 3 => .ok (.mgo)
    | 4 => .ok (.mwait)
    | 5 => .ok (.mclr (fld w 37))
    | 6 => .ok (.mstop)
    | _ => .error 1
  | 0x01 => match minor with
    | 0 => .ok (.msnap (fld w 37) (fld w 31) (fld w 25))
    | 1 => .ok (.mplane (fld w 31) (fld w 25) (fld w 19) (fld w 0))
    | 2 => .ok (.mprov (fld w 37) (fld w 0))
    | _ => .error 1
  | _ => .error 0

/-- The opcode map of the special space (R58). -/
def specialOp (w major minor : Nat) : Except Nat Instr :=
  match major with
  | 0x00 => match minor with
    | 0 => .ok (.route (fld w 37) (fld w 31) (fld w 25) (fld w 19) (fld w 13) (fld w 0))
    | 1 => .ok (.rret (fld w 37) (fld w 31))
    | 2 => .ok (.rwait (fld w 31))
    | 3 => .ok (.rstat (fld w 37) (fld w 31) (fld w 0))
    | _ => .error 1
  | 0x01 => match minor with
    | 0 => .ok (.conftMaxp (fld w 37) (fld w 31) (fld w 25) (fld w 19))
    | 1 => .ok (.conftEnt (fld w 37) (fld w 31) (fld w 25) (fld w 19))
    | _ => .error 1
  | 0x02 => match minor with
    | 0 => .ok (.rngkey (fld w 31) (fld w 25) (fld w 0))
    | 1 => .ok (.enrd (fld w 37))
    | _ => .error 1
  | 0x03 => match minor with
    | 0 => .ok (.jobq (fld w 37) (fld w 31) (fld w 25))
    | 1 => .ok (.launch (fld w 37) (fld w 31) (fld w 25))
    | _ => .error 1
  | 0x04 => match minor with
    | 0 => .ok (.futinit (fld w 31))
    | 1 => .ok (.futreg (fld w 31) (fld w 25) (fld w 19))
    | 2 => .ok (.futres (fld w 31) (fld w 25))
    | 3 => .ok (.futwait (fld w 37) (fld w 31))
    | _ => .error 1
  | 0x05 => match minor with
    | 0 => .ok (.crewjoin (fld w 37) (fld w 31))
    | 1 => .ok (.crewleave (fld w 31))
    | 2 => .ok (.cbar (fld w 31))
    | _ => .error 1
  | _ => .error 0

/-- A VCH syllable (R53). -/
def vchOp (w : Nat) : Instr :=
  .vch (fld w 58) (fld w 53) (fld w 48) (fld w 43) (fld w 33) (fld w 23) (fld w 13) (fld w 3) (fld w 0)

/-- What one syllable holds: an instruction, or a half of FORK (R49). -/
inductive Half where
  | whole (i : Instr)
  | forkS0 (map : BitVec 16)
  | forkS1 (o1 o2 o3 : BitVec 14)
  deriving DecidableEq, Repr

/-- Bits 59:0 of a half, guard 0. -/
def Half.pack : Half → Nat
  | .whole i => i.pack
  | .forkS0 map => put map 0 (op 0x83 0)
  | .forkS1 o1 o2 o3 => packForkS1 o1 o2 o3

/-- VCH has no guard field: its bits 51:46 belong to the body (R53). NOP has bits 51:0 all zero (R47, R286). -/
def Half.guarded : Half → Bool
  | .whole (.vch ..) | .whole .nop => false
  | _ => true

/-- The opcode map that slot `slot` decodes (R22, R47-R58). An error is a detail of R40. -/
def slotOp (slot w : Nat) : Except Nat Half :=
  let major := w / 2 ^ 52 % 256
  let minor := w / 2 ^ 43 % 8
  if major = 0xF0 ∨ major = 0xFF then (everyOp w major minor).map .whole
  else match slot with
  | 0 | 1 =>
    if major = 0x83 then
      if minor = 0 then .ok (.forkS0 (fld w 0))
      else if minor = 1 then .ok (.forkS1 (fld w 29) (fld w 15) (fld w 1))
      else .error 1
    else (scalarOp w major minor).map .whole
  | 2 => (accessOp w major minor).map .whole
  | 3 => (copyOp w major minor).map .whole
  | 4 | 5 => if major < 0xC0 then .ok (.whole (vchOp w)) else (vectorOp w major minor).map .whole
  | 6 => (matrixOp w major minor).map .whole
  | _ => (specialOp w major minor).map .whole

/-- The lowest of details 0 to 3 that the syllable fails, or what it holds (R40, R59). The legality of a
FORK map needs the next syllable's offsets and is `fieldError`'s. -/
def decodeHalf (slot w : Nat) : Except Nat Half :=
  match slotOp slot w with
  | .error d => .error d
  | .ok h =>
    let defect := match h with
      | .whole i => i.defect
      | _ => none
    let guardBits := if h.guarded then w / 2 ^ 46 % 64 * 2 ^ 46 else 0
    if defect = some 1 then .error 1
    else if h.pack + guardBits ≠ w % 2 ^ 60 then .error 2
    else match defect with
      | some d => .error d
      | none => .ok h

/-- A decoded syllable: its slot, its guard (0 for VCH and NOP, R47, R53) and its instruction. A FORK carries both
halves and stands at slot 0. -/
structure Syl where
  slot  : Nat
  guard : BitVec 6
  op    : Instr
  deriving DecidableEq, Repr, Inhabited

/-- Why a bundle is refused (R40): the detail, and the slot of the offending syllable, which gives the
origin. -/
structure DecodeError where
  detail : Nat
  slot   : Nat
  deriving DecidableEq, Repr

/-- The slot number of a syllable (R34). -/
def wordSlot (w : Nat) : Nat := w / 2 ^ 60 % 8
/-- The stop bit of a syllable (R34). -/
def wordStop (w : Nat) : Bool := w / 2 ^ 63 % 2 == 1
/-- The guard field of a syllable (R34). -/
def wordGuard (w : Nat) : BitVec 6 := fld w 46

/-- Detail 6: the first syllable whose slot number is not above the one before (R38, R40). -/
def orderError : List Nat → Option DecodeError
  | a :: b :: r => if wordSlot a < wordSlot b then orderError (b :: r) else some ⟨6, wordSlot b⟩
  | _ => none

/-- Whether the map of a FORK S0 half is in range, beside the offsets that the next syllable gives where it is an S1
half, be it legal or not (R49). -/
def forkHalfOk (map : BitVec 16) (next : List Nat) : Bool :=
  forkMapOk map && match next with
    | [] => true
    | w1 :: _ => match slotOp (wordSlot w1) w1 with
      | .ok (.forkS1 o1 o2 o3) => forkOffsetsOk map o1 o2 o3
      | _ => true

/-- Details 0 to 3, at the lowest address (R40). A FORK map out of range is the S0 half's, paired or not (R49). -/
def fieldError : List Nat → Option DecodeError
  | [] => none
  | w :: r => match decodeHalf (wordSlot w) w with
    | .error d => some ⟨d, wordSlot w⟩
    | .ok (.forkS0 map) => if forkHalfOk map r then fieldError r else some ⟨3, wordSlot w⟩
    | .ok _ => fieldError r

/-- Whether the instruction is a control opcode: a scalar-space major 0x80-0x8F (R49). -/
def Instr.isControl (i : Instr) : Bool :=
  match i with
  | .br .. | .brInd .. | .call .. | .callInd .. | .ret .. | .brpAny .. | .brpAll .. | .brpNone .. | .loopReg ..
  | .loopImm .. | .lbrk | .fork .. | .join .. | .gpost .. | .gtake .. | .gwait .. | .gclr .. | .halt | .yield
  | .svc .. | .trapret | .ctxsave .. | .ctxload .. | .tinv .. => true
  | _ => false

/-- Detail 7 and the decoded syllables: FORK halves paired with one guard, no other control opcode in
slot 1 (R49). The words have passed `orderError` and `fieldError`. -/
def pairUp : List Nat → Except DecodeError (List Syl)
  | [] => .ok []
  | w :: r =>
    match decodeHalf (wordSlot w) w with
    | .error d => .error ⟨d, wordSlot w⟩
    | .ok (.forkS1 _ _ _) => .error ⟨7, wordSlot w⟩
    | .ok (.forkS0 map) =>
      match r with
      | [] => .error ⟨7, wordSlot w⟩
      | w1 :: r1 => match decodeHalf (wordSlot w1) w1 with
        | .ok (.forkS1 o1 o2 o3) =>
          if wordSlot w = 0 ∧ wordSlot w1 = 1 ∧ wordGuard w = wordGuard w1 then
            (pairUp r1).map (⟨0, wordGuard w, .fork map o1 o2 o3⟩ :: ·)
          else .error ⟨7, wordSlot w1⟩
        | _ => .error ⟨7, wordSlot w⟩
    | .ok (.whole i) =>
      if wordSlot w = 1 ∧ i.isControl then .error ⟨7, 1⟩
      else (pairUp r).map (⟨wordSlot w, if (Half.whole i).guarded then wordGuard w else 0, i⟩ :: ·)

/-- The decoder's checks of a bundle's words in the order of R40, details 4 and 5 apart, which compare
registers (Machine/Operands.lean). -/
def decodeBundle (ws : List Nat) : Except DecodeError (List Syl) :=
  match orderError ws with
  | some e => .error e
  | none => match fieldError ws with
    | some e => .error e
    | none => pairUp ws

/-- The words of a syllable with the given slot, guard and stop bit: one, or two for FORK (R34, R49). -/
def encode (slot : Nat) (guard : BitVec 6) (stop : Bool) (i : Instr) : List Nat :=
  let g := if (Half.whole i).guarded then guard.toNat * 2 ^ 46 else 0
  let e := if stop then 2 ^ 63 else 0
  match i with
  | .fork map o1 o2 o3 => [put map 0 (op 0x83 0) + g, e + 2 ^ 60 + packForkS1 o1 o2 o3 + g]
  | _ => [e + slot * 2 ^ 60 + i.pack + g]

/-- The instruction that the decoder reads from a table word (see the host's interface): its 64-bit words
are taken from bit 0 upward and decoded as one bundle of that instruction alone. -/
def decodeTableWord (nbits w : Nat) : Option Instr :=
  let first := w % 2 ^ 64
  let words := if nbits ≤ 64 then [first] else [first, w / 2 ^ 64 % 2 ^ 64]
  match decodeBundle words with
  | .ok [s] => some s.op
  | _ => none

end Sys2Proof
end

