-- ==== Sys2Proof/Config.lean ====
section
/-!
DEFINITION. What the manual leaves to the implementation or names without giving: opaque constants with no
body that can be evaluated, so that a claim holds whatever they are. Log 13 and 14 name them.
-/

namespace Sys2Proof.Config

/-- SHA-256 of a container's bytes (R60), named by the manual and not given (log 13). -/
opaque sha256 : List Byte → BitVec 256
/-- SHA-384 of a public key (R364) (log 13). -/
opaque sha384 : List Byte → BitVec 384
/-- RSASSA-PSS verification of (key, signed bytes, signature) (R363) (log 13). -/
opaque rsaVerify : List Byte → List Byte → List Byte → Bool
/-- SLH-DSA-SHA2-256s verification of (key, signed bytes, signature) (R363) (log 13). -/
opaque slhVerify : List Byte → List Byte → List Byte → Bool
/-- The digest of the RSA public key fused in the module (R364) (log 13). -/
opaque fusedRsaDigest : BitVec 384
/-- The digest of the SLH-DSA public key fused in the module (R364) (log 13). -/
opaque fusedSlhDigest : BitVec 384
/-- The fused minimum rollback number (R364) (log 13). -/
opaque fusedRollback : Nat
/-- The setting that steward firmware gives a cluster's clock after a window of an average in W, 0 for full (R365)
(log 14). -/
opaque powerClock : Nat → Nat → Nat
/-- Whether a lowered cluster's arithmetic clock has a cycle in a cycle of the full clock, by cluster, setting and
cycle (R365, R366) (log 5). -/
opaque clockEdge : Nat → Nat → Nat → Bool
/-- The 64-bit identifier of the module (R363) (log 13). -/
opaque moduleId : BitVec 64
/-- The number of a firmware image's version, against which a container's minimum is held (R60, R65) (log 14). -/
opaque firmwareVersion : List Byte → Nat

/-- Whether a plain copy that reads a byte it has itself overwritten delivers the byte's original value, by cycle and
byte (R109): both outcomes are allowed (log 8). -/
opaque keepsOriginal : Nat → Nat → Bool

/-- The bind record of a yield image that no yield save of this device has written, by the image's header and block: the
image holds no bind image (R330, R333; log 11). -/
opaque bindImage : List Byte → BitVec 1024

/-- A byte that the manual does not determine, by the number of such values drawn before it (log 14). -/
opaque freeByte : Nat → BitVec 8

/-- Rows that the private queue of `rnd` holds beyond the six that one bundle may pop (R149; log 4). -/
opaque rndDepth : Nat

end Sys2Proof.Config
end

