-- ==== Sys2Proof/Machine/Bits.lean ====
section
/-!
DEFINITION. Bit-field, sign-extension and byte-order helpers, and association tables kept in rising key
order. Numbers are the manual's little-endian byte strings (R8).
-/

namespace Sys2Proof.Machine

/-- Bits hi:lo of a number (R8, R10). -/
def bitsOf (x hi lo : Nat) : Nat := x / 2 ^ lo % 2 ^ (hi + 1 - lo)

/-- Bit i of a number. -/
def bitOf (x i : Nat) : Bool := x / 2 ^ i % 2 == 1

/-- The number with bits hi:lo replaced by v. -/
def setBits (x hi lo v : Nat) : Nat :=
  x % 2 ^ lo + (v % 2 ^ (hi + 1 - lo)) * 2 ^ lo + x / 2 ^ (hi + 1) * 2 ^ (hi + 1)

/-- Two's complement value of the low n bits (R11, Int). -/
def signed (x n : Nat) : Int :=
  let y := x % 2 ^ n
  if 2 * y < 2 ^ n then (y : Int) else (y : Int) - (2 : Int) ^ n

/-- An integer as n bits. -/
def wrapBits (i : Int) (n : Nat) : Nat := (i % (2 : Int) ^ n).toNat

/-- The bytes of a number, lowest first (R8). -/
def toBytes : Nat → Nat → List Byte
  | 0, _ => []
  | n + 1, x => BitVec.ofNat 8 x :: toBytes n (x / 256)

/-- The number that bytes hold, lowest first (R8). -/
def ofBytes : List Byte → Nat
  | [] => 0
  | b :: r => b.toNat + 256 * ofBytes r

/-- A 64-bit word from a number. -/
def word (x : Nat) : Word := BitVec.ofNat 64 x

/-- The buffer index of an address in address-register form (R42, R69). -/
def bufIdx (a : Word) : Nat := a.toNat / 2 ^ 48
/-- The byte offset of an address in address-register form (R42, R69). -/
def bufOff (a : Word) : Nat := a.toNat % 2 ^ 48
/-- An address from its parts. -/
def addrOf (idx off : Nat) : Word := word (idx % 2 ^ 16 * 2 ^ 48 + off % 2 ^ 48)
/-- An address with its offset moved, modulo 2^48 (R122, R176). -/
def addrAdd (a : Word) (d : Int) : Word := addrOf (bufIdx a) (wrapBits (bufOff a + d) 48)

/-- The value under key k in a table, d when none is listed. -/
def Tab.get {α : Type} (d : α) : List (Nat × α) → Nat → α
  | [], _ => d
  | (j, v) :: r, k => if j = k then v else Tab.get d r k

/-- The table with v under key k, keys kept rising. -/
def Tab.set {α : Type} : List (Nat × α) → Nat → α → List (Nat × α)
  | [], k, v => [(k, v)]
  | (j, w) :: r, k, v =>
    if j = k then (k, v) :: r
    else if k < j then (k, v) :: (j, w) :: r
    else (j, w) :: Tab.set r k v

/-- Whether a key is listed. -/
def Tab.has {α : Type} (t : List (Nat × α)) (k : Nat) : Bool := t.any (·.1 == k)

/-- The table without key k. -/
def Tab.del {α : Type} (t : List (Nat × α)) (k : Nat) : List (Nat × α) := t.filter (·.1 != k)

/-- The value under key k, if listed. -/
def Tab.find? {α : Type} (t : List (Nat × α)) (k : Nat) : Option α := (t.find? (·.1 == k)).map (·.2)

/-- Ceiling division. -/
def ceilDiv (a b : Nat) : Nat := (a + b - 1) / b

end Sys2Proof.Machine
end

