-- ==== Sys2Proof/Machine/Num.lean ====
section
/-!
DEFINITION. Number formats, tags, rounding, numeric versions and random bits (spec/07), and the unit
functions of spec/09 that need exact arithmetic. A value is computed exactly and rounded once.
-/

namespace Sys2Proof.Machine

/-- Format tags (R134). -/
inductive Tag where
  | empty | fp32 | int32 | bf16 | fp16 | e4m3 | e5m2 | int8 | nq4 | nq4s | deferred
  deriving DecidableEq, Repr, Inhabited

/-- The code of a tag (R134). -/
def Tag.code : Tag → Nat
  | .empty => 0 | .fp32 => 1 | .int32 => 2 | .bf16 => 3 | .fp16 => 4 | .e4m3 => 5 | .e5m2 => 6
  | .int8 => 7 | .nq4 => 8 | .nq4s => 9 | .deferred => 15

/-- The tag of a code; the reserved codes 0xA-0xE are out of range wherever a code is taken (R134). -/
def Tag.ofCode (c : Nat) : Tag :=
  match c with
  | 1 => .fp32 | 2 => .int32 | 3 => .bf16 | 4 => .fp16 | 5 => .e4m3 | 6 => .e5m2 | 7 => .int8
  | 8 => .nq4 | 9 => .nq4s | 15 => .deferred | _ => .empty

/-- Binary floating point (R134). -/
def Tag.isFloat : Tag → Bool
  | .fp32 | .bf16 | .fp16 | .e4m3 | .e5m2 => true
  | _ => false

/-- Two's complement integer (R134). -/
def Tag.isInt : Tag → Bool
  | .int32 | .int8 => true
  | _ => false

/-- Bytes of a lane; the two NQ4 tags have byte lanes (R134, R184), and so, by the model's choice, have EMPTY and DEFERRED,
whose rows a masked move carries by 256 byte lanes (R186; log 47). -/
def Tag.laneBytes : Tag → Nat
  | .fp32 | .int32 => 4
  | .bf16 | .fp16 => 2
  | _ => 1

/-- Bits of a lane. -/
def Tag.laneBits (t : Tag) : Nat := 8 * t.laneBytes
/-- Lanes of a 256-byte row (R180). -/
def Tag.lanes (t : Tag) : Nat := 256 / t.laneBytes

/-- Exponent width, mantissa width and bias (R137). -/
def Tag.expBits : Tag → Nat
  | .fp32 | .bf16 => 8
  | .fp16 | .e5m2 => 5
  | _ => 4
def Tag.manBits : Tag → Nat
  | .fp32 => 23 | .bf16 => 7 | .fp16 => 10 | .e4m3 => 3 | _ => 2
def Tag.bias : Tag → Int
  | .fp32 | .bf16 => 127
  | .fp16 | .e5m2 => 15
  | _ => 7
/-- Exponent of the smallest normal (R143). -/
def Tag.emin (t : Tag) : Int := 1 - t.bias
/-- Exponent of the largest finite value (R137). -/
def Tag.emax (t : Tag) : Int := match t with | .e4m3 => 8 | _ => t.bias
/-- Significand, of manBits + 1 bits, of the largest finite value (R137). -/
def Tag.maxSig (t : Tag) : Nat := match t with | .e4m3 => 14 | _ => 2 ^ (t.manBits + 1) - 1
/-- Only E4M3 lacks an infinity among the float formats (R137). -/
def Tag.hasInf (t : Tag) : Bool := t.isFloat && t != .e4m3
/-- The sign bit of a code. -/
def Tag.signBit (t : Tag) : Nat := 2 ^ (t.laneBits - 1)
/-- Default NaN (R137). -/
def Tag.nan : Tag → Nat
  | .fp32 => 0x7FC00000 | .bf16 => 0x7FC0 | .fp16 => 0x7E00 | .e4m3 => 0x7F | _ => 0x7E
/-- The code of +infinity (R137). -/
def Tag.infCode (t : Tag) : Nat := (2 ^ t.expBits - 1) * 2 ^ t.manBits
/-- The code of the largest finite value (R137). -/
def Tag.maxCode (t : Tag) : Nat := match t with | .e4m3 => 0x7E | _ => t.infCode - 1
/-- The code of 1.0. -/
def Tag.one (t : Tag) : Nat := (t.bias * 2 ^ t.manBits).toNat

/-- An exact value: ±mag·2^exp, or, when sticky, a real strictly between that and ±(mag+1)·2^exp.
mag is not 0. -/
inductive Val where
  | nan
  | inf (neg : Bool)
  | zero (neg : Bool)
  | fin (neg : Bool) (mag : Nat) (exp : Int) (sticky : Bool)
  deriving DecidableEq, Repr, Inhabited

/-- Rounding indications: the five NSTAT bits (R145). -/
abbrev Ind := BitVec 5
def Ind.inexact : Ind := 1
def Ind.underflow : Ind := 2
def Ind.overflow : Ind := 4
def Ind.saturation : Ind := 8
def Ind.invalid : Ind := 16

/-- The value of a magnitude that may be 0. -/
def Val.ofMag (neg : Bool) (mag : Nat) (exp : Int) : Val :=
  if mag = 0 then .zero neg else .fin neg mag exp false

/-- The value of an integer; 0 is +0. -/
def Val.ofInt (i : Int) : Val := Val.ofMag (decide (i < 0)) i.natAbs 0

/-- `Decode(f, b)` of a floating-point code (R138). -/
def decodeFloat (t : Tag) (b : Nat) : Val :=
  let neg := bitOf b (t.laneBits - 1)
  let e := b / 2 ^ t.manBits % 2 ^ t.expBits
  let m := b % 2 ^ t.manBits
  if e = 0 then Val.ofMag neg m (1 - t.bias - t.manBits)
  else if t = .e4m3 then
    if e = 15 ∧ m = 7 then .nan else .fin neg (8 + m) ((e : Int) - 10) false
  else if e = 2 ^ t.expBits - 1 then (if m = 0 then .inf neg else .nan)
  else .fin neg (2 ^ t.manBits + m) ((e : Int) - t.bias - t.manBits) false

/-- The value of an element of a float or integer format (R138, R139). -/
def decodeElem (t : Tag) (b : Nat) : Val :=
  if t.isInt then Val.ofInt (signed b t.laneBits) else decodeFloat t b

/-- Whether a float code is a subnormal (R138). -/
def isSubnormal (t : Tag) (b : Nat) : Bool :=
  t.isFloat && b / 2 ^ t.manBits % 2 ^ t.expBits == 0 && b % 2 ^ t.manBits != 0

/-- A source code as it is read under a numeric version: NVER 1 reads a subnormal as the zero of its
sign (R147). -/
def flushSource (nver : Nat) (t : Tag) (b : Nat) : Nat :=
  if nver = 1 && isSubnormal t b then b / 2 ^ (t.laneBits - 1) % 2 * t.signBit else b

/-- Whether a subnormal result of the format is replaced by zero under a numeric version (R147). -/
def flushesResult (nver : Nat) (t : Tag) : Bool :=
  match t with
  | .fp32 | .fp16 => nver == 1
  | .bf16 => nver == 1 || nver == 2
  | _ => false

/-- Nearest integer to mag·2^exp / 2^q, ties to even, or toward zero, and whether the value differs
from it. -/
def roundMag (tz : Bool) (mag : Nat) (exp : Int) (sticky : Bool) (q : Int) : Nat × Bool :=
  if q ≤ exp then (mag * 2 ^ (exp - q).toNat, sticky)
  else
    let d := 2 ^ (q - exp).toNat
    let n := mag / d
    let r := mag % d
    let up := !tz && (decide (2 * r > d) || (2 * r == d && (sticky || n % 2 == 1)))
    (if up then n + 1 else n, r != 0 || sticky)

/-- Sign times a magnitude. -/
def signInt (neg : Bool) (n : Nat) : Int := if neg then -(n : Int) else n

/-- Clamp to the signed range of b bits; whether it clamped (R11, SatS). -/
def satS (i : Int) (b : Nat) : Int × Bool :=
  if i < -(2 : Int) ^ (b - 1) then (-(2 : Int) ^ (b - 1), true)
  else if (2 : Int) ^ (b - 1) - 1 < i then ((2 : Int) ^ (b - 1) - 1, true)
  else (i, false)

/-- Clamp to the unsigned range of b bits; whether it clamped (R11, SatU). -/
def satU (i : Int) (b : Nat) : Int × Bool :=
  if i < 0 then (0, true)
  else if (2 : Int) ^ b - 1 < i then ((2 : Int) ^ b - 1, true)
  else (i, false)

/-- The indications where a condition holds. -/
def indIf (c : Bool) (i : Ind) : Ind := if c then i else 0

/-- A clamp of a finite value (R143). -/
def roundInt (x : Val) (b : Nat) : Nat × Ind :=
  match x with
  | .nan => (0, Ind.invalid)
  | .inf neg => (wrapBits (if neg then -(2 : Int) ^ (b - 1) else (2 : Int) ^ (b - 1) - 1) b, Ind.saturation)
  | .zero _ => (0, 0)
  | .fin neg mag exp sticky =>
    let (n, inx) := roundMag false mag exp sticky 0
    let (v, cl) := satS (signInt neg n) b
    (wrapBits v b, indIf (inx || cl) Ind.inexact ||| indIf cl Ind.saturation)

/-- `RoundFmt` into a float format with the subnormal rows of R147; toward zero when `tz` (R143). -/
def roundFloat (tz : Bool) (nver : Nat) (x : Val) (t : Tag) : Nat × Ind :=
  let sg (neg : Bool) : Nat := if neg then t.signBit else 0
  match x with
  | .nan => (t.nan, 0)
  | .inf neg => if t.hasInf then (sg neg + t.infCode, 0) else (sg neg + t.maxCode, Ind.saturation)
  | .zero neg => (sg neg, 0)
  | .fin neg mag exp sticky =>
    let m := t.manBits
    let e0 := max (exp + (Nat.log2 mag : Int)) t.emin
    let (n0, inx) := roundMag tz mag exp sticky (e0 - m)
    let (n, e) := if n0 = 2 ^ (m + 1) then (2 ^ m, e0 + 1) else (n0, e0)
    if e > t.emax || (e == t.emax && n > t.maxSig) then
      if tz then (sg neg + t.maxCode, Ind.overflow ||| Ind.inexact)
      else if t.hasInf then (sg neg + t.infCode, Ind.overflow ||| Ind.inexact)
      else (sg neg + t.maxCode, Ind.saturation ||| Ind.inexact)
    else if n < 2 ^ m then
      if n ≠ 0 && flushesResult nver t then (sg neg, Ind.underflow ||| Ind.inexact)
      else (sg neg + n, indIf inx (Ind.underflow ||| Ind.inexact))
    else (sg neg + ((e + t.bias).toNat * 2 ^ m + (n - 2 ^ m)), indIf inx Ind.inexact)

/-- `RoundFmt(x, f)` for a float or integer format under a numeric version (R143, R147). -/
def roundFmt (nver : Nat) (x : Val) (t : Tag) : Nat × Ind :=
  if t.isInt then roundInt x t.laneBits else roundFloat false nver x t

/-- Eight times the magnitudes of an NQ4 type, by magnitude code (R141). -/
def nq4Mags (type : Nat) : List Nat :=
  match type with
  | 0 => [0, 8, 16, 24, 32, 40, 48, 56]
  | 1 => [0, 4, 8, 12, 16, 24, 32, 48]
  | 2 => [0, 1, 2, 4, 8, 16, 32, 64]
  | _ => [0, 8, 16, 24, 32, 48, 64, 96]

/-- (significand, q) by magnitude code (R141). -/
def nq4Parts (type : Nat) : List (Nat × Int) :=
  match type with
  | 0 => [(0, 0), (1, 0), (2, 0), (3, 0), (4, 0), (5, 0), (6, 0), (7, 0)]
  | 1 => [(0, -1), (1, -1), (2, -1), (3, -1), (2, 0), (3, 0), (2, 1), (3, 1)]
  | 2 => [(0, 0), (1, -3), (1, -2), (1, -1), (1, 0), (1, 1), (1, 2), (1, 3)]
  | _ => [(0, 0), (1, 0), (2, 0), (3, 0), (4, 0), (3, 1), (4, 1), (6, 1)]

/-- The planes p of an NQ4 type (R141). -/
def nq4Planes (type : Nat) : Nat :=
  match type with | 0 => 3 | 1 => 2 | 2 => 1 | _ => 3

/-- Exponent of the scale of a scale byte (R140). -/
def nq4Exp (sb : Nat) : Int := (sb % 64 : Nat) - 32

/-- The value of an NQ4 code under a scale byte (R141). -/
def decodeNq4 (code sb : Nat) : Val :=
  let m8 := (nq4Mags (sb / 64 % 4)).getD (code % 8) 0
  if m8 = 0 then .zero false else .fin (code / 8 % 2 == 1) m8 (nq4Exp sb - 3) false

/-- The magnitude code nearest to a value of v/2 quarter-eighths: v is twice eight times the magnitude,
sticky when a little more. Ties go to the even code (R143). -/
def nq4Nearest (mags : List Nat) (v : Nat) (sticky : Bool) : Nat :=
  (List.range 7).foldl (fun c i =>
    let mid := mags.getD i 0 + mags.getD (i + 1) 0
    if v > mid || (v == mid && (sticky || i % 2 == 1)) then i + 1 else c) 0

/-- `RoundFmt` into NQ4 under a scale byte (R143): the code and the indications. -/
def roundNq4 (x : Val) (sb : Nat) : Nat × Ind :=
  let mags := nq4Mags (sb / 64 % 4)
  match x with
  | .nan => (0, Ind.invalid)
  | .inf neg => (if neg then 15 else 7, Ind.saturation)
  | .zero _ => (0, 0)
  | .fin neg mag exp sticky =>
    -- floor of |x| / (scale/8), doubled, with what lies below as sticky
    let q := nq4Exp sb - 4
    let v := if q ≤ exp then mag * 2 ^ (exp - q).toNat else mag / 2 ^ (q - exp).toNat
    let st := sticky || (q > exp && mag % 2 ^ (q - exp).toNat != 0)
    let top := 2 * mags.getD 7 0
    let beyond := v > top || (v == top && st)
    let c := if beyond then 7 else nq4Nearest mags v st
    let inx := st || v != 2 * mags.getD c 0
    (if c = 0 then 0 else (if neg then 8 else 0) + c,
      indIf inx Ind.inexact ||| indIf beyond Ind.saturation)

/-! Exact arithmetic. -/

/-- Exact value over a common power of two. -/
def Val.scaled (x : Val) (e : Int) : Int :=
  match x with
  | .fin neg mag exp _ => signInt neg (mag * 2 ^ (exp - e).toNat)
  | _ => 0

/-- The exponent of a finite value, d for zero. -/
def Val.expOr (x : Val) (d : Int) : Int :=
  match x with | .fin _ _ e _ => e | _ => d

def Val.isNan : Val → Bool
  | .nan => true
  | _ => false

def Val.neg? : Val → Bool
  | .nan => false
  | .inf n | .zero n | .fin n _ _ _ => n

def Val.negate : Val → Val
  | .nan => .nan
  | .inf n => .inf (!n)
  | .zero n => .zero (!n)
  | .fin n m e s => .fin (!n) m e s

def Val.isZero : Val → Bool
  | .zero _ => true
  | _ => false

/-- Exact sum and whether it is ∞ − ∞ (R143, R178, R187). -/
def Val.add (x y : Val) : Val × Bool :=
  match x, y with
  | .nan, _ => (.nan, false)
  | _, .nan => (.nan, false)
  | .inf a, .inf b => if a = b then (.inf a, false) else (.nan, true)
  | .inf a, _ => (.inf a, false)
  | _, .inf b => (.inf b, false)
  | .zero a, .zero b => (.zero (a && b), false)
  | .zero _, y => (y, false)
  | x, .zero _ => (x, false)
  | .fin _ _ ea _, .fin _ _ eb _ =>
    let e := min ea eb
    let v := x.scaled e + y.scaled e
    (Val.ofMag (decide (v < 0)) v.natAbs e, false)

/-- Exact product and whether it is 0·∞. -/
def Val.mul (x y : Val) : Val × Bool :=
  let n := x.neg? != y.neg?
  match x, y with
  | .nan, _ => (.nan, false)
  | _, .nan => (.nan, false)
  | .inf _, .zero _ => (.nan, true)
  | .zero _, .inf _ => (.nan, true)
  | .inf _, _ => (.inf n, false)
  | _, .inf _ => (.inf n, false)
  | .zero _, _ => (.zero n, false)
  | _, .zero _ => (.zero n, false)
  | .fin _ ma ea _, .fin _ mb eb _ => (.fin n (ma * mb) (ea + eb) false, false)

/-- u < w of two values that are no NaN; −0 and +0 are equal. -/
def Val.lt (x y : Val) : Bool :=
  match x, y with
  | .nan, _ => false
  | _, .nan => false
  | .inf a, .inf b => a && !b
  | .inf a, _ => a
  | _, .inf b => !b
  | x, y =>
    let e := min (x.expOr 0) (y.expOr 0)
    decide (x.scaled e < y.scaled e)

/-- u = w; a NaN is equal to nothing. -/
def Val.eqv (x y : Val) : Bool := !x.isNan && !y.isNan && !x.lt y && !y.lt x

/-- Rounding of a quotient to the nearest integer, ties to even. -/
def rneDiv (a b : Nat) : Nat :=
  let n := a / b
  let r := a % b
  if 2 * r > b || (2 * r == b && n % 2 == 1) then n + 1 else n

/-- The greatest r with r² ≤ n, found bit by bit from bit k − 1. -/
def sqrtBits (n : Nat) : Nat → Nat → Nat
  | 0, r => r
  | k + 1, r =>
    let c := r + 2 ^ k
    sqrtBits n k (if c * c ≤ n then c else r)

/-- A finite magnitude as s·2^e with 1 ≤ s < 2, s in units of 2^−60 or finer: (mag, log2 mag, exponent). -/
def normExp (mag : Nat) (exp : Int) : Int := exp + (Nat.log2 mag : Int)

/-- RCP of R190, of a source already read under the version. -/
def rcpVal (nver : Nat) (x : Val) (t : Tag) : Nat × Ind :=
  match x with
  | .nan => (t.nan, 0)
  | .inf n => roundFloat false nver (.zero n) t
  | .zero n => roundFloat false nver (.inf n) t
  | .fin n mag exp _ =>
    let l := Nat.log2 mag
    let e := normExp mag exp
    -- 1/|u| > maxSig·2^(emax − m)
    let ex := exp + t.emax - t.manBits
    let excess := if 0 ≤ ex then false else decide (t.maxSig * mag < 2 ^ (-ex).toNat)
    if excess then
      if t.hasInf then ((if n then t.signBit else 0) + t.infCode, Ind.overflow ||| Ind.inexact)
      else ((if n then t.signBit else 0) + t.maxCode, Ind.saturation ||| Ind.inexact)
    else if mag = 2 ^ l then roundFloat false nver (.fin n 1 (-e) false) t
    else
      let i := mag * 2 ^ 11 / 2 ^ l
      roundFloat false nver (.fin n (rneDiv (2 ^ 24) (2 * i + 1)) (-12 - e) false) t

/-- RSQRT of R190. -/
def rsqrtVal (nver : Nat) (x : Val) (t : Tag) : Nat × Ind :=
  match x with
  | .nan => (t.nan, 0)
  | .inf false => roundFloat false nver (.zero false) t
  | .inf true => (t.nan, Ind.invalid)
  | .zero n => roundFloat false nver (.inf n) t
  | .fin true _ _ _ => (t.nan, Ind.invalid)
  | .fin false mag exp _ =>
    let l := Nat.log2 mag
    let e := normExp mag exp
    let k := e / 2          -- floor
    let tw : Nat := (e - 2 * k).toNat
    if mag = 2 ^ l ∧ tw = 0 then roundFloat false nver (.fin false 1 (-k) false) t
    else
      let i := mag * 2 ^ (10 + tw) / 2 ^ l
      let q := (sqrtBits (2 ^ 37 / (2 * i + 1)) 20 0 + 1) / 2
      roundFloat false nver (.fin false q (-12 - k) false) t

/-- RCPN(r, x) of R191. -/
def rcpnVal (nver : Nat) (r x : Val) (t : Tag) : Nat × Ind :=
  match r, x with
  | .nan, _ => (t.nan, 0)
  | _, .nan => (t.nan, 0)
  | .zero n, _ => (if n then t.signBit else 0, 0)
  | .inf n, _ => roundFloat false nver (.inf n) t
  | _, .zero n => roundFloat false nver (.inf n) t
  | _, .inf n => roundFloat false nver (.zero n) t
  | r, x =>
    let two : Val := .fin false 1 1 false
    let d := (two.add (x.mul r).1.negate).1
    roundFloat false nver (r.mul d).1 t

/-- RSQN(r, x) of R191. -/
def rsqnVal (nver : Nat) (r x : Val) (t : Tag) : Nat × Ind :=
  match r, x with
  | .nan, _ => (t.nan, 0)
  | _, .nan => (t.nan, 0)
  | .zero n, _ => (if n then t.signBit else 0, 0)
  | .inf n, _ => roundFloat false nver (.inf n) t
  | _, .zero n => roundFloat false nver (.inf n) t
  | _, .inf false => roundFloat false nver (.zero false) t
  | _, .inf true => (t.nan, Ind.invalid)
  | _, .fin true _ _ _ => (t.nan, Ind.invalid)
  | r, x =>
    let three : Val := .fin false 3 0 false
    let d := (three.add (x.mul (r.mul r).1).1.negate).1
    roundFloat false nver ((r.mul d).1.mul (.fin false 1 (-1) false)).1 t

/-- floor(ln 2 · 2^288). -/
def ln2Fixed : Nat := 0xb17217f7d1cf79abc9e3b39803f2f6af40f343267298b62d8a0d175b8baafa2be7b87620

/-- floor(2^(f/2^n)·2^256) for 0 ≤ f < 2^n, n ≤ 160, to within a few parts in 2^270, by the series of
the exponential at 288 fraction bits (log 6). -/
def exp2Fixed (f n : Nat) : Nat :=
  let y := f * ln2Fixed / 2 ^ n
  let r := (List.range 72).foldl (fun (a : Nat × Nat) i =>
    let term := a.1 * y / 2 ^ 288 / (i + 1)
    (term, a.2 + term)) (2 ^ 288, 2 ^ 288)
  r.2 / 2 ^ 32

/-- The exact value 2^u (R189). Beyond |u| = 2^9 every format has overflowed or vanished. -/
def exp2Val (x : Val) : Val :=
  match x with
  | .nan => .nan
  | .inf false => .inf false
  | .inf true => .zero false
  | .zero _ => .fin false 1 0 false
  | .fin neg mag exp _ =>
    if 0 ≤ exp then
      let k : Int := if exp > 12 ∨ mag * 2 ^ exp.toNat > 2048 then 2048 else (mag * 2 ^ exp.toNat : Nat)
      .fin false 1 (if neg then -k else k) false
    else
      let n := (-exp).toNat
      let v := signInt neg mag
      let k := v / (2 : Int) ^ n
      let f := (v - k * (2 : Int) ^ n).toNat
      if f = 0 then .fin false 1 (max (-2048) (min 2048 k)) false
      else if k > 2048 then .fin false 1 2048 false
      else if k < -2048 then .fin false 1 (-2048) true
      else .fin false (exp2Fixed f n) (k - 256) true

/-- EXP2 of R189. -/
def exp2Round (nver : Nat) (x : Val) (t : Tag) : Nat × Ind := roundFloat false nver (exp2Val x) t

/-- 128 fraction bits of log2 of m/2^320, 1 ≤ m/2^320 < 2, by repeated squaring (log 6). -/
def log2Bits : Nat → Nat → Nat → Nat
  | 0, _, acc => acc
  | k + 1, m, acc =>
    let s := m * m / 2 ^ 320
    if s ≥ 2 ^ 321 then log2Bits k (s / 2) (2 * acc + 1) else log2Bits k s (2 * acc)

/-- The exact value log2 u of a positive finite u. -/
def log2Val (mag : Nat) (exp : Int) : Val :=
  let l := Nat.log2 mag
  let e := normExp mag exp
  if mag = 2 ^ l then Val.ofInt e
  else
    let frac := log2Bits 128 (mag * 2 ^ 320 / 2 ^ l) 0
    if 0 ≤ e then .fin false (e.toNat * 2 ^ 128 + frac) (-128) true
    else .fin true ((-e).toNat * 2 ^ 128 - frac - 1) (-128) true

/-- LOG2 of R189. -/
def log2Round (nver : Nat) (x : Val) (t : Tag) : Nat × Ind :=
  match x with
  | .nan => (t.nan, 0)
  | .inf false => roundFloat false nver (.inf false) t
  | .inf true => (t.nan, Ind.invalid)
  | .zero _ => roundFloat false nver (.inf true) t
  | .fin true _ _ _ => (t.nan, Ind.invalid)
  | .fin false mag exp _ => roundFloat false nver (log2Val mag exp) t

/-- The largest integer not above the value, when finite. -/
def floorInt (neg : Bool) (mag : Nat) (exp : Int) : Int :=
  if 0 ≤ exp then signInt neg (mag * 2 ^ exp.toNat) else signInt neg mag / (2 : Int) ^ (-exp).toNat

/-- FLOOR of R187, on a code: an integral or infinite source passes. -/
def floorCode (x : Val) (code : Nat) (t : Tag) : Nat :=
  match x with
  | .nan => t.nan
  | .fin neg mag exp _ =>
    if 0 ≤ exp then code else (roundFloat false 3 (Val.ofInt (floorInt neg mag exp)) t).1
  | _ => code

/-- RINT of R187: the sign of the source is kept. -/
def rintCode (x : Val) (code : Nat) (t : Tag) : Nat :=
  match x with
  | .nan => t.nan
  | .fin neg mag exp _ =>
    if 0 ≤ exp then code
    else (roundFloat false 3 (Val.ofMag neg (roundMag false mag exp false 0).1 0) t).1
  | _ => code

/-! Random bits (R148). -/

/-- One round of Philox4x32. -/
def philoxRound (x : Nat × Nat × Nat × Nat) (k0 k1 : Nat) : Nat × Nat × Nat × Nat :=
  let p0 := 0xD2511F53 * x.1
  let p1 := 0xCD9E8D57 * x.2.2.1
  (((p1 / 2 ^ 32) ^^^ x.2.1) ^^^ k0, p1 % 2 ^ 32, ((p0 / 2 ^ 32) ^^^ x.2.2.2) ^^^ k1, p0 % 2 ^ 32)

def philoxRounds : Nat → Nat × Nat × Nat × Nat → Nat → Nat → Nat × Nat × Nat × Nat
  | 0, x, _, _ => x
  | n + 1, x, k0, k1 =>
    philoxRounds n (philoxRound x k0 k1) ((k0 + 0x9E3779B9) % 2 ^ 32) ((k1 + 0xBB67AE85) % 2 ^ 32)

/-- Philox4x32-10 of a counter under a key, as a 128-bit number (R148). -/
def philox (c : BitVec 128) (k : Word) : Nat :=
  let x := philoxRounds 10
    (c.toNat % 2 ^ 32, c.toNat / 2 ^ 32 % 2 ^ 32, c.toNat / 2 ^ 64 % 2 ^ 32, c.toNat / 2 ^ 96 % 2 ^ 32)
    (k.toNat % 2 ^ 32) (k.toNat / 2 ^ 32)
  x.1 + 2 ^ 32 * x.2.1 + 2 ^ 64 * x.2.2.1 + 2 ^ 96 * x.2.2.2

/-- The random row that a pop at counter c delivers (R148). -/
def philoxRow (c : BitVec 128) (k : Word) : RowBits :=
  BitVec.ofNat 2048 ((List.range 16).foldr (fun i a => philox (c + BitVec.ofNat 128 i) k + 2 ^ 128 * a) 0)

end Sys2Proof.Machine
end

