-- ==== Sys2Proof/Machine/State.lean ====
section
/-!
DEFINITION. The state of a QX8 device as plain data: the device's own registers and memories, one record per
context slot, and the model's own fields that say what happens next. INVENTORY.md lists every piece of state
with its rule and its reset value.
-/

namespace Sys2Proof.Machine

/-- Nothing of the manual stops the device; see log 1. -/
inductive Fault where
  /-- raised by no meaning: every step of the device answers a next state, and the happening of an agent that the device
  does not have changes nothing (log 1); safe -/
  | noSuchAgent
  deriving DecidableEq, Repr

inductive Refusal where
  /-- raised by an arm of `exec` without a meaning; safe -/
  | notModelled (mnemonic : String)
  deriving DecidableEq, Repr

/-- 256 bytes with their tag: a row, an operand-file entry, a latch, a queue entry (R135). -/
structure Row where
  tag  : Tag := .empty
  data : RowBits := 0
  deriving DecidableEq, Repr, Inhabited

/-- Where an exposed result lands: the kinds of a replay entry (R326), and a tile type, which is no register
of that list (R222). -/
inductive Dest where
  | scalar (n : Nat) | addr (n : Nat) | pred (n : Nat) | mask (n : Nat) | row (r : Nat) | oper (n : Nat)
  | special (n : Nat) | stq (entry : Nat) | tileType (t : Nat)
  deriving DecidableEq, Repr, Inhabited

/-- An exposed result in flight (R43), or a replay entry, whose `due` is then the cycles that remain (R326). -/
structure Pend where
  due    : Nat
  dest   : Dest
  data   : Nat
  tag    : Tag := .empty
  mask   : BitVec 256 := BitVec.allOnes 256
  latch  : Bool := false
  ind    : Ind := 0
  group  : Nat := 0
  slot   : Nat := 0
  issued : Nat := 0
  replayed : Bool := false                 -- from the replay buffer (R327)
  internal : Bool := false                 -- part of a loop-back, never a replay entry (R167, R169)
  inner  : Bool := false                   -- captured while the handler ran (R331)
  deriving DecidableEq, Repr, Inhabited

/-- A register with a scoreboarded result pending (R46). `value` is none until the result is known. -/
structure Board where
  dest   : Dest
  due    : Nat := 0
  value  : Option Nat := none
  issued : Nat := 0
  owed   : Bool := false               -- pending when the trap was taken (R336)
  deriving DecidableEq, Repr, Inhabited

/-- An open hardware loop level (R282, R329). `body` is the loop buffer (R285), `after` the address of the first
bundle after it (R284). -/
structure LoopLevel where
  start : Word
  last  : Word
  count : Word
  total : Word
  id    : Nat
  body  : List Word := []
  after : Word := 0
  deriving DecidableEq, Repr, Inhabited

/-- Why a bundle does not issue. -/
inductive Hold where
  | gate (kind g : Nat)                 -- 0 GWAIT, 1 GTAKE, 2 GPOST (R290)
  | flag (a : Word) (cond : Nat) (v : Word)  -- FLWAIT: 0 GE, 1 EQ, 2 NE (R126)
  | timeline (tl n : Nat)               -- TLWAIT (R100)
  | steps (n : Nat)                     -- MWAIT (R220)
  | barrier (crew : Word)               -- CBAR (R295)
  | route (id : Word)                   -- RWAIT (R242)
  | future (a : Word)                   -- FUTWAIT (R313)
  | ldq                                 -- an empty load-data queue (R129)
  | rnd                                 -- a row of `rnd` not yet filled (R46, R149)
  | scoreboard                          -- a register pending (R46)
  | full                                -- a queue or an engine without room (R90, R127, R203, R242)
  | owned                               -- a tile owned by a matrix operation (R216)
  | save (ctx grade : Nat) (area : Word) -- CTXSAVE of a context that still runs (R333)
  | drain                               -- HALT or YIELD waiting for the engines (R287, R310)
  | later                               -- looked at again in the next cycle (R291, R323)
  deriving DecidableEq, Repr, Inhabited

/-- A stall in progress, for the wait log (R342). -/
structure Wait where
  hold   : Hold
  time   : Nat
  cycle  : Nat
  setter : Word := 0
  deriving DecidableEq, Repr, Inhabited

/-- A trap about to be taken or taken (R319-R322). -/
structure Trap where
  origin   : Nat
  cond     : Nat
  detail   : Nat := 0
  addr     : Word := 0
  info     : Word := 0
  deferred : Bool := false
  engine   : Bool := false
  async    : Bool := false
  slot     : Option Nat := none           -- the syllable at fault, none for the bundle as a whole (R64)
  deriving DecidableEq, Repr, Inhabited

/-- Why a strand stands at a bundle that has issued: HALT or YIELD (R287, R310). -/
inductive Leave where
  | halt | yield
  deriving DecidableEq, Repr, Inhabited

/-- One stream of a strand (14). -/
structure Stream where
  pc      : Word := 0
  loops   : List LoopLevel := []       -- outermost first
  joined  : Bool := false
  leave   : Option Leave := none
  barrier : Option (Word × Nat) := none -- CBAR: later bundles held, by crew and rank (R295)
  arrival : Nat := 0                   -- the number of its member's arrival that a held stream waits with
  wait    : Option Wait := none
  exempt  : Bool := false              -- first bundle after TRAPRET: no watch checks (R340)
  checkStop : Bool := false            -- about to begin a pass (R338)
  saved   : Bool := false              -- the CTXSAVE it stands at has had its yield save (R333)
  met     : Bool := false              -- the FLWAIT it stands at has seen its condition (R126)
  fences  : List (Nat × Nat) := []     -- FENCEs with earlier stores to come: class mask, first store-data entry beyond (R125)
  deriving DecidableEq, Repr, Inhabited

/-- Who makes an access: the parts of a bind record that translation needs (R70, R74, R83, R84). A tile of
128 or more stands for an agent without a tile. -/
structure Who where
  ctx     : Nat := 0
  team    : Nat := 0
  peer    : Nat := 0
  tile    : Nat := 0
  usBase  : Nat := 0
  usSize  : Nat := 0
  csBase  : Nat := 0
  csSize  : Nat := 0
  dsBase  : Nat := 0
  dsSize  : Nat := 0
  btChan  : Nat := 0
  btAddr  : Nat := 0
  btCount : Nat := 1
  deriving DecidableEq, Repr, Inhabited

/-- The kinds of copy command (R52). -/
inductive CopyKind where
  | cpy | cpyl | gath | scat | tmov | rwr | pref | evict | cred | kvgath | kvapp
  deriving DecidableEq, Repr, Inhabited

/-- A copy command that has issued and not completed (R88-R99). -/
structure Cmd where
  kind    : CopyKind := .cpy
  num     : Nat := 0
  token   : Nat := 0
  cls     : Nat := 0
  group   : Nat := 0
  nver    : Nat := 3
  dst     : Word := 0
  src     : Word := 0
  count   : Nat := 0              -- bytes, elements or positions
  esz     : Nat := 1              -- element size, or the CRED element type, or the KV options
  future  : Option Word := none   -- future to resolve (R109)
  aux     : Word := 0             -- flag, barrier object, crew, KV layer and head group
  layout  : List Word := []       -- the layout record of CPYL, the operator of CRED
  index   : List Nat := []        -- indices of GATH and SCAT
  pos     : Nat := 0              -- resume point: steps of the beat order done (R97)
  map     : List Nat := []        -- KVGATH state bytes so far
  status  : Nat := 0              -- highest data status so far (R92)
  unbound : Bool := false         -- a beat was discarded under status 0x06
  stopped : Bool := false         -- stopped at a fault (R97)
  trap    : Option Trap := none   -- the engine trap that the stop raises, until taken
  stage   : Nat := 0              -- CRED: 0 to contribute, 1 waiting, 2 result here; KVGATH: 1 waiting
  data    : List Byte := []       -- CRED: the result of the round
  sent    : Nat := 0              -- the last PUT of an aperture copy (R358), by sequence; 0 none
  ended   : Bool := false         -- no beat remains: only the completion (R91)
  sub     : Nat := 0              -- bytes of the present element or group done (R90)
  page    : Nat := 0              -- KVGATH: the page that the present position waits on (R251)
  tables  : List Host.Cell := []  -- the tables it translates with (R97, R98; log 9)
  orig    : List (Nat × Byte) := [] -- what a plain copy has overwritten, by key (R109, log 8)
  deriving DecidableEq, Repr, Inhabited

/-- The shadow loop-nest table (R208, R209): six levels of five fields, and fourteen fields. -/
structure Nest where
  levels : List (List Int)
  fields : List Int
  deriving DecidableEq, Repr, Inhabited

/-- First-bind contents of the table (R208, R209). -/
def Nest.reset : Nest :=
  { levels := List.replicate 6 [1, 0, 0, 0, 0],
    fields := [0, 0, 0, 0, 3, 3, 0, 64, 64, 32, 64, 64, 32, 0] }

/-- The kinds of matrix operation (R203). -/
inductive MatKind where
  | mgo | mclr | mplane
  deriving DecidableEq, Repr, Inhabited

/-- A provenance event (R226): kind and place. -/
structure Event where
  kind : Nat
  step : Nat
  k    : Nat
  col  : Nat
  row  : Nat
  tile : Nat
  deriving DecidableEq, Repr, Inhabited

/-- A matrix operation that has issued and not completed (R203). -/
structure MatOp where
  kind  : MatKind := .mgo
  num   : Nat := 0
  nest  : Nest := Nest.reset
  nver  : Nat := 3
  group : Nat := 0
  step  : Nat := 0               -- steps completed
  steps : Nat := 0               -- steps of the operation
  tiles : List Nat := []         -- tiles it owns
  tile  : Nat := 0               -- MCLR
  ctype : Nat := 1
  fmt   : Nat := 0               -- MPLANE format
  dst   : Word := 0
  src   : Word := 0
  rows  : Nat := 0
  ind   : Ind := 0
  after : Nat := 0               -- store-data entries below it are written first (R264)
  event : Option Event := none
  stop  : Bool := false          -- ended by MSTOP
  stopped : Bool := false        -- stopped at a step by a fault (R218)
  trap  : Option Trap := none
  deriving DecidableEq, Repr, Inhabited

/-- An LDQ or STQA command: rows still to come. `keys` holds the kept translations of STQA rows (R130), `rows`
the rows of an LDQ, read in the place of their LDQ (R128, R274). -/
structure RowCmd where
  addr  : Word := 0
  stride : Int := 0
  count : Nat := 0
  done  : Nat := 0
  cls   : Nat := 0
  born  : Nat := 0                         -- cycle of its issue (R131)
  keys  : List (List Nat) := []
  rows  : List Row := []
  deriving DecidableEq, Repr, Inhabited

/-- An entry of the store-data queue (R127, R130): taken at issue, filled at landing. -/
structure StData where
  entry : Nat := 0
  group : Nat := 0
  full  : Bool := false
  born  : Nat := 0                         -- cycle in which the entry was taken (R131)
  tag   : Tag := .empty
  data  : RowBits := 0
  deriving DecidableEq, Repr, Inhabited

/-- What the first step of a delivery has read of a receive queue's descriptor (R236): tail, size, data ring, tag
ring. -/
structure QueueRing where
  tail : Nat
  size : Nat
  data : Nat
  tags : Nat
  deriving DecidableEq, Repr, Inhabited

/-- A slot of a routing record (R232, R235). State: 0 to deliver, 1 delivered, 2 accepted, 3 dropped,
4 timed out. -/
structure RSlot where
  row    : Nat
  k      : Nat
  dest   : Nat
  tile   : Nat := 0
  queue  : Nat := 0
  weight : Nat := 0
  spill  : Bool := false
  state  : Nat := 0
  ring   : Option QueueRing := none      -- of a slot that waits on a full queue (R236)
  data   : RowBits := 0
  deriving DecidableEq, Repr, Inhabited

/-- A reed entry (R242): one route. -/
structure Route where
  num      : Nat := 0
  group    : Nat := 0               -- stream group of its ROUTE (R343)
  at_      : Word := 0
  rows     : Nat := 0
  fmt      : Tag := .fp32
  nver     : Nat := 3
  deadline : Nat := 0
  born     : Nat := 0               -- cycle of its ROUTE
  slots    : List RSlot := []       -- in allocation order
  stale    : Nat := 0
  after    : Nat := 0               -- store-data entries below it are written first (R234, R264)
  ind      : Ind := 0
  done     : Bool := false
  deriving DecidableEq, Repr, Inhabited

/-- A crew membership entry (R293): identifier, rank, and the CREDs issued (R114). -/
structure Member where
  crew  : Word
  rank  : Nat
  creds : Nat := 0
  bars : Nat := 0                  -- arrivals made
  pending : Bool := false          -- a barrier it has arrived at is not complete (R295)
  deriving DecidableEq, Repr, Inhabited

/-- A timeline (R87, R89): issued and completed counts, and completions beyond an unbroken run. -/
structure Timeline where
  issued    : Nat := 0
  completed : Nat := 0
  ahead     : List Nat := []
  deriving DecidableEq, Repr, Inhabited

/-- The registers of a context (R152), special registers of chapters 8, 6, 7 and 15 among them. -/
structure Regs where
  s     : List (Nat × Word) := []
  a     : List (Nat × Word) := []
  p     : BitVec 32 := 0                   -- p31-p1; bit 0 reads true
  g     : BitVec 16 := 0
  m     : List (Nat × BitVec 256) := []    -- m1-m7
  rows  : List (Nat × Row) := []
  types : List (Nat × Tag) := []           -- tile types; FP32 where none is listed
  o     : List (Nat × Row) := []
  lat0  : Row := {}
  lat1  : Row := {}
  rowwin : Nat := 0
  rotBase : Nat := 0
  rotSize : Nat := 0
  rrb    : Nat := 0
  ctsel  : Nat := 0
  consts : List (Nat × Nat) := []          -- entries 64-127
  lupd   : List (Nat × Nat) := []          -- LUPDlAj at 16·l + j
  lrot   : List (Nat × Nat) := []
  lqtag  : Tag := .fp32
  nstat  : Ind := 0
  nstatWas : Ind := 0                      -- NSTAT before the indications of cycle `nstatAt` (R156)
  nstatAt : Option Nat := none
  nver   : Nat := 3
  rngC   : BitVec 128 := 0
  rngK   : Word := 0
  cursor : Word := 0
  argptr : Word := 0
  rescyc : Nat := 0
  enCount : Nat := 0
  enSat  : Bool := false
  deriving DecidableEq, Repr, Inhabited

/-- The trap registers (R322) and what a stopped context keeps. -/
structure Traps where
  tvec    : Word := 0
  tcause  : Word := 0
  taddr   : Word := 0
  tinfo   : Word := 0
  tpidx   : Word := 0
  tpc     : List Word := [0, 0, 0, 0]
  groups  : Nat := 0                       -- TSTATE.groups
  handler : Bool := false                  -- TSTATE.handler
  enable  : BitVec 16 := 0                 -- TNOTICE
  pending : BitVec 16 := 0
  replay  : List Pend := []                -- due: cycles that remain
  parked  : List Stream := []              -- the interrupted streams, by group
  kept    : List (Nat × Word) := []        -- tokens owed to s56-s63 that have landed since the trap (R336)
  stopped : Bool := false                  -- trap-stopped (R324)
  deriving DecidableEq, Repr, Inhabited

/-- One watch (R337). -/
structure Watch where
  base    : Word := 0
  length  : Nat := 0                       -- bytes minus one
  read    : Bool := false
  write   : Bool := false
  agent   : Bool := false
  pending : Bool := false
  hits    : Nat := 0
  hitAddr : Word := 0                      -- of the pending hit
  hitBy   : Word := 0
  origin  : Nat := 0
  deriving DecidableEq, Repr, Inhabited

/-- The debug registers of a context (R337). -/
structure Debug where
  dbgctl  : Word := 0
  watch   : List Watch := [{}, {}, {}, {}]
  wlbase  : Word := 0
  wlThreshold : Nat := 0
  wlSize  : Nat := 0
  wlError : Bool := false
  wlEnable : Bool := false
  wlpos   : Nat := 0
  deriving DecidableEq, Repr, Inhabited

/-- A release of slot 6 or 7 that performs after a row its own bundle has paired with an STQA (R131, R264, R269): it
takes effect once every store-data entry below `bound` is written, with the registers of its issue. -/
structure Late where
  bound : Nat
  grp   : Nat
  slot  : Nat
  op    : Instr
  s     : List (Nat × Word)
  a     : List (Nat × Word)
  inner : Bool := false                    -- of a running handler
  deriving DecidableEq, Repr

/-- The engines of a context: copy queues, access queues, matrix operations, routes. -/
structure Engines where
  time    : List Timeline := List.replicate 7 {}
  queues  : List (List Cmd) := [[], [], [], []]
  ldCmds  : List RowCmd := []
  ldRows  : List Row := []
  stCmds  : List RowCmd := []
  stData  : List StData := []
  stNext  : Nat := 0                       -- entries taken so far
  nest    : Nest := Nest.reset
  ops     : List MatOp := []
  prov    : List Word := List.replicate 8 0
  routes  : List Route := []
  crews   : List Member := []
  joins   : List (Word × Nat) := []        -- CREWJOINs under way to another home: crew, scalar (R294)
  exits   : Nat := 0                       -- CONFT postings under way (R259)
  late    : List Late := []                -- releases that wait for rows of their own bundle
  posted  : List (Nat × Nat × Nat) := []   -- cards that JOBQ and LAUNCH queued: queue, position, cycle (R335)
  deriving DecidableEq, Repr, Inhabited

/-- The bind image of a context (R304) and its kernel header (R298). -/
structure Bind where
  who     : Who := {}
  conts   : Word := 0                      -- continuation table
  ccount  : Nat := 0
  save    : Word := 0                      -- save area
  level   : Nat := 0
  queue   : Nat := 0
  card    : Nat := 0                       -- position of the card in the queue
  priv    : Bool := false
  pool    : Nat := 0
  entry   : Word := 0
  rows    : Nat := 0                       -- header counts (R298)
  scalars : Nat := 0
  scratch : Nat := 0
  uid     : Nat := 0                       -- distinguishes one strand from the next holder of a slot
  deriving DecidableEq, Repr, Inhabited

/-- The private queue of `rnd`: the rows that stood filled at the end of a cycle; one more is filled in each later one
(R149). -/
structure RndFill where
  rows : Nat := 0
  upto : Nat := 0
  deriving DecidableEq, Repr, Inhabited

/-- One context slot. -/
structure Ctx where
  bound   : Bool := false
  bind    : Bind := {}
  xchk    : Bool := false
  regs    : Regs := {}
  trap    : Traps := {}
  probe   : Debug := {}
  eng     : Engines := {}
  pend    : List Pend := []                -- exposed results in flight, oldest first
  board   : List Board := []               -- scoreboarded results
  streams : List Stream := [{}]            -- by group; one in lockstep
  map     : BitVec 16 := 0                 -- group of each slot, two bits each (R288)
  ports   : Option (List Byte) := none     -- port record, 256 bytes (R164)
  freezeAsk : Bool := false                -- a freeze stops its streams at their next bundle boundary (R331)
  freeze  : Bool := false                  -- its streams are stopped for a freeze (R331)
  freezer : Option Nat := none             -- the context whose CTXSAVE freezes it (R333)
  yieldAsk : Bool := false                 -- a card or a CTXSAVE waits for the next YIELD (R310, R333)
  yieldTo : Option (Nat × Word) := none    -- the CTXSAVE that waits: its context and its save area
  issued  : Nat := 0                       -- cycle of the last bundle, for hang detection
  since   : Nat := 0                       -- tick of its bind or restore: the start of its quantum (R307)
  asks    : Bool := false                  -- it has halted and asks for its next chunk (R303)
  swaps   : List Nat := []                 -- bfill numbers completed while away (R261)
  trapping : Option (Nat × Trap) := none   -- the group and trap of a strand that stops until its answers are in (R324)
  seen    : List (Nat × Nat) := []         -- registers that hardware changes, as this cycle began (R156)
  rnd     : RndFill := {}                  -- rows of `rnd` filled ahead of C (R149)
  deriving DecidableEq, Repr, Inhabited

/-- A record that a backfill card carries (R260, R261): its slot as group·2^64 + record number, and the uid, stream
group and `bfill` number of the CONFT that posted it. -/
structure RecRef where
  slot : Nat
  uid  : Nat
  grp  : Nat
  num  : Nat
  deriving DecidableEq, Repr, Inhabited

/-- A job card as queued: its 128 bytes, the team and peer team it takes (R302). -/
structure Queued where
  pos  : Nat
  card : List Byte
  team : Nat
  peer : Nat
  recs : List RecRef := []
  deriving DecidableEq, Repr, Inhabited

/-- A launch queue of a die and level, or a die's backfill queue (level 14) (R301, R302). -/
structure LaunchQ where
  tail  : Nat := 0
  cards : List Queued := []
  ages  : List (Nat × Nat) := []           -- as in JobQ
  since : List (Nat × Nat) := []           -- as in JobQ
  deriving DecidableEq, Repr, Inhabited

/-- A job queue (R300, R355). -/
structure JobQ where
  desc   : BitVec 512 := 0
  tail   : Nat := 0
  head   : Nat := 0
  shadow : Option Nat := none
  error  : Bool := false
  ages   : List (Nat × Nat) := []          -- level gained by ageing, by position (R307)
  since  : List (Nat × Nat) := []          -- tick from which a waiting card's ageing counts, by position (R307)
  void   : List Nat := []                  -- positions whose card a teardown has discarded (R302)
  released : Nat := 0                      -- cadence release times passed (R309)
  ready  : Nat := 0                        -- cards released and not yet taken
  deriving DecidableEq, Repr, Inhabited

/-- A card being dealt: the strands' team of R28. -/
structure Run where
  queue  : Nat                             -- as in the bind record, with the die for launch queues
  pos    : Nat
  card   : List Byte
  team   : Nat
  peer   : Nat
  who    : Who
  dealt  : Nat := 0
  strands : List Nat := []                 -- uids that have not halted
  torn   : Bool := false
  recs   : List RecRef := []
  deriving DecidableEq, Repr, Inhabited

/-- What steward firmware holds for a team (R70, R301, R312). -/
structure TeamRec where
  who    : Who
  conts  : Word := 0
  ccount : Nat := 0
  hasConts : Bool := false
  deriving DecidableEq, Repr, Inhabited

/-- A contribution to a CRED round (R114, R115). -/
structure Contrib where
  rank  : Nat
  op    : Nat                              -- 0 SUM, 1 MAX, 2 SMERGE
  ty    : Nat                              -- 0 FP32, 1 BF16, 2 INT32
  nver  : Nat
  count : Nat
  data  : List Byte
  deriving DecidableEq, Repr, Inhabited

/-- A CRED round of a crew (R114). -/
structure Round where
  index   : Nat
  members : List (Nat × Nat)               -- (rank, member)
  contribs : List Contrib := []
  left    : Bool := false
  dead    : Bool := false
  deriving DecidableEq, Repr, Inhabited

/-- A crew at its home (R293-R296). Members are (rank, member); a member is a strand's uid, plus
2^64·(device + 1) on another device. -/
structure Crew where
  id       : Word
  team     : Nat
  peer     : Nat
  members  : List (Nat × Nat) := []
  nextRank : Nat := 0
  gen      : Nat := 0
  awaited  : List (Nat × Nat) := []        -- of the open generation, not arrived
  arrived  : List (Nat × Nat) := []        -- of the open generation, arrived
  early    : List (Nat × Nat) := []        -- arrived for the next generation (R296)
  heard    : List (Nat × Nat) := []        -- arrivals of each rank at generations up to this one
  earlyHeard : List (Nat × Nat) := []      -- and at the next one
  next     : List (Nat × Nat) := []        -- members of the next generation, fixed at its first arrival (R295)
  by_      : Word := 0                     -- the agent of the last arrival or leave
  isOpen   : Bool := false
  rounds   : List Round := []
  begun    : Nat := 0                      -- rounds begun
  deriving DecidableEq, Repr, Inhabited

/-- A credit on its way (R312). -/
structure Credit where
  team  : Nat
  index : Nat
  count : Nat
  install : Bool := false                  -- FUTREG's installation: no decrement
  deriving DecidableEq, Repr, Inhabited

/-- A continuation launch that waits for room (R312). -/
structure Waiting where
  die   : Nat
  level : Nat
  card  : Queued
  deriving DecidableEq, Repr, Inhabited

/-- A returned row on its way to the reed (R238). -/
structure Return where
  tag  : Word
  team : Nat
  tile : Nat
  data : RowBits
  deriving DecidableEq, Repr, Inhabited

/-- An exit record (R259) with its record number, address and posting tick (R260). -/
structure ExitRec where
  bytes : List Byte
  ctx   : Nat
  grp   : Nat := 0                         -- stream group of its CONFT (R343)
  uid   : Nat
  num   : Nat
  slot  : Nat := 0
  at_   : Word := 0
  tick  : Nat := 0
  deriving DecidableEq, Repr, Inhabited

/-- A posting that waits for its record slot, with the predicate that then lands (R259). -/
structure Posting where
  exit : ExitRec
  who  : Who
  template : Word
  args : Word
  pd   : Nat
  retry : Nat := 0                         -- tick of the next attempt after a failure
  deriving DecidableEq, Repr, Inhabited

/-- Records of one team and template (R260). -/
structure Group where
  who   : Who
  template : Word
  count : Nat := 0                         -- records posted
  wait  : List ExitRec := []
  inUse : List Nat := []                   -- record numbers posted and not completed
  retry : Nat := 0                         -- tick of the next attempt after a failure
  deriving DecidableEq, Repr, Inhabited

/-- A die's Chervil instance (R260). -/
structure Chervil where
  postings : List Posting := []
  groups : List Group := []
  formed : List Queued := []
  deriving DecidableEq, Repr, Inhabited

/-- A message held until its turn (R352): one of the types of R351, or one that R351 does not list. -/
inductive Arrival where
  | listed (i : Instr)
  | unlisted (m : Msg)
  deriving DecidableEq, Repr

/-- A QFT connection (R352), by peer address and channel, as this device sees it. -/
structure Conn where
  expect : Nat := 1
  sent   : Nat := 0
  unacked : List (Nat × Msg) := []         -- types and messages, oldest first
  resends : Nat := 0
  timer  : Nat := 0                        -- tick of the last send or progress
  dead   : Bool := false
  held   : List (Nat × Arrival) := []      -- messages ahead of their turn, by sequence
  deriving DecidableEq, Repr, Inhabited

/-- The cluster trace (R344-R347). -/
structure Trace where
  ctl    : Word := 0
  pos    : Nat := 0
  frames : List (Nat × List Word) := []
  post   : Option Nat := none              -- frames still to record after the trigger
  sync   : Bool := true                    -- the next frame is a sync frame
  resync : Option Nat := none              -- and so is the first frame of this cycle or a later one (R346)
  lastTime : Nat := 0
  deriving DecidableEq, Repr, Inhabited

/-- What the device hands to steward firmware. -/
inductive Told where
  | trapStopped (ctx : Nat)
  | saveFailed (ctx : Nat) (record : List Word)
  | credit (c : Credit) (cond : Nat)
  | team (team : Nat) (future : Word) (cond : Nat)
  | chervil (team : Nat) (template : Word) (cond : Nat)
  | container (bytes : List Byte)
  | release (q : Nat)
  | reserved (q low : Nat)                    -- a queue descriptor refused for its lowest reserved field (R9)
  deriving DecidableEq, Repr, Inhabited

/-- What steward firmware, the memory arrays and the sensors do to the device: inputs (log 17). -/
inductive FwWrite where
  | poolMode (tile mode : Nat)
  | queue (q : Nat) (desc : BitVec 512)
  | weight (die i v : Nat)
  | team (t : Nat) (r : TeamRec)
  | ports (header : Word) (team : Nat) (record : List Byte)
  | memory (core space off : Nat) (bytes : List Byte) -- by steward core: bits 2:0 core, 3 die (R343)
  | poison (space off : Nat)
  | softError
  | channel (c : Nat) (chteam chtab : Word)
  | peer (d : Nat) (lo hi ctl : Word)
  | yieldAsk (ctx : Nat)
  | slot (c : Nat) (record : BitVec 1024)     -- an entry of a slot table, by context identifier (R304)
  | periods (ageing quantum : Nat)
  | portAddress (port : Nat) (addr : BitVec 128)
  | clock (cluster level : Nat)               -- a cluster's arithmetic clock lowered, 0 for full (R365)
  | unlisted (m : Msg)                        -- a message of a type that R351 does not list
  | loadEnd (m : Msg)                         -- no LOAD follows the message of a container or an image (log 38)
  | translated (team : Nat) (pc : Word) (sect : Nat) (container : List Byte)
  deriving DecidableEq, Repr, Inhabited

/-- How the last syllable or event ended. -/
inductive Status where
  | running
  | trapped (t : Trap)
  | held (h : Hold)
  | moved                                  -- the instruction has placed the streams itself
  deriving DecidableEq, Repr, Inhabited

/-- What is still to be looked at in this cycle (R25, R323). -/
inductive Turn where
  | scan (ctx : Nat)
  | stream (ctx grp : Nat)
  | late (ctx : Nat)                       -- releases that wait for rows of their own bundle (R264)
  | service (ctx grp : Nat) (t : Trap)     -- the trap of a service call, after the cycle's bundles (R202, R323)
  | event (i : Instr)                      -- an asynchronous trap, before the context's bundles (R332, R341)
  | freeze (ctx : Nat)                     -- a freeze begins (R331)
  | chunk (ctx : Nat)                      -- a halted strand's request for its next chunk (R303)
  deriving DecidableEq, Repr, Inhabited

/-- A fact of the current cycle for the trace: tile, slot mask with contexts, and an event (R347). -/
structure Note where
  tile  : Nat
  issue : List (Nat × Nat) := []           -- (slot, context slot)
  event : Nat := 0
  data  : Nat := 0
  deriving DecidableEq, Repr, Inhabited

/-- An invalidation marker in a copy queue: it is passed when the completed count reaches `position` (R98). -/
structure Mark where
  team     : Nat
  num      : Nat
  ctx      : Nat
  uid      : Nat
  queue    : Nat
  position : Nat
  deriving DecidableEq, Repr, Inhabited

/-- A native bundle of translated code (R63, R64): its byte offset, the portable index of its first syllable, and that
of each slot. -/
structure NativePlace where
  off   : Nat
  lead  : Nat
  slots : List (Nat × Nat)
  deriving DecidableEq, Repr, Inhabited

/-- The device. -/
structure State where
  -- clocks
  cycle : Nat
  time  : Nat
  phase : Nat
  trip  : Bool
  epoch : Nat                              -- reference ticks before the last module reset (R4)
  owedT : BitVec 128                       -- tiles and memory that contexts held through a module reset wait for (R366)
  owedM : BitVec 27
  clocks : List (Nat × Nat)                -- setting of each cluster's arithmetic clock, 0 for full (R365)
  rates  : List (Nat × Nat)                -- what each cluster runs at in this cycle: its setting, and 2^16 for heat
  missed : List (Nat × Nat)                -- full-rate cycles in which a cluster's lowered clock had none (R365)
  -- memory
  mem    : List Host.Cell
  poison : List Nat
  eccCnt : Nat
  -- tiles
  pool   : List (Nat × Nat)                -- pool mode by tile: 0, 1, 2 for 16, 4, 1
  ctxs   : List (Nat × Ctx)                -- by context identifier
  holder : List (Nat × Nat)                -- last team of each 128 KiB of a unit scratchpad (R305)
  -- scheduling
  slotTab : List (Nat × BitVec 1024)       -- by die·1024 + entry
  jobqs  : List (Nat × JobQ)
  launch : List (Nat × LaunchQ)            -- by die·16 + level
  runs   : List Run
  teams  : List (Nat × TeamRec)
  portRecs : List (Nat × List Byte)        -- port record by team·2^64 + header address
  uid    : Nat
  images : List (Nat × Ctx)                -- freeze saves, by the number of their first free value (log 11)
  yields : List Ctx                        -- yield saves, the newest first (log 11)
  served : List (Nat × Nat)                -- queue served last, by level (R307)
  agePeriod : Nat                          -- ageing period in ticks (R307)
  quantum : Nat                            -- quantum in ticks (R307)
  -- other units
  inv    : List (Nat × Nat)                -- invalidations issued, by team
  known  : List Nat                        -- teams of which a context has been bound (R278)
  marks  : List Mark                       -- invalidation markers (R98)
  crews  : List Crew
  credits : List Credit
  waiting : List Waiting
  returns : List Return
  chervil : List Chervil
  weights : List (Nat × Nat)               -- by die·16 + i
  trace  : List (Nat × Trace)
  -- host and power
  devnum : Word
  hostLo : Word
  hostHi : Word
  hostSet : Bool                           -- a LOAD or a WRITE has set the low half of the host address
  hostHiSet : Bool                         -- and the high half
  portstat : List (Nat × Word)
  portAddr : List (Nat × BitVec 128)       -- the IPv6 address of each port (R348)
  chteam : List (Nat × Word)
  chtab  : List (Nat × Word)
  peers  : List (Nat × Word)               -- by 4·device + register
  conns  : List (Nat × Conn)               -- by key of address and channel
  readyT : BitVec 128
  readyM : BitVec 27
  fwstat : Word
  pwrstat : Word
  hot     : List Nat                       -- dies whose clock is lowered for heat (R366)
  image  : List Byte                       -- firmware image being received
  container : List Byte
  kernels : List (List Byte × List (List Word)) -- containers accepted, with their native code
  firmware : List Byte                     -- the running image
  translated : List (Nat × Word × Nat × List NativePlace) -- translated code: team, first pc, bytes, its bundles (R63, R64)
  -- outputs
  told   : List Told
  sent   : List (Nat × BitVec 128 × Nat × Msg)   -- port, destination, type, message; type 0 is an acknowledgement (log 35)
  -- what happens next (the model's own, log 1)
  fw     : List FwWrite
  agenda : List Instr
  again  : List Instr                      -- happenings that were not ready, for the next cycle
  turn   : List Turn
  taken  : List (Nat × Nat)                -- slots used in this cycle, by tile
  notes  : List Note
  first  : Nat                             -- full-rate cycles since reset: where a tile's walk starts (R25, log 47)
  me     : Nat
  grp    : Nat
  slot   : Nat
  npc    : Word
  jumped : Bool                            -- a transfer was taken in this bundle
  status : Status
  fresh  : Nat                             -- count of free values drawn (log 14)
  deriving DecidableEq, Repr

/-- The machine right after module reset: nothing bound, memory with nothing listed (log 10), and the boot ROM about to
bring up the host port (R363, log 37). -/
def State.reset : State :=
  { cycle := 0, time := 0, phase := 0, trip := false, epoch := 0, owedT := 0, owedM := 0, clocks := [], rates := [], missed := [], mem := [], poison := [], eccCnt := 0, pool := [],
    ctxs := [], holder := [], slotTab := [], jobqs := [], launch := [], runs := [], teams := [],
    portRecs := [], uid := 0, images := [], yields := [], served := [], agePeriod := 1000000, quantum := 100000, inv := [], known := [], marks := [], crews := [], credits := [],
    waiting := [], returns := [], chervil := [{}, {}], weights := [], trace := [], devnum := 0, hostLo := 0,
    hostHi := 0, hostSet := false, hostHiSet := false, portstat := [], portAddr := [], chteam := [], chtab := [], peers := [], conns := [],
    readyT := 0, readyM := 0, fwstat := 0, pwrstat := 0, hot := [], image := [], container := [], kernels := [],
    firmware := [], translated := [], told := [], sent := [], fw := [], agenda := [.functionReady (.port 8)], again := [], turn := [], taken := [], notes := [],
    first := 0, me := 0, grp := 0, slot := 0, npc := 0, jumped := false, status := .running, fresh := 0 }

end Sys2Proof.Machine
end

