-- ==== Sys2Proof/Machine/Mem.lean ====
section
/-!
DEFINITION. Memory and translation (spec/04, 06 R116): canonical memory, spaces, `Translate` of R74 with its
faults, reads and writes with the watches of R341 and the flag waits of R126.
-/

namespace Sys2Proof.Machine

/-! Canonical memory (log 2). A key is space·2^48 + offset. -/

/-- One byte; an unlisted byte reads 0. -/
def memGet (m : List Host.Cell) (k : Nat) : Byte := Tab.get 0 m k

/-- Insert a cell before the first greater key. -/
def memInsert : List Host.Cell → Nat → Byte → List Host.Cell
  | [], k, v => [(k, v)]
  | (j, w) :: r, k, v => if k < j then (k, v) :: (j, w) :: r else (j, w) :: memInsert r k v

/-- One byte written; a zero is not listed. -/
def memPut (m : List Host.Cell) (k : Nat) (v : Byte) : List Host.Cell :=
  let r := m.filter (·.1 != k)
  if v = 0 then r else memInsert r k v

/-- Rising keys, no zero listed. -/
def memWf : List Host.Cell → Bool
  | [] => true
  | [(_, v)] => v != 0
  | (j, v) :: (k, w) :: r => decide (j < k) && v != 0 && memWf ((k, w) :: r)

/-- Bytes written at keys. -/
def memPutAll (m : List Host.Cell) : List Nat → List Byte → List Host.Cell
  | k :: ks, v :: vs => memPutAll (memPut m k v) ks vs
  | _, _ => m

/-- The bytes at keys. -/
def memGetAll (m : List Host.Cell) (ks : List Nat) : List Byte := ks.map (memGet m)

/-- Consecutive keys. -/
def keysFrom (k n : Nat) : List Nat := (List.range n).map (k + ·)

/-- Spaces (R67, R116): 0-255 fast channels, 256-319 capacity channels, 320-447 unit scratchpads, 448-463
cluster scratchpads, 464-465 die scratchpads, 466 host memory. -/
def spaceFast (c : Nat) : Nat := c
def spaceCap (c : Nat) : Nat := 256 + c
def spaceUnit (t : Nat) : Nat := 320 + t
def spaceCluster (c : Nat) : Nat := 448 + c
def spaceDie (d : Nat) : Nat := 464 + d
def spaceHost : Nat := 466
/-- The key of an offset in a space. -/
def keyOf (space off : Nat) : Nat := space * 2 ^ 48 + off
def keySpace (k : Nat) : Nat := k / 2 ^ 48
def keyOff (k : Nat) : Nat := k % 2 ^ 48

/-- Die of a tile (R19). -/
def dieOf (tile : Nat) : Nat := tile / 64
/-- Cluster of a tile (R19). -/
def clusterOf (tile : Nat) : Nat := tile / 8
/-- The die that a space belongs to (R21, R67). -/
def spaceDieOf (sp : Nat) : Nat :=
  if sp < 256 then sp / 128 else if sp < 320 then (sp - 256) / 32 else if sp < 448 then (sp - 320) / 64
  else if sp < 464 then (sp - 448) / 8 else sp - 464

/-- Slots of a pool mode (R23). -/
def poolSlots (mode : Nat) : Nat := match mode with | 0 => 16 | 1 => 4 | _ => 1
/-- The pool mode of a tile (R24). -/
def State.poolOf (s : State) (tile : Nat) : Nat := Tab.get 0 s.pool tile
/-- The context in a slot, first-bind contents when none was ever there. -/
def State.ctx (s : State) (c : Nat) : Ctx := Tab.get {} s.ctxs c
/-- The bound contexts, in ascending identifier. -/
def State.bound (s : State) : List (Nat × Ctx) := s.ctxs.filter (·.2.bound)

/-- Reference ticks counted through module resets, for what outlives one (R4). -/
def State.ticks (s : State) : Nat := s.epoch + s.time

/-- A context replaced. -/
def State.setCtx (s : State) (c : Nat) (x : Ctx) : State := { s with ctxs := Tab.set s.ctxs c x }
/-- A context changed. -/
def State.onCtx (s : State) (c : Nat) (f : Ctx → Ctx) : State := s.setCtx c (f (s.ctx c))

/-- Access kinds (R73). `readWord` and `writeWord` are reads and writes that must be naturally aligned (R123,
R126): they are checked where an atomic is. -/
inductive Acc where
  | read | write | atomic | fetch | readWord | writeWord
  deriving DecidableEq, Repr

/-- The rights an access kind needs, as bits 55:52 of an entry (R71, R73). -/
def Acc.rights : Acc → Nat
  | .read | .readWord => 1 | .write | .writeWord => 2 | .atomic => 11 | .fetch => 4

/-- Kinds that fault with "misaligned atomic" (R74, R123, R126). -/
def Acc.aligned : Acc → Bool
  | .atomic | .readWord | .writeWord => true
  | _ => false

/-- A failed check: condition (R320), failing address, and TINFO. -/
structure MFault where
  cond : Nat
  addr : Word
  info : Nat := 0
  deriving DecidableEq, Repr

/-- The lowest reserved field, as (hi, lo) pairs in ascending order, that is not zero (R102). -/
def reservedField (x : Nat) : List (Nat × Nat) → Option Nat
  | [] => none
  | (hi, lo) :: r => if bitsOf x hi lo ≠ 0 then some lo else reservedField x r

/-- Whether a channel's stack or half is ready (R362). Other spaces have no ready bit of their own. -/
def spaceReady (s : State) (sp : Nat) : Bool :=
  if sp < 256 then s.readyM.getLsbD (sp / 32)
  else if sp < 320 then s.readyM.getLsbD (8 + (sp - 256) / 32)
  else true

/-- A byte whose read meets an uncorrectable error (R86, R362). -/
def keyBad (s : State) (k : Nat) : Bool := s.poison.contains (k / 64) || !spaceReady s (keySpace k)

/-- Fields of a buffer-table entry (R71). -/
def entryTier (e : Nat) : Nat := bitsOf e 96 96
def entryMode (e : Nat) : Nat := bitsOf e 99 97
def entryExp (e : Nat) : Nat := bitsOf e 103 100
def entryBase (e : Nat) : Nat := bitsOf e 111 104
def entryOwner (e : Nat) : Nat := bitsOf e 127 112
def entryRights (e : Nat) : Nat := bitsOf e 55 52
def entryLength (e : Nat) : Nat := bitsOf e 47 0
/-- Page size as an exponent of 2. -/
def entryPage (e : Nat) : Nat := match bitsOf e 95 94 with | 0 => 12 | 1 => 16 | 2 => 21 | _ => 30

/-- The location of entry idx of a table (R70); one beyond its channel is never read (`readEntry`, log 47). -/
def entryKey (w : Who) (idx : Nat) : Nat := keyOf (spaceFast w.btChan) (w.btAddr + 64 * idx)

/-- The checks of R72 and the entry. An entry that would lie beyond its channel reads as an uncorrectable
error, and an entry with several defects faults for the first in the order of R72 (log 47). -/
def readEntry (s : State) (tables : List Host.Cell) (w : Who) (a : Word) : Except MFault Nat :=
  let key := entryKey w (bufIdx a)
  if keyBad s key ∨ 1610612736 < w.btAddr + 64 * bufIdx a + 64 then .error ⟨0x11, a, 0⟩
  else
    let e := ofBytes (memGetAll tables (keysFrom key 64))
    let cap := if entryTier e = 0 then 256 else 64
    if !bitOf e 63 then .error ⟨0x09, a, 0⟩
    else match reservedField e [(51, 48), (62, 56), (93, 64), (183, 180), (511, 192)] with
    | some lo => .error ⟨0x05, a, lo⟩
    | none =>
      if entryExp e > (if entryTier e = 0 then 8 else 6) ∨ entryBase e % 2 ^ entryExp e ≠ 0 ∨
         entryBase e + 2 ^ entryExp e > cap ∨ (entryMode e = 0 ∧ entryExp e ≠ 0) then .error ⟨0x09, a, 0⟩
      else .ok e

/-- What an address names once the checks before the walk have passed. -/
inductive Region where
  | buffer (entry : Nat)
  | scratch (space : Nat)
  deriving DecidableEq, Repr

/-- Bounds and alignment of a scratchpad access within lo .. lo + n (R83), alignment first as in R74 (log 47). -/
def scratchCheck (a : Word) (size : Nat) (acc : Acc) (space lo n : Nat) : Except MFault Region :=
  let off := bufOff a
  if acc = .fetch then .error ⟨0x0B, a, 0⟩
  else if acc.aligned ∧ off % size ≠ 0 then .error ⟨0x0D, a, 0⟩
  else if off < lo ∨ off + size > lo + n then .error ⟨0x0C, a, 0⟩
  else .ok (.scratch space)

/-- Bytes of a share under a pool mode (R23). -/
def shareSize (mode : Nat) : Nat := 2 ^ 21 / poolSlots mode

/-- The checks of R74, R83 and R84 before the page-table walk. Size 0 is checked by no one. The host aperture is
no place of memory: only a copy's destination names it, which R358 checks. An allotment that a bind record lets
reach past its 8 MiB or 64 MiB scratchpad ends there (R3, log 47). -/
def checkAccess (s : State) (tables : List Host.Cell) (w : Who) (a : Word) (size : Nat) (acc : Acc) :
    Except MFault Region :=
  let idx := bufIdx a
  let off := bufOff a
  if idx = 0xFFFF then scratchCheck a size acc (spaceUnit w.tile) w.usBase w.usSize
  else if idx = 0xFFFE then scratchCheck a size acc (spaceCluster (clusterOf w.tile)) w.csBase (min w.csSize (2 ^ 23 - w.csBase))
  else if idx = 0xFFFD then scratchCheck a size acc (spaceDie (dieOf w.tile)) w.dsBase (min w.dsSize (2 ^ 26 - w.dsBase))
  else if 0xFE00 ≤ idx ∧ idx < 0xFE80 then
    let n := idx - 0xFE00
    let sh := shareSize (s.poolOf n)
    let j := off / sh
    match scratchCheck a size acc (spaceUnit n) (j * sh) (if off < 2 ^ 21 then sh else 0) with
    | .error f => .error f
    | .ok r =>
      let x := s.ctx (n * 16 + j)
      if x.bound ∧ (x.bind.who.team = w.team ∨ x.bind.who.team = w.peer) then .ok r
      else .error ⟨0x0A, a, 0⟩
  else if idx = 0xFE80 then
    .error ⟨0x0B, a, 0⟩
  else if idx ≥ 0xFE00 ∨ idx ≥ w.btCount then .error ⟨0x08, a, 0⟩
  else match readEntry s tables w a with
    | .error f => .error f
    | .ok e =>
      if entryOwner e ≠ 0xFFFF ∧ entryOwner e ≠ w.team then .error ⟨0x0A, a, 0⟩
      else if entryRights e &&& acc.rights ≠ acc.rights then .error ⟨0x0B, a, 0⟩
      else if acc.aligned ∧ off % size ≠ 0 then .error ⟨0x0D, a, 0⟩
      else if off + size > entryLength e then .error ⟨0x0C, a, 0⟩
      else .ok (.buffer e)

/-- Stripe size of an interleave mode (R75). -/
def stripe (mode : Nat) : Nat :=
  match mode with | 1 | 5 => 256 | 2 | 6 => 4096 | 3 | 7 => 65536 | _ => 2097152

/-- Channel and channel-local offset (R75). -/
def interleave (e off : Nat) : Nat × Nat :=
  let c := entryExp e
  if entryMode e = 0 ∨ c = 0 then (entryBase e, off)
  else
    let sz := stripe (entryMode e)
    let i := off / sz
    let h := if entryMode e ≥ 5 then (i ^^^ (i / 2 ^ c)) ^^^ (i / 2 ^ (2 * c)) else i
    (entryBase e + h % 2 ^ c, i / 2 ^ c * sz + off % sz)

/-- Index bits of a level of the walk (R78). -/
def walkIndex (level page loc : Nat) : Nat :=
  match level with
  | 0 => bitsOf loc 47 39
  | 1 => bitsOf loc 38 30
  | 2 => bitsOf loc 29 21
  | _ => if page = 16 then bitsOf loc 20 16 else bitsOf loc 20 12

/-- The levels of the walk that remain, from `level`, at a node (R78-R80): the page's physical address. An entry
with several defects is reported as not present, then reserved, then malformed, and TINFO has no place for the
access kind (log 47). -/
def walkFrom (s : State) (tables : List Host.Cell) (a : Word) (page loc tierCap : Nat) :
    Nat → Nat → Nat → Nat → Except MFault Nat
  | 0, _, _, _ => .error ⟨0x10, a, 0⟩
  | fuel + 1, level, chan, node =>
    let key := keyOf (spaceFast chan) (node + 8 * walkIndex level page loc)
    if keyBad s key then .error ⟨0x11, a, 0⟩
    else
      let e := ofBytes (memGetAll tables (keysFrom key 8))
      let addr := bitsOf e 51 12 * 4096
      if !bitOf e 0 then .error ⟨0x0F, a, 0⟩
      else if bitsOf e 55 52 ≠ 0 then .error ⟨0x05, a, 52⟩
      else if level = (if page = 30 then 1 else if page = 21 then 2 else 3) then
        if addr % 2 ^ page ≠ 0 ∨ addr + 2 ^ page > tierCap then .error ⟨0x10, a, 0⟩ else .ok addr
      else if addr ≥ 1610612736 then .error ⟨0x10, a, 0⟩
      else walkFrom s tables a page loc tierCap fuel (level + 1) (bitsOf e 63 56) addr

/-- Capacity of a channel of a tier (R67). -/
def channelCap (tier : Nat) : Nat := if tier = 0 then 1610612736 else 17179869184

/-- The physical address of channel-local page `n` under an entry. A root beyond its channel is a malformed table
(log 47). A walk that fails is never kept, so where older tables fail, the tables in memory are walked (R81; log 9). -/
def walk (s : State) (tables : List Host.Cell) (e : Nat) (a : Word) (n : Nat) : Except MFault Nat :=
  let go (m : List Host.Cell) : Except MFault Nat :=
    walkFrom s m a (entryPage e) (n * 2 ^ entryPage e) (channelCap (entryTier e)) 4 0
      (bitsOf e 191 184) (bitsOf e 179 140 * 4096)
  if 1610612736 ≤ bitsOf e 179 140 * 4096 then .error ⟨0x10, a, 0⟩
  else match go tables with
    | .ok p => .ok p
    | .error _ => go s.mem

/-- The keys of the bytes off .. off + n of a buffer; a page is walked once for a run of bytes. A walk that faults
names the first byte of the access in the failing page (log 47). -/
def bufferKeys (s : State) (tables : List Host.Cell) (e : Nat) (a : Word) :
    Nat → Nat → Option (Nat × Nat) → Except MFault (List Nat)
  | _, 0, _ => .ok []
  | off, n + 1, last =>
    let (ch, loc) := interleave e off
    let pg := loc / 2 ^ entryPage e
    let base : Except MFault Nat := match last with
      | some (p, b) => if p = pg then .ok b else walk s tables e (addrOf (bufIdx a) off) pg
      | none => walk s tables e (addrOf (bufIdx a) off) pg
    match base with
    | .error f => .error f
    | .ok b =>
      match bufferKeys s tables e a (off + 1) n (some (pg, b)) with
      | .error f => .error f
      | .ok r =>
        let sp := if entryTier e = 0 then spaceFast ch else spaceCap ch
        .ok (keyOf sp (b + loc % 2 ^ entryPage e) :: r)

/-- The keys of an access that has passed its checks. -/
def regionKeys (s : State) (tables : List Host.Cell) (r : Region) (a : Word) (size : Nat) :
    Except MFault (List Nat) :=
  match r with
  | .scratch sp => .ok (keysFrom (keyOf sp (bufOff a)) size)
  | .buffer e => bufferKeys s tables e a (bufOff a) size none

/-- `Translate` of every byte of an access (R11, R74) under given tables. -/
def translateWith (s : State) (tables : List Host.Cell) (w : Who) (a : Word) (size : Nat) (acc : Acc) :
    Except MFault (List Nat) :=
  if size = 0 then .ok []
  else match checkAccess s tables w a size acc with
    | .error f => .error f
    | .ok r => regionKeys s tables r a size

/-- `Translate` under the tables in memory. -/
def translate (s : State) (w : Who) (a : Word) (size : Nat) (acc : Acc) : Except MFault (List Nat) :=
  translateWith s s.mem w a size acc

/-- The range checks of R94 step 4 without the walk. The host aperture is no range of memory, not even one of no bytes
(R358). -/
def checkRange (s : State) (w : Who) (a : Word) (size : Nat) (acc : Acc) : Except MFault Unit :=
  if bufIdx a = 0xFE80 then .error ⟨0x0B, a, 0⟩
  else if size = 0 then .ok ()
  else match checkAccess s s.mem w a size acc with
    | .error f => .error f
    | .ok _ => .ok ()

/-- A read (R86): the bytes, or the fault. -/
def readMem (s : State) (w : Who) (a : Word) (size : Nat) (acc : Acc := .read) : Except MFault (List Byte) :=
  match translate s w a size acc with
  | .error f => .error f
  | .ok ks => if ks.any (keyBad s) then .error ⟨0x11, a, 0⟩ else .ok (memGetAll s.mem ks)

/-- A read as a little-endian number. -/
def readNum (s : State) (w : Who) (a : Word) (size : Nat) (acc : Acc := .read) : Except MFault Nat :=
  (readMem s w a size acc).map ofBytes

/-! Agents and watches (R339-R343). -/

/-- An agent identifier (R343). -/
def agentId (kind ctx grp detail : Nat) : Word :=
  word (kind * 2 ^ 60 + ctx % 4096 * 2 ^ 48 + grp % 4 * 2 ^ 46 + detail % 2 ^ 46)

/-- A writer: its identifier, the origin its hits report (R341), its context, and whether it is a stream,
whose own watches do not count the write as an agent's. -/
structure Agent where
  id     : Word
  origin : Nat
  ctx    : Nat
  stream : Bool := false
  deriving DecidableEq, Repr

/-- The space that a scratchpad index names for a requester, if it is one (R83). -/
def scratchSpace (tile idx : Nat) : Option Nat :=
  if idx = 0xFFFF then some (spaceUnit tile) else if idx = 0xFFFE then some (spaceCluster (clusterOf tile))
  else if idx = 0xFFFD then some (spaceDie (dieOf tile))
  else if 0xFE00 ≤ idx ∧ idx < 0xFE80 then some (spaceUnit (idx - 0xFE00)) else none

/-- The offset of the first watched byte that an access of n bytes at `a` by (team, tile) touches (R339). -/
def watchHit (w : Watch) (owner : Who) (team tile : Nat) (a : Word) (n : Nat) : Option Word :=
  let same : Bool := match scratchSpace owner.tile (bufIdx w.base), scratchSpace tile (bufIdx a) with
    | some x, some y => x == y
    | none, none => bufIdx w.base == bufIdx a && owner.team == team
    | _, _ => false
  let lo := max (bufOff w.base) (bufOff a)
  if same = true ∧ n ≠ 0 ∧ lo ≤ bufOff w.base + w.length ∧ lo < bufOff a + n then some (addrOf (bufIdx w.base) lo)
  else none

/-- An agent hit recorded (R341). -/
def Watch.note (w : Watch) (at_ by_ : Word) (origin : Nat) : Watch :=
  if w.pending then { w with hits := min (w.hits + 1) 255 }
  else { w with pending := true, hitAddr := at_, hitBy := by_, origin := origin }

/-- A write seen by one watch (R341). -/
def Watch.see (w : Watch) (g : Agent) (owner : Who) (team tile : Nat) (a : Word) (n : Nat) : Watch :=
  if w.agent then
    match watchHit w owner team tile a n with
    | some h => w.note h g.id g.origin
    | none => w
  else w

/-- A write seen by the watches of a context (R341). -/
def Ctx.see (x : Ctx) (g : Agent) (team tile : Nat) (a : Word) (n : Nat) : Ctx :=
  { x with probe := { x.probe with watch := x.probe.watch.map (·.see g x.bind.who team tile a n) } }

/-- A write seen by the watches of every context, bound or swapped out (R341). -/
def noteWatches (s : State) (g : Agent) (team tile : Nat) (a : Word) (n : Nat) : State :=
  { s with
    ctxs := s.ctxs.map fun p =>
      if p.2.bound && !(g.stream && g.ctx == p.1) && p.2.probe.watch.any (·.agent) then
        (p.1, p.2.see g team tile a n)
      else p
    images := s.images.map fun p =>
      if p.2.bound && p.2.probe.watch.any (·.agent) then (p.1, p.2.see g team tile a n) else p }

/-- A flag word against the awaited value, unsigned: 0 GE, 1 EQ, 2 NE (R126). -/
def flagMet (cond v w : Nat) : Bool :=
  match cond with
  | 0 => decide (w ≤ v)
  | 1 => v == w
  | _ => v != w

/-- The state of a future word. -/
def futState (w : Nat) : Nat := w / 2 ^ 62

/-- A waiting stream after a write of an agent left its word at v (R126): a flag's condition that holds now is met, by
this agent; a future is resolved by the agent whose write resolved it (R342). -/
def Stream.look (t : Stream) (g : Agent) (v : Nat) : Stream :=
  match t.wait with
  | some ⟨.flag a cond b, time, cycle, _⟩ =>
    if t.met ∨ flagMet cond v b.toNat = false then t
    else { t with met := true, wait := some ⟨.flag a cond b, time, cycle, g.id⟩ }
  | some ⟨.future a, time, cycle, by_⟩ =>
    { t with wait := some ⟨.future a, time, cycle, if futState v < 2 then 0 else if by_ = 0 then g.id else by_⟩ }
  | _ => t

/-- The keys of the word that a stream waits on. -/
def Stream.waitKeys (t : Stream) (s : State) (w : Who) : List Nat :=
  match t.wait with
  | some ⟨.flag a _ _, _, _, _⟩ | some ⟨.future a, _, _, _⟩ => match translate s w a 8 .read with
    | .ok ks => ks
    | .error _ => []
  | _ => []

/-- Streams that wait on a word of which a byte is among the written keys are looked at again after the write
(R126). -/
def noteFlags (s : State) (g : Agent) (ks : List Nat) : State :=
  let found := s.ctxs.flatMap fun (c, x) =>
    if x.bound then
      (x.streams.zipIdx).filterMap fun (t, i) =>
        let w := t.waitKeys s x.bind.who
        if w.any (ks.contains ·) then some ((c, i), ofBytes (memGetAll s.mem w)) else none
    else []
  if found.isEmpty then s
  else
    { s with
      ctxs := s.ctxs.map fun (c, x) =>
        if found.any (·.1.1 == c) then
          (c, { x with streams := (x.streams.zipIdx).map fun (t, i) =>
            match found.find? (·.1 == (c, i)) with
            | some f => t.look g f.2
            | none => t })
        else (c, x),
      agenda := found.map (fun f => .flagReevaluation f.1.1 f.1.2) ++ s.agenda }

/-- Whether every byte lies in a stack or half that is ready (R362). -/
def keysReady (s : State) (ks : List Nat) : Bool := ks.all fun k => spaceReady s (keySpace k)

/-- The bytes of an access written at its keys, with everything that watches them. Memory that is not ready takes
nothing (R362). -/
def storeKeys (s : State) (g : Agent) (w : Who) (a : Word) (ks : List Nat) (bs : List Byte) : State :=
  if keysReady s ks then
    noteFlags (noteWatches { s with mem := memPutAll s.mem ks bs } g w.team w.tile a ks.length) g ks
  else s

/-- A write (R74). An erroneous granule that is wholly written again stays listed: the manual gives no end
of the error (log 2). Memory that is not ready is an uncorrectable error to a write too (R362). -/
def writeMem (s : State) (g : Agent) (w : Who) (a : Word) (bs : List Byte) (acc : Acc := .write) :
    Except MFault State :=
  match translate s w a bs.length acc with
  | .error f => .error f
  | .ok ks => if keysReady s ks then .ok (storeKeys s g w a ks bs) else .error ⟨0x11, a, 0⟩

/-- A write into a save area (R324, R334): it fails where it meets an uncorrectable error. -/
def saveMem (s : State) (g : Agent) (w : Who) (a : Word) (bs : List Byte) : Except MFault State :=
  match translate s w a bs.length .write with
  | .error f => .error f
  | .ok ks => if ks.any (keyBad s) then .error ⟨0x11, a, 0⟩ else .ok (storeKeys s g w a ks bs)

/-- The agent that is a stream of a context (R343). -/
def streamAgent (ctx grp : Nat) : Agent := ⟨agentId 1 ctx grp 0, 5, ctx, true⟩

/-- Mesh position of a tile (R20). -/
def meshOf (tile : Nat) : Nat × Nat :=
  let k := tile / 8 % 8
  let l := tile % 8
  (4 * (k % 2) + l % 4, 2 * (k / 2) + l / 4)

/-- Mesh hops between two tiles, bridge apart (R116). -/
def hops (t u : Nat) : Nat :=
  let (a, b) := meshOf t
  let (c, d) := meshOf u
  (max a c - min a c) + (max b d - min b d)

/-- Unloaded latency of a load (R116); main memory at the low end of its range (log 4). -/
def loadLatency (tile key : Nat) : Nat :=
  let sp := keySpace key
  let bridge := if spaceDieOf sp = dieOf tile then 0 else 110
  if sp < 256 then 400 else if sp < 320 then 700
  else if sp < 448 then
    let n := sp - 320
    if n = tile then 6 else if clusterOf n = clusterOf tile then 30 else 30 + 4 * hops tile n + bridge
  else if sp < 464 then 24 + bridge
  else 60 + 4 * hops tile (keyOff key / 64 % 512 / 8) + bridge

end Sys2Proof.Machine
end

