-- ==== Sys2Proof/Machine/Reduce.lean ====
section
/-!
DEFINITION. The reductions of CRED (R115): contributions combined in ascending rank.
-/

namespace Sys2Proof.Machine

/-- Bytes of an element of a CRED type (R52): FP32, BF16, INT32. -/
def credBytes (ty : Nat) : Nat := if ty = 1 then 2 else 4
/-- The format of a CRED type. -/
def credTag (ty : Nat) : Tag := match ty with | 0 => .fp32 | 1 => .bf16 | _ => .int32

/-- n elements of a contribution as codes. -/
def elemCodes (eb : Nat) : Nat → List Byte → List Nat
  | 0, _ => []
  | n + 1, bs => ofBytes (bs.take eb) :: elemCodes eb n (bs.drop eb)

/-- An FP32 code read under a version (R147). -/
def readFp32 (nver a : Nat) : Val := decodeFloat .fp32 (flushSource nver .fp32 a)

/-- `RoundFP32` of an exact value. -/
def toFp32 (nver : Nat) (v : Val) : Nat := (roundFloat false nver v .fp32).1

/-- FP32 sum and product, each rounded once. -/
def addFp32 (nver a b : Nat) : Nat := toFp32 nver ((readFp32 nver a).add (readFp32 nver b)).1
def mulFp32 (nver a b : Nat) : Nat := toFp32 nver ((readFp32 nver a).mul (readFp32 nver b)).1

/-- The larger of two elements of a CRED type (R115). -/
def maxElem (ty a b : Nat) : Nat :=
  if ty = 2 then (if signed a 32 < signed b 32 then b else a)
  else
    let t := credTag ty
    let x := decodeFloat t a
    let y := decodeFloat t b
    if x.isNan || y.isNan then t.nan
    else if x.lt y then b
    else if y.lt x then a
    else if x.isZero && x.neg? then b else a

/-- SUM of one element over the contributions, x_0 first (R115). BF16 is summed as FP32 and rounded once. -/
def sumElem (nver ty : Nat) : List Nat → Nat
  | [] => 0
  | x :: xs =>
    if ty = 2 then xs.foldl (fun a b => (a + b) % 2 ^ 32) x
    else if ty = 1 then
      let acc := xs.foldl (fun a b => addFp32 nver a (b * 65536)) (x * 65536)
      (roundFloat false nver (decodeFloat .fp32 acc) .bf16).1
    else xs.foldl (addFp32 nver) x

/-- The factor of a partial in SMERGE (R115): 1.0 for the larger, EXP2 of the rounded difference else. -/
def mergeFactor (nver m mx : Nat) : Nat :=
  if (decodeFloat .fp32 m).eqv (decodeFloat .fp32 mx) then Tag.fp32.one
  else (exp2Round nver (readFp32 nver (toFp32 nver ((readFp32 nver m).add (readFp32 nver mx).negate).1)) .fp32).1

/-- Two partials [m, s, v ...] combined (R115). -/
def mergePartials (nver : Nat) (a b : List Nat) : List Nat :=
  let m1 := a.headD 0
  let m2 := b.headD 0
  let mx := maxElem 0 m1 m2
  let f1 := mergeFactor nver m1 mx
  let f2 := mergeFactor nver m2 mx
  mx :: (a.drop 1).zipWith (fun x y => addFp32 nver (mulFp32 nver f1 x) (mulFp32 nver f2 y)) (b.drop 1)

/-- The elements under each other: one list per element. -/
def columns : Nat → List (List Nat) → List (List Nat)
  | 0, _ => []
  | n + 1, ls => ls.map (·.headD 0) :: columns n (ls.map (·.drop 1))

/-- The result of a round whose contributions, in ascending rank, agree (R115), subnormal elements read as the
version has it (R147). -/
def reduceRound (cs : List Contrib) : List Byte :=
  match cs with
  | [] => []
  | c :: _ =>
    let eb := credBytes c.ty
    let ls := cs.map fun d => (elemCodes eb c.count d.data).map (flushSource c.nver (credTag c.ty))
    let out := match c.op with
      | 0 => (columns c.count ls).map (sumElem c.nver c.ty)
      | 1 => (columns c.count ls).map fun (xs : List Nat) => xs.foldl (maxElem c.ty) (xs.headD 0)
      | _ => ls.tail.foldl (mergePartials c.nver) (ls.headD [])
    out.flatMap (toBytes eb)

/-- Whether contributions agree on operator, type, count and version (R114, R146). -/
def agree (cs : List Contrib) : Bool :=
  match cs with
  | [] => true
  | c :: r => r.all fun d => d.op == c.op && d.ty == c.ty && d.count == c.count && d.nver == c.nver

/-- Contributions in ascending rank. -/
def byRank (cs : List Contrib) : List Contrib :=
  cs.foldl (fun l c => l.filter (·.rank < c.rank) ++ c :: l.filter (c.rank ≤ ·.rank)) []

/-- The status of a finished round, and its result, empty where destinations stay unchanged (R114, R92). -/
def Round.outcome (r : Round) : Nat × List Byte :=
  if r.dead then (4, [])
  else
    let cs := byRank r.contribs
    let bad := !agree cs
    (if r.left then 3 else if bad then 2 else 0, if bad then [] else reduceRound cs)

/-- Whether every byte of a contribution has arrived (R360, log 16). -/
def Contrib.whole (c : Contrib) : Bool := decide (c.count * credBytes c.ty ≤ c.data.length)

/-- Whether every member still counted has contributed (R114). -/
def Round.ready (r : Round) : Bool :=
  r.dead || r.members.all fun m => r.contribs.any fun c => c.rank == m.1 && c.whole

end Sys2Proof.Machine
end

