-- ==== Sys2Proof/Machine/Units.lean ====
section
/-!
DEFINITION. Operations of the device's units that no one context owns: timelines (R87-R89), messages sent
(R350, R352), crews at their home (R293-R296), futures and credits (R306, R311-R313), dealing (R303), completion
of teams and backfill records (R261, R306), energy charges (R316, R317).
-/

namespace Sys2Proof.Machine

/-! Timelines. -/

/-- The completed count run forward over the numbers that completed ahead of it (R89). -/
def Timeline.advance : Nat → Timeline → Timeline
  | 0, t => t
  | n + 1, t =>
    if t.ahead.contains (t.completed + 1) then
      Timeline.advance n { t with completed := t.completed + 1, ahead := t.ahead.filter (· != t.completed + 1) }
    else t

/-- Number n completes (R89). -/
def Timeline.complete (t : Timeline) (n : Nat) : Timeline :=
  let t := { t with ahead := n :: t.ahead }
  Timeline.advance t.ahead.length t

/-- `TimelineNext` (R11, R88): one more issued. -/
def Timeline.next (t : Timeline) : Timeline := { t with issued := t.issued + 1 }

/-- Timeline tl of a context. -/
def Ctx.timeline (x : Ctx) (tl : Nat) : Timeline := x.eng.time.getD tl {}
/-- Timeline tl changed. -/
def Ctx.onTimeline (x : Ctx) (tl : Nat) (f : Timeline → Timeline) : Ctx :=
  { x with eng := { x.eng with time := x.eng.time.set tl (f (x.timeline tl)) } }
/-- Every timeline's completed count equals its issued count. -/
def Ctx.timelineDone (x : Ctx) (tl : Nat) : Bool := (x.timeline tl).completed == (x.timeline tl).issued

/-- The stalls of a context that an action of the device ends learn who did it (R342). -/
def Ctx.wake (x : Ctx) (f : Hold → Bool) (by_ : Word) : Ctx :=
  { x with streams := x.streams.map fun t => match t.wait with
      | some w => if f w.hold then { t with wait := some { w with setter := by_ } } else t
      | none => t }

/-- Number n of a timeline completes by an agent, which ends the waits for the counts passed now (R89, R342). -/
def Ctx.complete (x : Ctx) (tl n : Nat) (by_ : Word) : Ctx :=
  let y := x.onTimeline tl (·.complete n)
  y.wake (fun h => match h with
    | .timeline t k =>
      t == tl && decide ((x.timeline tl).completed < k) && decide (k ≤ (y.timeline tl).completed)
    | _ => false) by_

/-! Energy (R316, R317). -/

/-- A weight of a die (R317): i is 0 for EWSCAL to 8 for EWSTAT. -/
def State.weight (s : State) (die i : Nat) : Nat := Tab.get 0 s.weights (die * 16 + i)

/-- A charge in pJ, saturating at 2^48 - 1 (R316). -/
def Ctx.charge (x : Ctx) (pj : Nat) : Ctx :=
  let n := x.regs.enCount + pj
  { x with regs := { x.regs with enCount := min n (2 ^ 48 - 1), enSat := x.regs.enSat || decide (2 ^ 48 - 1 < n) } }

/-- n charges of weight i to a context (R317). -/
def State.charge (s : State) (c i n : Nat) : State :=
  s.onCtx c (·.charge (n * s.weight (dieOf (c / 16)) i))

/-- Whether a beat to or from a space crosses the bridge or the aperture, seen from a tile (R317). -/
def farSpace (tile sp : Nat) : Bool := sp == spaceHost || spaceDieOf sp != dieOf tile

/-- One beat between two spaces charged to a context (R317): each tier that it reaches, and once the crossing of the
bridge or the fabric; a beat that does neither runs between scratchpads of the die (log 18). -/
def State.chargeBeat (s : State) (c src dst : Nat) : State :=
  let tile := c / 16
  let tier (sp : Nat) : List Nat := if sp < 256 then [3] else if sp < 320 then [4] else []
  let ts := tier src ++ tier dst
  let cs := ts ++ (if farSpace tile src || farSpace tile dst then [6] else if ts.isEmpty then [5] else [])
  cs.foldl (fun s i => s.charge c i 1) s

/-- The first key of each 64-byte beat of a run of keys. -/
def beatKeys (ks : List Nat) : List Nat := (List.range (ceilDiv ks.length 64)).map fun i => ks.getD (64 * i) 0

/-- Bytes moved between a space and keys charged beat by beat, each beat at the spaces of its own ends (R317). -/
def State.chargeKeys (s : State) (c space : Nat) (ks : List Nat) : State :=
  (beatKeys ks).foldl (fun s k => s.chargeBeat c space (keySpace k)) s

/-! Messages (R350, R352). -/

/-- Peer address, channel and port of a connection as a number. -/
def connEnd (port : Nat) (addr : BitVec 128) (chan : Nat) : Nat := (addr.toNat * 1024 + chan) * 16 + port

/-- Key of a connection (R352): this device's address and port, peer address and channel. -/
def connKey (own : BitVec 128) (port : Nat) (addr : BitVec 128) (chan : Nat) : Nat :=
  own.toNat * 2 ^ 142 + connEnd port addr chan

/-- Whether a port is ready (R361); one that is not sends nothing and drops what it receives (R362). -/
def State.portReady (s : State) (port : Nat) : Bool := s.readyM.getLsbD (10 + port)

/-- The IPv6 address of a port (R348): the one steward firmware has set; until then the boot ROM's link-local address of
the host port, formed from the module's identifier (R363, log 13). -/
def State.addressOf (s : State) (port : Nat) : BitVec 128 :=
  match s.portAddr.find? (·.1 == port) with
  | some p => p.2
  | none => if port = 8 then (0xFE80#16).setWidth 128 <<< 112 ||| Config.moduleId.setWidth 128 else 0

/-- The key of the connection from a port's present address (R348, R352). -/
def State.linkKey (s : State) (port : Nat) (addr : BitVec 128) (chan : Nat) : Nat :=
  connKey (s.addressOf port) port addr chan

/-- A message sent on a connection from the port's address (R348), to be acknowledged (R352). -/
def State.send (s : State) (port : Nat) (addr : BitVec 128) (chan type : Nat) (target : Word) (body : List Byte) :
    State :=
  let k := s.linkKey port addr chan
  let c : Conn := Tab.get {} s.conns k
  let m : Msg := { port := port, src := s.addressOf port, version := 1, chan := chan, seq := word (c.sent + 1),
                   ack := word (c.expect - 1), target := target, body := body }
  { s with conns := Tab.set s.conns k { c with sent := c.sent + 1, unacked := c.unacked ++ [(type, m)],
                                               timer := if c.unacked.isEmpty then s.time else c.timer },
           sent := if s.portReady port then s.sent ++ [(port, addr, type, m)] else s.sent }

/-- Address and port of a device of the peer table, when it can be reached (R359). -/
def State.peer? (s : State) (d : Nat) : Option (Nat × BitVec 128) :=
  let ctl := (Tab.get 0 s.peers (4 * d + 2)).toNat
  let port := ctl % 8
  let addr := BitVec.ofNat 128 ((Tab.get 0 s.peers (4 * d)).toNat + 2 ^ 64 * (Tab.get 0 s.peers (4 * d + 1)).toNat)
  if bitOf ctl 3 && s.portReady port && !(Tab.get ({} : Conn) s.conns (s.linkKey port addr 0)).dead then
    some (port, addr)
  else none

/-- The device that homes a crew; this one for a device crew (R293). -/
def State.crewHome (s : State) (id : Word) : Nat :=
  if id.toNat / 2 ^ 56 = 0 then s.devnum.toNat % 256 else id.toNat / 2 ^ 48 % 256
/-- Whether the crew is homed here. -/
def State.crewLocal (s : State) (id : Word) : Bool := s.crewHome id == s.devnum.toNat % 256

/-! Crews at their home (R293-R296). -/

def State.crew? (s : State) (id : Word) : Option Crew := s.crews.find? (·.id == id)
def State.setCrew (s : State) (c : Crew) : State :=
  { s with crews := s.crews.map fun d => if d.id = c.id then c else d }

/-- The bound context with a uid. -/
def State.byUid (s : State) (uid : Nat) : Option Nat :=
  (s.ctxs.find? fun p => p.2.bound && p.2.bind.uid == uid).map (·.1)

/-- A CRED command of a context waits for a round of a crew (R114): the one that was issued first. -/
def Ctx.waitingCred (x : Ctx) (id : Word) : Option Nat :=
  let ns := x.eng.queues.flatMap fun q => (q.filter fun k => k.kind == .cred && k.aux == id && k.stage == 1).map
    fun k => k.index.headD 0
  ns.foldl (fun m n => match m with
    | none => some n
    | some v => some (min v n)) none

/-- The result of a round reaches a member's command (R114). -/
def Ctx.giveRound (x : Ctx) (id : Word) (status : Nat) (data : List Byte) : Ctx :=
  match x.waitingCred id with
  | none => x
  | some n =>
    { x with eng := { x.eng with queues := x.eng.queues.map fun q => q.map fun k =>
        if k.kind = .cred ∧ k.aux = id ∧ k.stage = 1 ∧ k.index = [n] then
          let all := k.data ++ data
          { k with stage := if data.isEmpty ∨ k.count * credBytes k.esz ≤ all.length then 2 else 1, data := all,
                   status := max k.status status, ended := data.isEmpty }
        else k } }

/-- Data in pieces that a message holds beside 64 bytes of its own (R350); one piece when there is none. -/
def pieces : Nat → List Byte → List (List Byte)
  | 0, bs => [bs]
  | n + 1, bs => if bs.length ≤ 8128 then [bs] else bs.take 8128 :: pieces n (bs.drop 8128)

/-- COLL messages to a device, one for each piece of the data. The manual does not lay out their body, and a home
chooses the channel: it is 0 (R360, log 16). -/
def State.sendColl (s : State) (device : Nat) (id : Word) (head : List Nat) (data : List Byte) : State :=
  match s.peer? device with
  | none => s
  | some (p, a) => (pieces (data.length / 8128) data).foldl (fun s bs => s.send p a 0 0x08 id (head.flatMap (toBytes 8) ++ bs)) s

/-- The device of a member that a home counts, for a member of another device. -/
def memberDevice (member : Nat) : Nat := member / 2 ^ 64 - 1

/-- A round's outcome to one member (R114, R360). -/
def State.tellRound (s : State) (id : Word) (member status : Nat) (data : List Byte) : State :=
  if member < 2 ^ 64 then
    match s.byUid member with
    | some c => s.onCtx c (·.giveRound id status data)
    | none => s
  else s.sendColl (memberDevice member) id [7, member % 2 ^ 64, status] data

/-- Whether a round has a member whose device cannot be reached (R359, R360). -/
def State.roundDead (s : State) (r : Round) : Bool :=
  r.dead || r.members.any fun m => decide (2 ^ 64 ≤ m.2) && (s.peer? (memberDevice m.2)).isNone

/-- A finished round goes to its members (R114, R360). -/
def State.endRound (s : State) (id : Word) (r : Round) : State :=
  let o := { r with dead := s.roundDead r }.outcome
  r.members.foldl (fun s m => s.tellRound id m.2 o.1 o.2) s

/-- The held streams of a context that wait for a barrier go on: those that wait with the first `upto` arrivals of the
member (R295). -/
def Ctx.endBarrier (x : Ctx) (id : Word) (rank upto : Nat) (by_ : Word) : Ctx :=
  let go (t : Stream) : Stream :=
    if t.barrier = some (id, rank) ∧ t.arrival ≤ upto then
      { t with barrier := none, wait := t.wait.map fun (w : Wait) => { w with setter := by_ } }
    else t
  { x with streams := x.streams.map go, trap := { x.trap with parked := x.trap.parked.map go },
           eng := { x.eng with crews := x.eng.crews.map fun (m : Member) =>
             if m.crew = id ∧ m.rank = rank then { m with pending := decide (upto < m.bars) } else m } }

/-- The strand with a uid, bound or saved, changed. -/
def State.onStrand (s : State) (uid : Nat) (f : Ctx → Ctx) : State :=
  match s.byUid uid with
  | some c => s.onCtx c f
  | none => { s with images := s.images.map fun (p : Nat × Ctx) => if p.2.bind.uid = uid then (p.1, f p.2) else p }

/-- A member of a completed generation learns of it, and how many of its arrivals are over (R295, R360). -/
def State.tellBarrier (s : State) (id by_ : Word) (heard : List (Nat × Nat)) (m : Nat × Nat) : State :=
  let upto := Tab.get 0 heard m.1
  if m.2 < 2 ^ 64 then s.onStrand m.2 (·.endBarrier id m.1 upto by_)
  else s.sendColl (memberDevice m.2) id [5, m.2 % 2 ^ 64, m.1, upto] []

/-- One more arrival of a rank. -/
def countArrival (t : List (Nat × Nat)) (rank : Nat) : List (Nat × Nat) := Tab.set t rank (Tab.get 0 t rank + 1)

/-- An arrival at a crew's current generation (R295, R296); a second one of a member at a generation counts there. -/
def Crew.arrive (c : Crew) (m : Nat × Nat) (by_ : Word) : Crew :=
  let c := { c with by_ := by_ }
  let here := countArrival c.heard m.1
  if !c.isOpen then { c with isOpen := true, awaited := c.members.filter (· != m), arrived := [m], heard := here }
  else if c.awaited.contains m then
    { c with awaited := c.awaited.filter (· != m), arrived := c.arrived ++ [m], heard := here }
  else if c.arrived.contains m then { c with heard := here }
  else if c.early.contains m then { c with earlyHeard := countArrival c.earlyHeard m.1 }
  else { c with early := c.early ++ [m], earlyHeard := countArrival c.earlyHeard m.1,
                next := if c.early.isEmpty then c.members else c.next }

/-- The arrivals of each rank, those at the next generation included. -/
def Crew.allHeard (c : Crew) : List (Nat × Nat) :=
  c.earlyHeard.foldl (fun t p => Tab.set t p.1 (Tab.get 0 t p.1 + p.2)) c.heard

/-- The next generation: opened at once by those that have arrived for it (R296), with the crew's members when the
first of them arrived (R295). -/
def Crew.nextGen (c : Crew) : Crew :=
  { c with gen := c.gen + 1, isOpen := !c.early.isEmpty, arrived := c.early, early := [], next := [],
           heard := c.allHeard, earlyHeard := [],
           awaited := c.next.filter fun m => !c.early.contains m }

/-- A round without a member that has left before contributing (R114). -/
def Round.without (r : Round) (m : Nat × Nat) : Round :=
  if r.members.contains m && !r.contribs.any (·.rank == m.1) then
    { r with members := r.members.filter (· != m), left := true }
  else r

/-- A member leaves a crew homed here: barriers and rounds no longer count it. A crew without members ceases,
and its rounds and barriers, whose members have all contributed and arrived, end (R295, R296, R114). -/
def State.leaveHome (s : State) (id : Word) (member : Nat) (by_ : Word) : State :=
  match s.crew? id with
  | none => s
  | some c => match c.members.find? (·.2 == member) with
    | none => s
    | some m =>
      let members := c.members.filter (· != m)
      let rounds := c.rounds.map (·.without m)
      if members.isEmpty then
        let s := rounds.foldl (fun s r => s.endRound id r) { s with crews := s.crews.filter (·.id != id) }
        (c.arrived ++ c.early).foldl (fun s m => s.tellBarrier id by_ c.allHeard m) s
      else s.setCrew { c with
        members := members, awaited := c.awaited.filter (· != m), next := c.next.filter (· != m), rounds := rounds,
        by_ := by_ }

/-- COLL messages to a crew's home (R360). -/
def State.toHome (s : State) (id : Word) (head : List Nat) (data : List Byte) : State :=
  s.sendColl (s.crewHome id) id head data

/-- A member leaves, at its home or by message (R295, R360). -/
def State.leaveCrew (s : State) (id : Word) (uid : Nat) (by_ : Word) : State :=
  if s.crewLocal id then s.leaveHome id uid by_ else s.toHome id [3, uid] []

/-- A context leaves every crew (R287, R296, R334). -/
def State.leaveAll (s : State) (c : Nat) : State :=
  let x := s.ctx c
  let s := x.eng.crews.foldl (fun s (m : Member) => s.leaveCrew m.crew x.bind.uid (agentId 1 c 0 0)) s
  s.onCtx c fun x => { x with eng := { x.eng with crews := [] } }

/-- A home that acts for no context (R341; log 17). -/
def homeAgent : Agent := ⟨0, 5, 4096, false⟩

/-! Futures (R306, R311-R313). -/

/-- The lowest reserved field of a future word that is not zero (R311). -/
def futReserved (w : Nat) : Option Nat :=
  match futState w with
  | 0 => reservedField w [(47, 0), (61, 48)]
  | 3 => reservedField w [(47, 6), (61, 48)]
  | _ => reservedField w [(61, 48)]

/-- A future word read, for an atomic action unless another kind is given: the condition that stops it, or the word
(R73, R306, R313). -/
def readFuture (s : State) (w : Who) (a : Word) (acc : Acc := .atomic) : Except MFault Nat :=
  match readNum s w a 8 acc with
  | .error f => .error f
  | .ok v => match futReserved v with
    | some lo => .error ⟨0x05, a, lo⟩
    | none => .ok v

/-- The word RESOLVED with a value, or FAULTED with a code (R311). -/
def futWord (faulted : Bool) (v : Nat) : Nat :=
  if faulted then 3 * 2 ^ 62 + v % 64 else 2 * 2 ^ 62 + v % 2 ^ 48

/-- A resolution of the word at keys, one that leaves a resolved word unchanged (R313): whether it was resolved
already. -/
def resolveKeys (s : State) (g : Agent) (w : Who) (a : Word) (ks : List Nat) (v : Nat) : Except MFault (State × Bool) :=
  let old := ofBytes (memGetAll s.mem ks)
  if ks.any (keyBad s) then .error ⟨0x11, a, 0⟩
  else match futReserved old with
  | some lo => .error ⟨0x05, a, lo⟩
  | none =>
    if 2 ≤ futState old then .ok (s, true)
    else
      let t := storeKeys s g w a ks (toBytes 8 v)
      if futState old = 1 then
        .ok ({ t with credits := t.credits ++ [⟨bitsOf old 31 16, bitsOf old 15 0, bitsOf old 47 32, false⟩] }, false)
      else .ok (t, false)

/-- A resolution translated with given tables (R98, R313). -/
def resolveWith (s : State) (tables : List Host.Cell) (g : Agent) (w : Who) (a : Word) (v : Nat) :
    Except MFault (State × Bool) :=
  match translateWith s tables w a 8 .atomic with
  | .error f => .error f
  | .ok ks => resolveKeys s g w a ks v

/-- A resolution translated with the tables in memory (R313). -/
def resolveFuture (s : State) (g : Agent) (w : Who) (a : Word) (v : Nat) : Except MFault (State × Bool) :=
  resolveWith s s.mem g w a v

/-! Cards (R297) and their teams (R28, R303, R306). -/

def cardNum (card : List Byte) : Nat := ofBytes card
/-- Reserved fields of a job card (R297). -/
def cardReserved : List (Nat × Nat) := [(303, 289), (1023, 640)]
def cardFuture (c : Nat) : Option Word := if bitOf c 288 then some (word (bitsOf c 639 576)) else none
def cardHeader (c : Nat) : Word := word (bitsOf c 575 512)
def cardArgs (c : Nat) : Word := word (bitsOf c 511 448)
def cardEntry (c : Nat) : Word := word (bitsOf c 447 384)
def cardCount (c : Nat) : Nat := bitsOf c 383 352
def cardRsize (c : Nat) : Nat := bitsOf c 351 336
def cardCmax (c : Nat) : Nat := bitsOf c 335 320
def cardCmin (c : Nat) : Nat := bitsOf c 319 304

/-- The size of the next chunk (R303). -/
def chunkSize (remaining cmin cmax strands : Nat) : Nat :=
  min remaining (max cmin (min cmax (ceilDiv remaining (2 * strands))))

/-- A run identified by queue and position. -/
def State.run? (s : State) (q pos : Nat) : Option Run := s.runs.find? fun r => r.queue == q && r.pos == pos
def State.setRun (s : State) (r : Run) : State :=
  { s with runs := s.runs.map fun t => if t.queue = r.queue ∧ t.pos = r.pos then r else t }

/-- The future of a run resolved with the card's count, or faulted where a strand was torn down (R306). -/
def State.endTeam (s : State) (r : Run) : State :=
  match cardFuture (cardNum r.card) with
  | none => s
  | some a =>
    match resolveFuture s homeAgent r.who a
        (if r.torn = true then futWord true 0x3F else futWord false (cardCount (cardNum r.card))) with
    | .ok (t, _) => t
    | .error f => { s with told := s.told ++ [.team r.team a f.cond] }

/-- A team whose records are dealt and whose strands have halted completes and resolves its future (R306). -/
def State.teamDone (s : State) (r : Run) : State :=
  if r.dealt = cardCount (cardNum r.card) ∧ r.strands.isEmpty then
    { s with runs := s.runs.filter fun t => !(t.queue == r.queue && t.pos == r.pos) }.endTeam r
  else s

/-- A strand's uid taken from its run at HALT or teardown (R28, R306). -/
def State.strandEnds (s : State) (q pos uid : Nat) (torn : Bool) : State :=
  match s.run? q pos with
  | none => s
  | some r =>
    let r := { r with strands := r.strands.filter (· != uid), torn := r.torn || torn }
    (s.setRun r).teamDone r

/-- Records of a backfill chunk complete: the issuers' `bfill` counts advance, at once or when the issuer is
restored (R261); Chervil has done it (R342, R343). -/
def State.recordsDone (s : State) (recs : List RecRef) : State :=
  recs.foldl (fun s r => match s.byUid r.uid with
    | some c => s.onCtx c (·.complete 6 r.num (agentId 6 c r.grp r.num))
    | none => { s with images := s.images.map fun (k, x) =>
        if x.bind.uid = r.uid then (k, { x with swaps := x.swaps ++ [r.num] }) else (k, x) }) s

/-- The slots of completed records are free again (R260). -/
def State.freeRecords (s : State) (die : Nat) (recs : List RecRef) : State :=
  { s with chervil := s.chervil.zipIdx.map fun (ch, d) =>
      if d = die then
        { ch with groups := ch.groups.zipIdx.map fun (g, i) =>
            { g with inUse := g.inUse.filter fun n => !recs.any fun r => r.slot == i * 2 ^ 64 + n } }
      else ch }

/-! Invalidations (R277, R278). -/

/-- An invalidation of a team: the count, and a marker in every copy queue of its bound contexts (R98). -/
def State.invalidate (s : State) (team : Nat) : State :=
  let n := Tab.get 0 s.inv team + 1
  let ms := s.ctxs.flatMap fun (c, x) =>
    if x.bound && x.bind.who.team == team then
      (List.range 4).map fun q =>
        { team := team, num := n, ctx := c, uid := x.bind.uid, queue := q, position := (x.timeline q).issued : Mark }
    else []
  { s with inv := Tab.set s.inv team n, marks := s.marks ++ ms }

/-- Whether a queue has passed a marker; a context that is gone or swapped out has (R277). -/
def State.passed (s : State) (m : Mark) : Bool :=
  let x := s.ctx m.ctx
  !(x.bound && x.bind.uid == m.uid) || decide (m.position ≤ (x.timeline m.queue).completed)

/-- INVDRN of a team (R278): the largest k with 1 to k drained. -/
def State.drained (s : State) (team : Nat) : Nat :=
  let open_ := (s.marks.filter fun m => m.team == team && !s.passed m).map (·.num)
  open_.foldl (fun k n => min k (n - 1)) (Tab.get 0 s.inv team)

end Sys2Proof.Machine
end

