-- ==== Sys2Proof/Machine/Ops.lean ====
section
/-!
DEFINITION. The operations that meanings share: reading registers, exposed and scoreboarded results and their
landing (R43-R46, R135, R184), how a syllable ends, taking a trap (R323-R326, R329), returning from one
(R327, R333), and fatal teardown (R334).
-/

namespace Sys2Proof.Machine

/-! The issuer. -/

/-- The context whose syllable or event is being carried out. -/
def State.cx (s : State) : Ctx := s.ctx s.me
/-- That context changed. -/
def State.up (s : State) (f : Ctx → Ctx) : State := s.onCtx s.me f
/-- Its tile. -/
def State.tile (s : State) : Nat := s.me / 16
/-- Its requester record. -/
def State.who (s : State) : Who := s.cx.bind.who
/-- The stream that issues. -/
def State.stream (s : State) : Stream := s.cx.streams.getD s.grp {}
/-- A stream of a context changed. -/
def Ctx.onStream (x : Ctx) (g : Nat) (f : Stream → Stream) : Ctx :=
  { x with streams := x.streams.set g (f (x.streams.getD g {})) }
/-- The issuing stream changed. -/
def State.upStream (s : State) (f : Stream → Stream) : State := s.up (·.onStream s.grp f)
/-- The agent that the issuing stream is. -/
def State.agent (s : State) : Agent := streamAgent s.me s.grp
/-- Forked mode (R31). -/
def Ctx.forked (x : Ctx) : Bool := decide (1 < x.streams.length)
/-- CTXMODE.priv (R321). -/
def Ctx.priv (x : Ctx) : Bool := x.bind.priv || x.trap.handler
/-- Context rows of the slot (R23). -/
def Ctx.rowCount (x : Ctx) : Nat := match x.bind.pool with | 0 => 64 | 1 => 256 | _ => 1024
/-- Accumulator tiles of the slot (R158). -/
def Ctx.tileCount (x : Ctx) : Nat := x.rowCount / 64

/-! Register reads (R152). -/

def Ctx.s (x : Ctx) (n : Nat) : Word := if n = 0 then 0 else Tab.get 0 x.regs.s n
def Ctx.a (x : Ctx) (n : Nat) : Word := Tab.get 0 x.regs.a n
def Ctx.p (x : Ctx) (n : Nat) : Bool := n == 0 || x.regs.p.getLsbD n
def Ctx.g (x : Ctx) (n : Nat) : Bool := x.regs.g.getLsbD n
def Ctx.m (x : Ctx) (n : Nat) : BitVec 256 := if n = 0 then BitVec.allOnes 256 else Tab.get 0 x.regs.m n
def Ctx.row (x : Ctx) (r : Nat) : Row := Tab.get {} x.regs.rows r
def Ctx.oper (x : Ctx) (n : Nat) : Row := Tab.get {} x.regs.o n
def Ctx.tileType (x : Ctx) (t : Nat) : Tag := Tab.get .fp32 x.regs.types t

/-- Scalar read by the issuer. -/
def State.rs (s : State) (r : SReg) : Word := s.cx.s r.toNat
/-- Address register read by the issuer. -/
def State.ra (s : State) (r : AReg) : Word := s.cx.a r.toNat
/-- Predicate read by the issuer. -/
def State.rp (s : State) (r : PReg) : Bool := s.cx.p r.toNat

/-! Register writes: s0, p0 and m0 discard (R37, R152). -/

def Ctx.setS (x : Ctx) (n : Nat) (v : Word) : Ctx :=
  if n = 0 then x else { x with regs := { x.regs with s := Tab.set x.regs.s n v } }
def Ctx.setA (x : Ctx) (n : Nat) (v : Word) : Ctx :=
  { x with regs := { x.regs with a := Tab.set x.regs.a n v } }
def Ctx.setP (x : Ctx) (n : Nat) (v : Bool) : Ctx :=
  if n = 0 then x
  else { x with regs := { x.regs with p :=
    if v then x.regs.p ||| BitVec.ofNat 32 (2 ^ n) else x.regs.p &&& ~~~(BitVec.ofNat 32 (2 ^ n)) } }
def Ctx.setG (x : Ctx) (n : Nat) (v : Bool) : Ctx :=
  { x with regs := { x.regs with g :=
    if v then x.regs.g ||| BitVec.ofNat 16 (2 ^ n) else x.regs.g &&& ~~~(BitVec.ofNat 16 (2 ^ n)) } }
def Ctx.setM (x : Ctx) (n : Nat) (v : BitVec 256) : Ctx :=
  if n = 0 then x else { x with regs := { x.regs with m := Tab.set x.regs.m n v } }
def Ctx.setRow (x : Ctx) (r : Nat) (v : Row) : Ctx :=
  { x with regs := { x.regs with rows := Tab.set x.regs.rows r v } }
def Ctx.setOper (x : Ctx) (n : Nat) (v : Row) : Ctx :=
  { x with regs := { x.regs with o := Tab.set x.regs.o n v } }
def Ctx.setType (x : Ctx) (t : Nat) (v : Tag) : Ctx :=
  { x with regs := { x.regs with types := Tab.set x.regs.types t v } }
/-- Indications join NSTAT (R145). -/
def Ctx.indicate (x : Ctx) (i : Ind) : Ctx := { x with regs := { x.regs with nstat := x.regs.nstat ||| i } }

/-- Lanes of `new` where enabled, of `old` elsewhere (R184). -/
def mergeLanes (t : Tag) (mask : BitVec 256) (old new : RowBits) : RowBits :=
  if mask = BitVec.allOnes 256 then new
  else
    let w := t.laneBits
    BitVec.ofNat 2048 ((List.range t.lanes).foldr (fun l acc =>
      (if mask.getLsbD l then new.toNat / 2 ^ (l * w) % 2 ^ w else old.toNat / 2 ^ (l * w) % 2 ^ w)
        + 2 ^ w * acc) 0)

/-! Special registers that a landing writes (R155, R337, R345). -/

/-- Watch n written by WCTL: controls set, hits and pending cleared (R337). -/
def Watch.control (w : Watch) (v : Nat) : Watch :=
  { w with length := bitsOf v 31 8, read := bitOf v 0, write := bitOf v 1, agent := bitOf v 2,
           pending := false, hits := 0 }

/-- A per-context special register takes a value whose legality WRSP checked at issue (R155, R156). -/
def Ctx.landSpecial (x : Ctx) (n v : Nat) : Ctx :=
  let r := x.regs
  let d := x.probe
  if n = 0x004 then { x with xchk := bitOf v 0 }
  else if n = 0x010 then { x with regs := { r with rowwin := v % 4 } }
  else if n = 0x011 then { x with regs := { r with rotSize := bitsOf v 16 8, rotBase := v % 256, rrb := 0 } }
  else if n = 0x012 then { x with regs := { r with rrb := v % 256 } }
  else if n = 0x020 then { x with regs := { r with ctsel := v % 64 } }
  else if n = 0x021 then { x with regs := { r with consts := Tab.set r.consts (64 + r.ctsel) (v % 2 ^ 32) } }
  else if n = 0x046 then { x with regs := { r with lqtag := Tag.ofCode (v % 16) } }
  else if n = 0x050 then { x with regs := { r with nstat := r.nstat &&& ~~~(BitVec.ofNat 5 v) } }
  else if n = 0x051 then { x with regs := { r with nver := v % 4 } }
  else if n = 0x060 then { x with regs := { r with enSat := r.enSat && !bitOf v 63 } }
  else if n = 0x080 then { x with trap := { x.trap with tvec := word (v / 8 * 8 + v % 2) } }
  else if n = 0x08D then { x with trap := { x.trap with enable := BitVec.ofNat 16 (bitsOf v 31 16),
                                                        pending := x.trap.pending &&& ~~~(BitVec.ofNat 16 v) } }
  else if n = 0x0C0 then { x with probe := { d with dbgctl := word v } }
  else if 0x0C4 ≤ n ∧ n ≤ 0x0C7 then
    { x with probe := { d with watch := d.watch.set (n - 0x0C4) { d.watch.getD (n - 0x0C4) {} with base := word v } } }
  else if 0x0C8 ≤ n ∧ n ≤ 0x0CB then
    { x with probe := { d with watch := d.watch.set (n - 0x0C8) ((d.watch.getD (n - 0x0C8) {}).control v) } }
  else if n = 0x0D0 then { x with probe := { d with wlbase := word v } }
  else if n = 0x0D1 then
    { x with probe := { d with wlThreshold := bitsOf v 39 8, wlSize := bitsOf v 7 4, wlError := d.wlError && !bitOf v 1,
                               wlEnable := bitOf v 0, wlpos := if bitOf v 0 then 0 else d.wlpos } }
  else if 0x100 ≤ n ∧ n ≤ 0x13F then { x with regs := { r with lupd := Tab.set r.lupd (n - 0x100) (v % 2 ^ 32) } }
  else if 0x140 ≤ n ∧ n ≤ 0x143 then { x with regs := { r with lrot := Tab.set r.lrot (n - 0x140) (v % 256) } }
  else x

/-- TRCCTL of a cluster written: recording that starts counts from 0 with a sync frame (R337, R345). -/
def Trace.control (t : Trace) (v : Nat) : Trace :=
  if t.ctl.toNat % 4 = 0 ∧ v % 4 ≠ 0 then
    { t with ctl := word v, pos := 0, frames := [], post := none, sync := true }
  else { t with ctl := word v, post := if v % 4 = 2 then t.post else none }

/-! Landing (R43, R135, R160, R184). -/

/-- A result reaches its register in the context; special registers of the cluster are the device's. -/
def Ctx.land (x : Ctx) (e : Pend) : Ctx :=
  let row (old : Row) : Row := ⟨e.tag, mergeLanes e.tag e.mask old.data (BitVec.ofNat 2048 e.data)⟩
  let x := match e.dest with
    | .scalar n => x.setS n (word e.data)
    | .addr n => x.setA n (word e.data)
    | .pred n => x.setP n (e.data % 2 == 1)
    | .mask n => x.setM n (BitVec.ofNat 256 e.data)
    | .row r => x.setRow r (row (x.row r))
    | .oper n => x.setOper n (row (x.oper n))
    | .special n => { x.landSpecial n e.data with seen := Tab.del x.seen n }
    | .stq n => { x with eng := { x.eng with stData := x.eng.stData.map fun (d : StData) =>
        if d.entry = n then { d with full := true, tag := e.tag, data := (row {}).data } else d } }
    | .tileType t => x.setType t (Tag.ofCode e.data)
  let x := if e.latch then
      if e.slot = 4 then { x with regs := { x.regs with lat0 := row x.regs.lat0 } }
      else { x with regs := { x.regs with lat1 := row x.regs.lat1 } }
    else x
  x.indicate e.ind

/-- NSTAT about to change reads, in the cycle of the change, as it was before it (R156). -/
def Ctx.beforeInd (x : Ctx) (now : Nat) (i : Ind) : Ctx :=
  if i = 0 ∨ x.regs.nstatAt = some now then x
  else { x with regs := { x.regs with nstatWas := x.regs.nstat, nstatAt := some now } }

/-- A result of a context lands (R43). -/
def State.land (s : State) (c : Nat) (e : Pend) : State :=
  match e.dest with
  | .special 0x0E0 =>
    let k := clusterOf (c / 16)
    { s with trace := Tab.set s.trace k ((Tab.get ({} : Trace) s.trace k).control e.data) }
  | _ => s.onCtx c fun x => (x.beforeInd s.cycle e.ind).land e

/-- Writes of special registers land before the indications of the same cycle (R145), and CTVAL takes the entry
that CTSEL has selected before them (R162). -/
def landOrder (es : List Pend) : List Pend :=
  es.filter (fun e => e.dest == .special 0x021) ++
  es.filter (fun e => match e.dest with | .special n => n != 0x021 | _ => false) ++
  es.filter (fun e => match e.dest with | .special _ => false | _ => true)

/-- Every result of a context that satisfies a test lands, oldest first. -/
def State.landThose (s : State) (c : Nat) (f : Pend → Bool) : State :=
  let es := (s.ctx c).pend.filter f
  let s := s.onCtx c fun x => { x with pend := x.pend.filter (!f ·) }
  (landOrder es).foldl (fun s e => s.land c e) s

/-- What lands in a register that the trap frame restores is kept for the return (R336). -/
def Ctx.keep (x : Ctx) (b : Board) (v : Nat) : Ctx :=
  match b.dest with
  | .scalar n => if b.owed then { x with trap := { x.trap with kept := Tab.set x.trap.kept n (word v) } } else x
  | _ => x

/-- A scoreboarded result reaches its register (R46). -/
def Ctx.give (x : Ctx) (b : Board) : Ctx :=
  match b.value with
  | some v => (x.keep b v).land { due := 0, dest := b.dest, data := v }
  | none => x

/-- Whether a scoreboarded result waits in the replay buffer's order: an exposed result of its own program to the
register is there. A handler's own results do not wait for those of the interrupted program (R46, R327). -/
def Ctx.parkedBehind (x : Ctx) (b : Board) : Bool :=
  x.trap.replay.any fun e => e.dest == b.dest && (e.inner || b.owed || !x.trap.handler)

/-- Whether an older exposed result to the register is still to land (R46). -/
def Ctx.behind (x : Ctx) (b : Board) : Bool :=
  (x.pend.any fun e => e.dest == b.dest && decide (e.issued ≤ b.issued)) || x.parkedBehind b

/-- Whether a scoreboarded result may land: it is known, due, and behind no older exposed result to the
register (R46). -/
def Ctx.boardReady (x : Ctx) (now : Nat) (b : Board) : Bool :=
  b.value.isSome && decide (b.due ≤ now) && !x.behind b

/-- Scoreboarded results that may land, land. -/
def Ctx.landBoard (x : Ctx) (now : Nat) : Ctx :=
  let bs := x.board.filter (x.boardReady now)
  let y := { x with board := x.board.filter fun b => !x.boardReady now b }
  bs.foldl Ctx.give y

/-- A pending register of the scoreboard receives its value (R91, R259). -/
def Ctx.answer (x : Ctx) (d : Dest) (v now : Nat) : Ctx :=
  { x with board := x.board.map fun b => if b.dest = d ∧ b.value.isNone then { b with value := some v, due := now } else b }

/-! Results of the issuing syllable. -/

/-- An exposed result of latency n (R43). -/
def State.expose (s : State) (n : Nat) (dest : Dest) (data : Nat) (tag : Tag := .empty)
    (mask : BitVec 256 := BitVec.allOnes 256) (latch : Bool := false) (ind : Ind := 0) : State :=
  s.up fun x => { x with pend := x.pend ++
    [{ due := s.cycle + n, dest := dest, data := data, tag := tag, mask := mask, latch := latch, ind := ind,
       group := s.grp, slot := s.slot, issued := s.cycle }] }

/-- An exposed scalar result (R43). -/
def State.exposeS (s : State) (n : Nat) (sd : SReg) (v : Word) (ind : Ind := 0) : State :=
  s.expose n (.scalar sd.toNat) v.toNat (ind := ind)

/-- A scoreboarded result known at issue, landing after n cycles (R46). s0 is in no write set (R39). -/
def State.promise (s : State) (n : Nat) (dest : Dest) (v : Nat) : State :=
  match dest with
  | .scalar 0 => s
  | _ => s.up fun x => { x with board := x.board ++ [{ dest := dest, due := s.cycle + n, value := some v, issued := s.cycle }] }

/-- A scoreboarded register whose value comes later (R91). -/
def State.await (s : State) (dest : Dest) : State :=
  match dest with
  | .scalar 0 => s
  | _ => s.up fun x => { x with board := x.board ++ [{ dest := dest, issued := s.cycle }] }

/-! How a syllable ends. -/

/-- Why a syllable has no effect of its own. -/
inductive Stop where
  | trap (t : Trap)
  | hold (h : Hold)
  deriving DecidableEq, Repr

/-- The slot class of a slot as an origin (R11, R22, R319). -/
def slotOrigin (slot : Nat) : Nat :=
  match slot with | 0 | 1 => 0 | 2 => 1 | 3 => 2 | 4 | 5 => 3 | 6 => 4 | _ => 5

/-- A fault of the issuing syllable (R319). -/
def State.fault (s : State) (cond : Nat) (addr : Word := 0) (info : Word := 0) (detail : Nat := 0) : Stop :=
  .trap { origin := slotOrigin s.slot, cond := cond, addr := addr, info := info, detail := detail, slot := some s.slot }

/-- A failed memory check of the issuing syllable. -/
def State.mfault (s : State) (f : MFault) : Stop := s.fault f.cond f.addr (word f.info)

/-- A memory result lifted to the syllable's end. -/
def State.mem? {α : Type} (s : State) (r : Except MFault α) : Except Stop α :=
  match r with
  | .ok v => .ok v
  | .error f => .error (s.mfault f)

/-- The syllable faults when a condition holds. -/
def check (bad : Prop) [Decidable bad] (e : Stop) : Except Stop Unit := if bad then .error e else .ok ()

/-! The wait log (R342). -/

/-- Kind and object of a logged stall; none for the others. -/
def Hold.logged (h : Hold) : Option (Nat × Nat) :=
  match h with
  | .gate k g => some (k, g)
  | .flag a _ _ => some (3, a.toNat)
  | .timeline tl n => some (4, tl * 2 ^ 61 + n % 2 ^ 61)
  | .barrier c => some (5, c.toNat)
  | .route i => some (6, i.toNat)
  | .future a => some (7, a.toNat)
  | .ldq => some (8, 0)
  | _ => none

/-- The value that a wait-log record holds: the word, count or gate read at the end. -/
def Hold.value (s : State) (x : Ctx) (h : Hold) : Nat :=
  match h with
  | .gate _ g => if x.g g then 1 else 0
  | .flag a _ _ | .future a => match readNum s x.bind.who a 8 with | .ok v => v | .error _ => 0
  | .timeline tl _ => (x.timeline tl).completed
  | _ => 0

/-- The record of a stall (R342): `how` 0 condition met, 1 taken, 2 teardown. -/
def State.waitRecord (s : State) (c g : Nat) (w : Wait) (how kind obj : Nat) : List Byte :=
  let x := s.ctx c
  toBytes 8 w.time ++ toBytes 4 (min (s.cycle - w.cycle) (2 ^ 32 - 1)) ++ toBytes 1 kind ++
    toBytes 1 (g + 4 * how) ++ toBytes 2 0 ++ toBytes 8 obj ++
    toBytes 8 (if how = 0 then w.setter.toNat else 0) ++ toBytes 8 (x.streams.getD g {}).pc.toNat ++
    toBytes 8 (w.hold.value s x) ++ toBytes 16 0

/-- Where the next record goes (R342). -/
def Debug.nextRecord (d : Debug) : Word := addrAdd d.wlbase (64 * (d.wlpos % 2 ^ (d.wlSize + 4)))

/-- The record of a stall that ends is written, unless the log is off or the stall too short (R342). -/
def State.logWait (s : State) (c g : Nat) (w : Wait) (how : Nat) : State :=
  let x := s.ctx c
  match w.hold.logged with
  | none => s
  | some (kind, obj) =>
    if !x.probe.wlEnable || decide (s.cycle - w.cycle < x.probe.wlThreshold) then s
    else match writeMem s (streamAgent c g) x.bind.who x.probe.nextRecord (s.waitRecord c g w how kind obj) with
      | .ok t => t.onCtx c fun x => { x with probe := { x.probe with wlpos := x.probe.wlpos + 1 } }
      | .error _ => s.onCtx c fun x => { x with probe := { x.probe with wlError := true, wlEnable := false } }

/-- Whether a stall has ended by its condition before its stream went on: the barrier of a CBAR, which has issued, is
over (R295, R342). -/
def Stream.released (t : Stream) (w : Wait) : Bool :=
  match w.hold with
  | .barrier _ => t.barrier.isNone
  | _ => false

/-- The stall of a stream ends (R342). -/
def State.endWait (s : State) (c g ended : Nat) : State :=
  let t := (s.ctx c).streams.getD g {}
  match t.wait with
  | none => s
  | some w =>
    let how := if t.released w then 0 else ended
    (s.logWait c g w how).onCtx c (·.onStream g fun t => { t with wait := none })

/-- The stalls of every stream of a context end (R342). -/
def State.endWaits (s : State) (c how : Nat) : State :=
  (List.range (s.ctx c).streams.length).foldl (fun s g => s.endWait c g how) s

/-- A bundle that does not issue: its stream waits from the first such cycle on. A stall that another one follows
has ended (R342). -/
def State.hold (s : State) (h : Hold) : State :=
  match s.stream.wait with
  | some w =>
    if w.hold = h then { s with status := .held h }
    else { (s.endWait s.me s.grp 0).upStream fun t => { t with wait := some ⟨h, s.time, s.cycle, 0⟩ } with status := .held h }
  | none => { s.upStream fun t => { t with wait := some ⟨h, s.time, s.cycle, 0⟩ } with status := .held h }

/-! The save area (R328-R330). -/

/-- Words to bytes. -/
def wordsBytes (ws : List Nat) : List Byte := ws.flatMap (toBytes 8)

/-- Addresses of parts of the save area. -/
def Ctx.saveAt (x : Ctx) (off : Nat) : Word := addrAdd x.bind.save off

/-- CTXMODE as it reads (R155). -/
def Ctx.mode (x : Ctx) : Nat :=
  (if x.xchk then 1 else 0) + (if x.priv then 2 else 0) + x.bind.pool % 4 * 16 + (x.streams.length - 1) % 4 * 64

/-- TSTATE as it reads (R322). -/
def Ctx.tstate (x : Ctx) : Nat :=
  (if x.trap.handler then 1 else 0) + x.trap.groups % 4 * 128 + x.trap.replay.length % 512 * 512

/-- The predicates as they read, p0 true. -/
def Ctx.preds (x : Ctx) : Nat := x.regs.p.toNat / 2 * 2 + 1

/-- The 32 bytes of a loop level in a frame (R329). -/
def LoopLevel.frame (l : LoopLevel) : List Nat :=
  [l.start.toNat, l.count.toNat, l.total.toNat,
   (bufOff l.last + 2 ^ 48 - bufOff l.start) % 2 ^ 12 * 2 ^ 12 + 128 + l.id % 64]

/-- The trap frame of a context whose registers hold what the trap left, with the streams it stopped
and CTXMODE as it stood (R329). -/
def Ctx.frame (x : Ctx) (mode : Nat) (parked : List Stream) : List Byte :=
  let t := x.trap
  wordsBytes ([t.tcause.toNat, t.taddr.toNat, t.tinfo.toNat, t.tpidx.toNat] ++ t.tpc.map (·.toNat) ++
    [x.tstate] ++ (List.range 8).map (fun i => (x.s (56 + i)).toNat) ++ [(x.a 14).toNat, (x.a 15).toNat,
    x.preds, x.regs.g.toNat, mode] ++ List.replicate 10 0 ++
    (List.range 4).flatMap (fun g => (List.range 4).flatMap fun l =>
      match (parked.getD g {}).loops[l]? with
      | some lv => lv.frame
      | none => [0, 0, 0, 0]) ++ List.replicate 32 0)

/-! Freezes that end without a save (R331, R333). -/

/-- Replay entries go back in flight, landing `remaining` cycles after cycle r (R327): a running handler's own, the
others once no handler runs (R331). -/
def Ctx.replayFrom (x : Ctx) (r : Nat) : Ctx :=
  let goes (e : Pend) : Bool := e.inner || !x.trap.handler
  { x with pend := x.pend ++ (x.trap.replay.filter goes).map
             (fun e => { e with due := r + e.due, replayed := true, inner := false }),
           trap := { x.trap with replay := x.trap.replay.filter (!goes ·) } }

/-- A flag wait is tested again (R126). -/
def Ctx.forget (x : Ctx) : Ctx := { x with streams := x.streams.map fun t => { t with met := false } }

/-- A context whose freeze is given up goes on as it stood, its streams in the next cycle. -/
def Ctx.thaw (x : Ctx) (now : Nat) : Ctx :=
  let y := if x.freeze && !x.trap.stopped then x.forget.replayFrom (now + 1) else x
  { y with freeze := false, freezeAsk := false, freezer := none }

/-- Whether an entry of the walk is a stream of a context. -/
def Turn.streamOf (c : Nat) : Turn → Bool
  | .scan d | .stream d _ | .late d | .service d _ _ => d == c
  | .event _ | .freeze _ | .chunk _ => false

/-- Entries of the walk that are no stream of a context. -/
def dropTurns (c : Nat) (ts : List Turn) : List Turn := ts.filter (!·.streamOf c)

/-- The context whose request for a chunk a turn serves: at its first bind or at HALT (R303). -/
def Turn.request : Turn → Option Nat
  | .chunk c | .event (.bindNew c _) => some c
  | _ => none

/-- The walk with a request of a context in it: after every stream, among the requests of the cycle in ascending context
identifier (R303). -/
def askTurn (c : Nat) (t : Turn) : List Turn → List Turn
  | [] => [t]
  | u :: r => match u.request with
    | some d => if c < d then t :: u :: r else u :: askTurn c t r
    | none => u :: askTurn c t r

/-- The contexts that a context's CTXSAVE had frozen go on. -/
def State.thawBy (s : State) (c : Nat) : State :=
  { s with
    ctxs := s.ctxs.map fun p =>
      let x := if p.2.freezer = some c then p.2.thaw s.cycle else p.2
      (p.1, if x.yieldTo.any (·.1 == c) then { x with yieldAsk := false, yieldTo := none } else x)
    turn := (s.ctxs.filter fun p => p.2.freezer == some c && p.2.freeze).foldl (fun ts p => dropTurns p.1 ts) s.turn }

/-! Fatal teardown (R334). -/

/-- The 128 KiB units of a slot's share, numbered over the device (R23). -/
def shareUnits (mode c : Nat) : List Nat :=
  let n := 16 / poolSlots mode
  (List.range n).map fun i => c / 16 * 16 + c % 16 * n + i

/-- The slot of a context released: its share's holder is remembered for R305, and its copy queues have passed every
invalidation (R277). -/
def State.release (s : State) (c : Nat) : State :=
  let x := s.ctx c
  { s with marks := s.marks.filter (fun m => !(m.ctx == c && m.uid == x.bind.uid)),
           holder := (shareUnits x.bind.pool c).foldl (fun h u => Tab.set h u x.bind.who.team) s.holder,
           ctxs := Tab.set s.ctxs c {},
           turn := dropTurns c s.turn }

/-- A context without results in flight, commands, operations and routes (R334). -/
def Ctx.cleared (x : Ctx) : Ctx :=
  { x with
    trap := { x.trap with replay := [] },
    eng := { x.eng with queues := [[], [], [], []], ldCmds := [], ldRows := [], stCmds := [], stData := [],
                        ops := [], routes := [], late := [] } }

/-- A context without gates (R334). -/
def Ctx.noGates (x : Ctx) : Ctx := { x with regs := { x.regs with g := 0 } }

/-- Cards that a context has queued in a cycle. -/
def Ctx.postedIn (x : Ctx) (now : Nat) : List (Nat × Nat × Nat) := x.eng.posted.filter fun p => p.2.2 == now

/-- Words 4 to 7 of a teardown record (R329, R334): the cause, and what was under way. -/
def Ctx.teardownWords (x : Ctx) (cause now : Nat) : List Nat :=
  [cause, (x.eng.queues.map (·.length)).foldl (· + ·) 0,
   (x.eng.routes.filter (!·.done)).length * 2 ^ 32 + x.eng.ops.length, (x.postedIn now).length]

/-- A steward core as an agent: bits 2:0 its number, 3 its die (R341, R343). -/
def stewardAgent (core : Nat) : Agent := ⟨agentId 9 0 0 (core % 16), 2, 4096, false⟩

/-- The agent that dispatch is in a save, a restore and a bind on a die: core 0 of its stewards (R341, R343, log 17). -/
def dispatchAgent (die : Nat) : Agent := stewardAgent (8 * die)

/-- A teardown record written, or handed to steward firmware (R334). -/
def State.putRecord (s : State) (c : Nat) (x : Ctx) (ws : List Nat) : State :=
  match saveMem s (dispatchAgent (dieOf (c / 16))) x.bind.who (x.saveAt 32) (wordsBytes ws) with
  | .ok t => t
  | .error _ => { s with told := s.told ++ [.saveFailed c (ws.map word)] }

/-- A context whose work is abandoned: its results land, its engines are empty, and it has left its crews (R334). -/
def State.abandon (s : State) (c : Nat) : State :=
  (((((s.thawBy c).landThose c fun _ => true).onCtx c Ctx.cleared).leaveAll c).endWaits c 2).onCtx c Ctx.noGates

/-- The card at a position of a job queue is discarded: the queue is as long again as before it, unless a later card
stands behind it (R302). -/
def JobQ.unpost (j : JobQ) (pos : Nat) : JobQ :=
  if j.tail = pos + 1 then { j with tail := pos } else { j with void := pos :: j.void }

/-- The same in a launch queue. -/
def LaunchQ.unpost (l : LaunchQ) (pos : Nat) : LaunchQ :=
  { l with cards := l.cards.filter (·.pos != pos), tail := if l.tail = pos + 1 then pos else l.tail }

/-- Cards that a context has queued in this cycle are discarded (R302, R335). A job queue is named by its number, the
launch queue of a die and level by 2^16 and its key. -/
def State.unpost (s : State) (x : Ctx) : State :=
  (x.postedIn s.cycle).foldl (fun s p =>
    if p.1 < 2 ^ 16 then { s with jobqs := Tab.set s.jobqs p.1 ((Tab.get ({} : JobQ) s.jobqs p.1).unpost p.2.1) }
    else { s with launch := Tab.set s.launch (p.1 - 2 ^ 16) ((Tab.get ({} : LaunchQ) s.launch (p.1 - 2 ^ 16)).unpost p.2.1) }) s

/-- A context is torn down; `cause` is word 4 of the teardown record (R329, R334). -/
def State.tearDown (s : State) (c cause : Nat) : State :=
  let x := s.ctx c
  ((((s.unpost x).abandon c).putRecord c x (x.teardownWords cause s.cycle)).release c).strandEnds x.bind.queue x.bind.card
    x.bind.uid true

/-! Taking a trap (R323-R326). -/

/-- A result that a trap lets land first is on its way: an exit record being posted, a join of another device's crew
(R259, R294, R324). -/
def Ctx.answerDue (x : Ctx) : Bool := x.eng.exits != 0 || !x.eng.joins.isEmpty

/-- Whether a context may take an asynchronous trap (R324, R332, R335, R341): not while its handler runs, nor
while it is stopped or frozen, nor while it is about to take another. -/
def Ctx.mayTrap (x : Ctx) : Bool :=
  x.bound && !x.freeze && !x.trap.handler && !x.trap.stopped && x.trapping.isNone

/-- A cause code (R319). -/
def Trap.cause (t : Trap) : Nat := t.origin * 64 + t.cond

/-- TCAUSE (R322). -/
def Trap.tcause (t : Trap) (grp : Nat) : Nat :=
  t.cause + t.detail * 2 ^ 12 + (if t.async then 2 ^ 16 else 0) + (if t.engine then 2 ^ 17 else 0) +
  (if t.deferred then 2 ^ 18 else 0) + grp * 2 ^ 19

/-- A tile type, which no replay entry holds. -/
def Dest.isType : Dest → Bool
  | .tileType _ => true
  | _ => false

/-- Whether one result was issued no later than another: cycle, then group, then slot (R41, R127, R326). -/
def Pend.notAfter (a b : Pend) : Bool :=
  decide (a.issued < b.issued) || (a.issued == b.issued &&
    (decide (a.group < b.group) || (a.group == b.group && decide (a.slot ≤ b.slot))))

/-- A result put in its place of issue order. -/
def insertPend (e : Pend) : List Pend → List Pend
  | [] => [e]
  | f :: r => if e.notAfter f then e :: f :: r else f :: insertPend e r

/-- Results in issue order (R326): those of a replay before the others. -/
def issueSorted (es : List Pend) : List Pend :=
  es.filter (·.replayed) ++ (es.filter (!·.replayed)).foldr insertPend []

/-- Results in flight go to the replay buffer with the cycles that remain; a tile type, which no entry
holds, is written (R324, R326). Those of a running handler are kept apart (R331). -/
def State.capture (s : State) (c : Nat) : State :=
  let s := s.landThose c fun e => decide (e.due ≤ s.cycle) || e.dest.isType || e.internal
  s.onCtx c fun x =>
    let es := (issueSorted x.pend).map fun (e : Pend) => { e with due := e.due - s.cycle, inner := x.trap.handler }
    { x with trap := { x.trap with replay := x.trap.replay ++ es }, pend := [] }

/-- Scoreboarded results in flight land; those not yet known, and those behind an exposed result that the replay
buffer holds, stay pending (R46, R324). -/
def State.settle (s : State) (c : Nat) : State :=
  s.onCtx c fun x =>
    let lands (b : Board) : Bool := b.value.isSome && !x.behind b
    (x.board.filter lands).foldl Ctx.give { x with board := x.board.filter (!lands ·) }

/-- A note for the trace (R347). -/
def State.note (s : State) (c event data : Nat) : State :=
  { s with notes := s.notes ++ [{ tile := c / 16, event := event, data := data }] }

/-- TPIDX (R322, R64): all ones in native code; in translated code the portable index of the syllable at fault, of
the bundle's first syllable for a fault of the whole bundle. -/
def State.portableIndex (s : State) (team : Nat) (pc : Word) (slot : Option Nat) : Word :=
  match s.translated.find? fun (t, a, n, _) =>
      t == team && bufIdx a == bufIdx pc && decide (bufOff a ≤ bufOff pc) && decide (bufOff pc < bufOff a + n) with
  | none => BitVec.allOnes 64
  | some (_, a, _, ps) => match ps.find? (·.off == bufOff pc - bufOff a) with
    | none => BitVec.allOnes 64
    | some p => word <| match slot with
      | some n => ((p.slots.find? (·.1 == n)).map (·.2)).getD p.lead
      | none => p.lead

/-- A context about to take a trap: its stalls end, its results in flight go to the replay buffer, and tokens
that are still to come are owed (R324, R336, R342). -/
def State.quiesce (s : State) (c : Nat) : State :=
  ((((s.thawBy c).endWaits c 1).capture c).onCtx c fun x =>
    { x with board := x.board.map fun b => { b with owed := true } }).settle c

/-- The program counters of a context's groups, 0 for one that it has not (R322). -/
def Ctx.pcs (x : Ctx) : List Word :=
  (List.range 4).map fun i => match x.streams[i]? with
    | some st => st.pc
    | none => 0

/-- The trap registers that a trap of group g writes (R322, R324); TVEC decides whether a handler runs. -/
def Traps.take (r : Traps) (g : Nat) (t : Trap) (tpidx : Word) (tpc : List Word) (streams : List Stream) : Traps :=
  { r with tcause := word (t.tcause g), taddr := t.addr, tinfo := t.info, tpidx := tpidx, tpc := tpc,
           groups := streams.length - 1, handler := r.tvec.toNat % 2 == 1, parked := streams, kept := [] }

/-- A context with the trap registers that a trap writes. -/
def State.trapped (s : State) (c g : Nat) (t : Trap) : Ctx :=
  let x := s.ctx c
  { x with trap := x.trap.take g t (s.portableIndex x.bind.who.team (x.pcs.getD g 0) t.slot) x.pcs x.streams }

/-- The handler begins in one stream, or the context is trap-stopped (R323, R324). -/
def State.enterTrap (s : State) (c : Nat) (x : Ctx) : State :=
  let s := { s with turn := dropTurns c s.turn }
  let x := { x with probe := (s.ctx c).probe }
  if x.trap.handler then s.setCtx c { x with streams := [{ pc := word (x.trap.tvec.toNat / 8 * 8) }] }
  else
    { s.setCtx c { x with trap := { x.trap with stopped := true } } with told := s.told ++ [.trapStopped c] }

/-- The trap is taken by stream g of context c at its `pc` (R323-R325, R329, R334). -/
def State.takeTrapOf (s : State) (c g : Nat) (t : Trap) : State :=
  let s := s.note c 1 (t.cause * 4 + g)
  if (s.ctx c).trap.handler then s.tearDown c (t.origin * 64 + 0x2E + 2 ^ 10 + t.cause * 2 ^ 12)
  else
    let s := s.quiesce c
    let x := s.trapped c g t
    match saveMem s (streamAgent c g) x.bind.who (x.saveAt 0x200) (x.frame x.mode x.streams) with
    | .error _ => (s.setCtx c x).tearDown c (0x2C + 2 ^ 11 + t.cause * 2 ^ 12)
    | .ok u => u.enterTrap c x

/-- A strand stops for a trap of group g while answers are on their way: its stalls end and its results in flight go to
the replay buffer, but for a running handler, whose double fault lands them (R324, R334). -/
def State.beginTrap (s : State) (c g : Nat) (t : Trap) : State :=
  let s := if (s.ctx c).trap.handler then s else (s.endWaits c 1).capture c
  { s.onCtx c fun x => { x with trapping := some (g, t) } with turn := dropTurns c s.turn }

/-- A trap of group g of context c: taken, once the results that must land first have landed (R324). -/
def State.trapTo (s : State) (c g : Nat) (t : Trap) : State :=
  if (s.ctx c).answerDue then s.beginTrap c g t else s.takeTrapOf c g t

/-- The trap of the issuing stream, taken in its place in the cycle. -/
def State.trapHere (s : State) (t : Trap) : State := { s.trapTo s.me s.grp t with status := .trapped t }

/-- The trap of the issuing stream. -/
def State.takeTrap (s : State) (t : Trap) : State :=
  { s.takeTrapOf s.me s.grp t with status := .trapped t }

/-- A syllable's outcome: its own effect, the trap it takes, or the stall of its stream. -/
def State.finish (s : State) (r : Except Stop State) : Host.Outcome State Fault Refusal :=
  match r with
  | .ok t => .next t
  | .error (.trap t) => .next (s.takeTrap t)
  | .error (.hold h) => .next (s.hold h)

/-! Returning from a trap (R327, R333). -/

/-- A level read from a frame, without its loop buffer. -/
def readLevel (ws : List Nat) : Option LoopLevel :=
  let w3 := ws.getD 3 0
  if bitOf w3 7 then
    let start := word (ws.getD 0 0)
    some { start := start, count := word (ws.getD 1 0), total := word (ws.getD 2 0), id := w3 % 64,
           last := addrAdd start (bitsOf w3 23 12 : Nat) }
  else none

/-- Stopped commands and operations go on; commands translate anew (R97, R218). -/
def Ctx.resumeEngines (x : Ctx) (mem : List Host.Cell) : Ctx :=
  { x with eng := { x.eng with
      queues := x.eng.queues.map fun q => q.map fun k =>
        if k.stopped && k.trap.isNone then { k with stopped := false, tables := mem } else k,
      ops := x.eng.ops.map fun o => if o.stopped && o.trap.isNone then { o with stopped := false } else o } }

/-- A level as a frame gives it, with the loop buffer that the interrupted stream still holds for the same body
(R275, R285). -/
def LoopLevel.rejoin (l : LoopLevel) (held : Option LoopLevel) : LoopLevel :=
  match held with
  | some h => if h.start = l.start ∧ h.last = l.last then { l with body := h.body, after := h.after } else l
  | none => l

/-- The context as its trap frame restores it (R333): words of the frame, the streams that were stopped. -/
def Ctx.fromFrame (x : Ctx) (f : List Nat) : Ctx :=
  let n := bitsOf (f.getD 21 0) 7 6 + 1
  let x := (List.range 8).foldl (fun x i => x.setS (56 + i) (word (f.getD (9 + i) 0))) x
  let x := x.trap.kept.foldl (fun x p => if 56 ≤ p.1 then x.setS p.1 p.2 else x) x
  let x := (x.setA 14 (word (f.getD 17 0))).setA 15 (word (f.getD 18 0))
  { x with
    regs := { x.regs with p := BitVec.ofNat 32 (f.getD 19 0), g := BitVec.ofNat 16 (f.getD 20 0) },
    trap := { x.trap with handler := false, stopped := false, parked := [], kept := [] },
    board := x.board.map fun b => { b with owed := false },
    streams := (List.range n).map fun g =>
      let st := x.trap.parked.getD g {}
      { st with
        pc := x.trap.tpc.getD g 0
        exempt := decide (g = bitsOf x.trap.tcause.toNat 20 19)
        met := false
        loops := (List.range 4).filterMap fun l =>
          (readLevel ((List.range 4).map fun i => f.getD (32 + 16 * g + 4 * l + i) 0)).map (·.rejoin st.loops[l]?) } }

/-- The words of a context's trap frame in its save area (R329). -/
def readFrame (s : State) (x : Ctx) : Except MFault (List Nat) :=
  match readMem s x.bind.who (x.saveAt 0x200) 1024 with
  | .error f => .error f
  | .ok bs => .ok ((List.range 128).map fun i => ofBytes ((bs.drop (8 * i)).take 8))

end Sys2Proof.Machine
end

