-- ==== Sys2Proof/Machine/Operands.lean ====
section
/-!
DEFINITION. From fields to operands: guards (R35), read and write sets (R39), `RowOf` (R157), the operand
fields of the vector slots (R55, R161, R162), and the checks that a bundle makes before it issues: details 4
and 5 (R40), slot groups (R31, R32, R49), scoreboard and ownership stalls (R46, R216), exposed windows
(R44, R45) and port partitions (R166).
-/

namespace Sys2Proof.Machine

/-- The predicate of a guard holds, inverted by bit 5 (R35). -/
def guardTrue (x : Ctx) (guard : BitVec 6) : Bool := x.p (guard.toNat % 32) != guard.getLsbD 5

/-! Read and write sets (R39). Scalar 0, predicate 0 and mask 0 are in neither. -/

def rS (r : SReg) : List Dest := if r = 0 then [] else [.scalar r.toNat]
def rA (r : AReg) : List Dest := [.addr r.toNat]
def rP (r : PReg) : List Dest := if r = 0 then [] else [.pred r.toNat]
def rM (m : BitVec 3) : List Dest := if m = 0 then [] else [.mask m.toNat]
/-- A scalar named by a vector field. -/
def rF (f : VField) : List Dest :=
  if f.isScalar && f.index != 0x40 then [.scalar (f.index - 0x40)]
  else if f.level = 1 then [.oper f.index] else []

/-- Scalars of a layout record (R103). -/
def layoutScalars (sb : SReg) : List Dest := (List.range 12).map fun i => .scalar (sb.toNat + i)

/-- The vector operand fields that the encoding says an instruction reads, in the order x, y, z (R55, R192). -/
def vsources : Instr → List VField
  | .vch _ a b c _ x y z _ => x :: (if vchReadsY a c then [y] else []) ++ (if vchReadsZ b then [z] else [])
  | .vcvt _ x y _ tag => if tag = 8 then [x, y] else [x]
  | .vredAdd _ x _ | .vredMax _ x _ | .vredMin _ x _ | .vredAnd _ x _ | .vredOr _ x _ => [x]
  | .vscanAdd _ x _ | .vscanMax _ x _ | .vscanMin _ x _ | .vscanAnd _ x _ | .vscanOr _ x _ => [x]
  | .vperm _ x y _ => [x, y]
  | .vbcast _ x _ _ => [x]
  | .vshuf _ x y _ pat _ => if pat = 5 then [x] else [x, y]
  | .vmaskFrom _ x => [x]
  | .vtag _ x _ _ => [x]
  | .vmov _ x _ => [x]
  | .vext _ x _ => [x]
  | .vins _ x y _ _ => [x, y]
  | _ => []

/-- The vector destination field (R55). -/
def vdest : Instr → Option VField
  | .vch _ _ _ _ d _ _ _ _ => some d
  | .vcvt d _ _ _ _ => some d
  | .vredAdd d _ _ | .vredMax d _ _ | .vredMin d _ _ | .vredAnd d _ _ | .vredOr d _ _ => some d
  | .vscanAdd d _ _ | .vscanMax d _ _ | .vscanMin d _ _ | .vscanAnd d _ _ | .vscanOr d _ _ => some d
  | .vperm d _ _ _ => some d
  | .vbcast d _ _ _ => some d
  | .vshuf d _ _ _ _ _ => some d
  | .vmaskCount d _ => some d
  | .vtag d _ _ _ => some d
  | .vmov d _ _ => some d
  | .vext d _ _ => some d
  | .vins d _ _ _ _ => some d
  | _ => none

/-- The lane mask field that selects written lanes, or the masks that VMASK reads. -/
def vmasks : Instr → List Dest
  | .vch _ _ _ _ _ _ _ _ m => rM m
  | .vcvt _ _ _ m _ => rM m
  | .vredAdd _ _ m | .vredMax _ _ m | .vredMin _ _ m | .vredAnd _ _ m | .vredOr _ _ m => rM m
  | .vscanAdd _ _ m | .vscanMax _ _ m | .vscanMin _ _ m | .vscanAnd _ _ m | .vscanOr _ _ m => rM m
  | .vperm _ _ _ m => rM m
  | .vbcast _ _ m _ => rM m
  | .vshuf _ _ _ m _ _ => rM m
  | .vtag _ _ m _ => rM m
  | .vmov _ _ m => rM m
  | .vins _ _ _ m _ => rM m
  | .vmaskAnd _ i j | .vmaskOr _ i j | .vmaskAndn _ i j => rM i ++ rM j
  | .vmaskCount _ mk => rM mk
  | _ => []

/-- Registers read other than rows and vector fields. -/
def scalarReads : Instr → List Dest
  | .tlwaitReg _ sa => rS sa
  | .add _ a b | .sub _ a b | .mul _ a b | .mulh _ a b | .mulhu _ a b | .div _ a b | .divu _ a b | .rem _ a b
  | .remu _ a b | .and _ a b | .or _ a b | .xor _ a b | .shl _ a b | .shr _ a b | .sar _ a b | .rotr _ a b
  | .min _ a b | .max _ a b | .minu _ a b | .maxu _ a b => rS a ++ rS b
  | .clz _ a | .ctz _ a | .popc _ a => rS a
  | .sel _ a b pn => rS a ++ rS b ++ rP pn
  | .cmpEq _ a b | .cmpNe _ a b | .cmpLt _ a b | .cmpLe _ a b | .cmpLtu _ a b | .cmpLeu _ a b => rS a ++ rS b
  | .pset _ pa pb _ => rP pa ++ rP pb
  | .pmovToScalar _ => (List.range 31).map fun i => .pred (i + 1)
  | .pmovToPredicates sa => rS sa
  | .extr _ sa _ _ => rS sa
  | .ins sd sa _ _ => rS sd ++ rS sa
  | .sfadd _ a b | .sfmul _ a b => rS a ++ rS b
  | .sfma _ a b c => rS a ++ rS b ++ rS c
  | .sfcvt _ a _ => rS a
  | .abuf _ a b => rS a ++ rS b
  | .aadd _ aa sb _ => rA aa ++ rS sb
  | .aget _ aa => rA aa
  | .aset _ sa => rS sa
  | .rdsp _ num => [.special num.toNat]
  | .wrsp sa _ => rS sa
  | .addi _ a _ | .andi _ a _ | .ori _ a _ | .xori _ a _ | .shli _ a _ | .shri _ a _ | .sari _ a _ => rS a
  | .movhi sd _ => rS sd
  | .brInd sa | .callInd _ sa | .ret sa => rS sa
  | .brpAny pn cnt _ | .brpAll pn cnt _ | .brpNone pn cnt _ =>
    ((List.range (cnt.toNat + 1)).filter fun i => pn.toNat + i != 0).map fun i => .pred (pn.toNat + i)
  | .loopReg _ sa _ => rS sa
  | .ctxsave sa aa _ | .ctxload sa aa _ => rS sa ++ rA aa
  | .tinv a b _ => rS a ++ rS b
  | .ldU8 _ aa _ _ | .ldS8 _ aa _ _ | .ldU16 _ aa _ _ | .ldS16 _ aa _ _ | .ldU32 _ aa _ _ | .ldS32 _ aa _ _
  | .ld64 _ aa _ _ | .ldacq32 _ aa _ _ | .ldacq64 _ aa _ _ => rA aa
  | .st8 sa aa _ _ | .st16 sa aa _ _ | .st32 sa aa _ _ | .st64 sa aa _ _ | .strel32 sa aa _ _
  | .strel64 sa aa _ _ => rS sa ++ rA aa
  | .ldq _ aa _ _ | .stqa _ aa _ _ => rA aa
  | .amoAdd _ aa sb _ _ _ | .amoMin _ aa sb _ _ _ | .amoMax _ aa sb _ _ _ | .amoAnd _ aa sb _ _ _
  | .amoOr _ aa sb _ _ _ | .amoXor _ aa sb _ _ _ | .amoSwap _ aa sb _ _ _ => rA aa ++ rS sb
  | .cas sd aa sb _ _ _ => rS sd ++ rA aa ++ rS sb
  | .flset sb aa _ _ | .flsetAdd sb aa _ _ | .flwaitGe sb aa _ _ | .flwaitEq sb aa _ _ | .flwaitNe sb aa _ _ =>
    rS sb ++ rA aa
  | .cpy _ ad a sn _ _ sf | .tmov _ ad a sn _ _ sf | .rwr _ ad a sn _ _ sf | .pref _ ad a sn _ _ sf
  | .evict _ ad a sn _ _ sf => rA ad ++ rA a ++ rS sn ++ rS sf
  | .cpyl ad a sb _ => rA ad ++ rA a ++ layoutScalars sb
  | .gath _ ad a sn _ _ _ | .scat _ ad a sn _ _ _ => rA ad ++ rA a ++ rS sn
  | .credSum _ ad a sn _ _ sc _ | .credMax _ ad a sn _ _ sc _ | .credSmerge _ ad a sn _ _ sc _ =>
    rA ad ++ rA a ++ rS sn ++ rS sc
  | .kvgath _ ad ab sp _ _ sl _ _ => rA ad ++ rA ab ++ rS sp ++ rS sl
  | .kvapp _ ab a sp _ _ sl _ => rA ab ++ rA a ++ rS sp ++ rS sl
  | .mset _ _ sa => rS sa
  | .mplane ad a sn _ => rA ad ++ rA a ++ rS sn
  | .route _ at_ ar st sl _ => rA at_ ++ rA ar ++ rS st ++ rS sl
  | .rret st ar => rS st ++ rA ar
  | .rwait si => rS si
  | .rstat _ si _ => rS si
  | .conftMaxp _ al sh sx | .conftEnt _ al sh sx => rA al ++ rS sh ++ rS sx
  | .rngkey a b _ => rS a ++ rS b
  | .jobq _ ac sq | .launch _ ac sq => rA ac ++ rS sq
  | .futinit af => rA af
  | .futreg af sc sj => rA af ++ rS sc ++ rS sj
  | .futres af sv => rA af ++ rS sv
  | .futwait _ af => rA af
  | .crewjoin _ sc | .crewleave sc | .cbar sc => rS sc
  | _ => []

/-- Registers written other than rows and vector fields. A write of ROTCFG sets RRB too (R155). -/
def scalarWrites : Instr → List Dest
  | .add d _ _ | .sub d _ _ | .mul d _ _ | .mulh d _ _ | .mulhu d _ _ | .div d _ _ | .divu d _ _ | .rem d _ _
  | .remu d _ _ | .and d _ _ | .or d _ _ | .xor d _ _ | .shl d _ _ | .shr d _ _ | .sar d _ _ | .rotr d _ _
  | .min d _ _ | .max d _ _ | .minu d _ _ | .maxu d _ _ => rS d
  | .clz d _ | .ctz d _ | .popc d _ => rS d
  | .sel d _ _ _ => rS d
  | .cmpEq d _ _ | .cmpNe d _ _ | .cmpLt d _ _ | .cmpLe d _ _ | .cmpLtu d _ _ | .cmpLeu d _ _ => rP d
  | .pset d _ _ _ => rP d
  | .pmovToScalar d => rS d
  | .pmovToPredicates _ => (List.range 31).map fun i => .pred (i + 1)
  | .extr d _ _ _ | .ins d _ _ _ => rS d
  | .sfadd d _ _ | .sfmul d _ _ => rS d
  | .sfma d _ _ _ => rS d
  | .sfcvt d _ _ => rS d
  | .abuf d _ _ => rA d
  | .aadd d _ _ _ => rA d
  | .aget d _ => rS d
  | .aset d _ => rA d
  | .rdsp d _ => rS d
  | .wrsp _ num => .special num.toNat :: (if num = 0x011 then [.special 0x012] else [])
  | .addi d _ _ | .andi d _ _ | .ori d _ _ | .xori d _ _ | .shli d _ _ | .shri d _ _ | .sari d _ _ => rS d
  | .movi d _ | .movhi d _ => rS d
  | .call d _ => rS d
  | .callInd d _ => rS d
  | .ldU8 d _ _ _ | .ldS8 d _ _ _ | .ldU16 d _ _ _ | .ldS16 d _ _ _ | .ldU32 d _ _ _ | .ldS32 d _ _ _
  | .ld64 d _ _ _ | .ldacq32 d _ _ _ | .ldacq64 d _ _ _ => rS d
  | .amoAdd d _ _ _ _ _ | .amoMin d _ _ _ _ _ | .amoMax d _ _ _ _ _ | .amoAnd d _ _ _ _ _ | .amoOr d _ _ _ _ _
  | .amoXor d _ _ _ _ _ | .amoSwap d _ _ _ _ _ | .cas d _ _ _ _ _ => rS d
  | .cpy t _ _ _ _ _ _ | .tmov t _ _ _ _ _ _ | .rwr t _ _ _ _ _ _ | .pref t _ _ _ _ _ _ | .evict t _ _ _ _ _ _ => rS t
  | .gath t _ _ _ _ _ _ | .scat t _ _ _ _ _ _ => rS t
  | .credSum t _ _ _ _ _ _ _ | .credMax t _ _ _ _ _ _ _ | .credSmerge t _ _ _ _ _ _ _ => rS t
  | .kvgath t _ _ _ _ _ _ _ _ => rS t
  | .kvapp t _ _ _ _ _ _ _ => rS t
  | .tlget d _ => rS d
  | .vmaskFrom mk _ => rM mk
  | .vmaskAnd mk _ _ | .vmaskOr mk _ _ | .vmaskAndn mk _ _ => rM mk
  | .msnap _ _ sd => rS sd
  | .mprov sd _ => rS sd
  | .route d _ _ _ _ _ => rS d
  | .rstat d _ _ => rS d
  | .conftMaxp pd _ _ _ | .conftEnt pd _ _ _ => rP pd
  | .enrd d => rS d
  | .jobq d _ _ | .launch d _ _ => rS d
  | .futwait d _ => rS d
  | .crewjoin d _ => rS d
  | _ => []

/-- The tile in the write set, and the tile in the read set (R39): MSNAP names both. -/
def tileWrites : Instr → List Nat
  | .msnap td _ _ => [td.toNat]
  | _ => []
def tileReads : Instr → List Nat
  | .msnap _ ts _ => [ts.toNat]
  | _ => []

/-- The read set that the encoding fixes, guard included, rows apart (R39). -/
def fixedReads (y : Syl) : List Dest :=
  (if y.guard.toNat % 32 = 0 then [] else [.pred (y.guard.toNat % 32)]) ++
  scalarReads y.op ++ vmasks y.op ++ (vsources y.op).flatMap rF
/-- The write set that the encoding fixes, rows apart (R39). -/
def fixedWrites (y : Syl) : List Dest := scalarWrites y.op ++ ((vdest y.op).toList.flatMap rF)

/-! Rows (R157). -/

/-- `RowOf`: the context row that row index i names (R157). -/
def rowOf (x : Ctx) (i : Nat) : Option Nat :=
  let r := x.regs
  let i := if r.rotSize ≠ 0 ∧ r.rotBase ≤ i ∧ i < r.rotBase + r.rotSize then
      r.rotBase + (i - r.rotBase + r.rrb) % r.rotSize else i
  let n := 256 * r.rowwin + i
  if n < x.rowCount then some n else none

/-- Half-bytes of an element of a format (R134). -/
def halfBytes : Tag → Nat
  | .nq4 => 1
  | t => 2 * t.laneBytes

/-- The fields of a multi-row VCVT (R193): how many source and destination rows. -/
def vcvtCounts (src dst : Tag) : Nat × Nat :=
  if halfBytes dst < halfBytes src then (halfBytes src / halfBytes dst, 1) else (1, halfBytes dst / halfBytes src)

/-- The tag that a source field delivers, where it carries one (R55). -/
def fieldTag (x : Ctx) (f : VField) : Option Tag :=
  match f.level with
  | 0 => (rowOf x f.index).map fun r => (x.row r).tag
  | 1 => some (x.oper f.index).tag
  | 2 => some (if f.index = 0 then x.regs.lat0.tag else x.regs.lat1.tag)
  | _ => if f.isLdq then x.eng.ldRows.head?.map (·.tag) else none

/-- The format of the elements that a source field delivers, where it delivers elements (R133, R193). -/
def elementTag (x : Ctx) (f : VField) : Option Tag :=
  match fieldTag x f with
  | some .empty | some .deferred | some .nq4s | none => none
  | some t => some t

/-- The rows of a VCVT's source and destination; one each while the source holds no elements (R193). -/
def vcvtRows (x : Ctx) (f : VField) (tag : BitVec 4) : Nat × Nat :=
  match elementTag x f with
  | some t => vcvtCounts t (Tag.ofCode tag.toNat)
  | none => (1, 1)

/-- Whether a VCVT reads its scale row: where the target or the source is NQ4 (R194). -/
def readsScale (x : Ctx) (f : VField) (tag : BitVec 4) : Bool := tag == 8 || elementTag x f == some .nq4

/-- n fields from f on, by index (R193). -/
def fieldRun (f : VField) (n : Nat) : List VField := (List.range n).map fun i => f + BitVec.ofNat 10 i

/-- Whether a run of n fields stays within its level's limits (R193). -/
def runFits (f : VField) (n : Nat) : Bool :=
  match f.level with
  | 0 => decide (f.index + n ≤ 256)
  | 1 => decide (f.index + n ≤ 16)
  | _ => true

/-- Source fields with the added rows of a multi-row VCVT (R193). -/
def allSources (x : Ctx) (i : Instr) : List VField :=
  match i with
  | .vcvt _ f y _ tag =>
    let n := (vcvtRows x f tag).1
    (if f.level ≤ 1 ∧ runFits f n then fieldRun f n else [f]) ++ (if readsScale x f tag then [y] else [])
  | _ => vsources i

/-- Destination fields with the added rows of a multi-row VCVT (R193). -/
def allDests (x : Ctx) (i : Instr) : List VField :=
  match i with
  | .vcvt d f _ _ tag =>
    let n := (vcvtRows x f tag).2
    if d.level ≤ 1 ∧ runFits d n then fieldRun d n else [d]
  | _ => (vdest i).toList

/-- Whether a multi-row operand of a VCVT runs past its level's last index (R193). -/
def runOutside (x : Ctx) (i : Instr) : Bool :=
  match i with
  | .vcvt d f _ _ tag => !runFits f (vcvtRows x f tag).1 || !runFits d (vcvtRows x f tag).2
  | _ => false

/-- Whether a VCVT names a scale row that neither of its formats reads (R194). -/
def unreadScale (x : Ctx) (i : Instr) : Bool :=
  match i with
  | .vcvt _ f y _ tag => y != 0 && (elementTag x f).isSome && !readsScale x f tag
  | _ => false

/-- A row or entry of a field, rows after `RowOf`. -/
def fieldDest (x : Ctx) (f : VField) : List Dest :=
  match f.level with
  | 0 => match rowOf x f.index with
    | some r => [.row r]
    | none => []
  | _ => rF f

/-- The 64 rows of a tile (R39, R158). -/
def tileRows (t : Nat) : List Dest := (List.range 64).map fun i => .row (64 * t + i)

/-- The whole read set at issue (R39, R193). -/
def readSet (x : Ctx) (y : Syl) : List Dest :=
  fixedReads y ++ (allSources x y.op).flatMap (fieldDest x) ++ (tileReads y.op).flatMap tileRows
/-- The whole write set at issue. -/
def writeSet (x : Ctx) (y : Syl) : List Dest :=
  fixedWrites y ++ (allDests x y.op).flatMap (fieldDest x) ++ (tileWrites y.op).flatMap tileRows

/-- Whether two sets meet. -/
def meets (a b : List Dest) : Bool := a.any (b.contains ·)

/-- Detail 4, then detail 5, at the pair whose higher slot is lowest (R40). -/
def conflict (ys : List (Syl × List Dest × List Dest)) : Option DecodeError :=
  let rec go (clash : List Dest → List Dest → List Dest → List Dest → Bool) (seen : List (List Dest × List Dest)) :
      List (Syl × List Dest × List Dest) → Option Nat
    | [] => none
    | (y, r, w) :: rest =>
      if seen.any fun (r', w') => clash r' w' r w then some y.slot else go clash (seen ++ [(r, w)]) rest
  match go (fun r' w' r w => meets r' w || meets w' r) [] ys with
  | some n => some ⟨4, n⟩
  | none => match go (fun _ w' _ w => meets w' w) [] ys with
    | some n => some ⟨5, n⟩
    | none => none

/-! Ports (R164-R166). -/

/-- A bit of group g's part of the port record. -/
def portBit (p : List Byte) (g byte bit : Nat) : Bool :=
  (p.getD (64 * g + byte + bit / 8) 0).getLsbD (bit % 8)

/-- Whether a group may write a register (R164). -/
def portGrants (p : List Byte) (g : Nat) : Dest → Bool
  | .scalar n => n == 0 || portBit p g 0 n
  | .pred n => n == 0 || portBit p g 8 n
  | .addr n => portBit p g 14 n
  | .mask n => n == 0 || portBit p g 16 n
  | .oper n => portBit p g 18 n
  | .row r => portBit p g 24 (r / 16)
  | .special _ => g == 0
  | .stq _ => true
  | .tileType _ => true

/-- Whether a group may write a gate (R164). -/
def portGate (p : List Byte) (g n : Nat) : Bool := portBit p g 12 n

/-- Whether the issuing group may write the registers (R166): always in lockstep. -/
def mayWrite (x : Ctx) (g : Nat) (ds : List Dest) : Bool :=
  if x.forked then
    match x.ports with
    | none => false
    | some p => ds.all (portGrants p g)
  else true

/-- ROUTE, whose result R234 checks after its stall. -/
def isRoute : Instr → Bool
  | .route .. => true
  | _ => false

/-- The commands whose token R94 checks in its own place. -/
def takesToken : Instr → Bool
  | .cpy .. | .cpyl .. | .gath .. | .scat .. | .tmov .. | .rwr .. | .pref .. | .evict .. | .credSum .. | .credMax ..
  | .credSmerge .. | .kvgath .. | .kvapp .. => true
  | _ => false

/-- The writes that R166 checks before a syllable's own checks: its write set, gates, and the tile
of MCLR and MCFG. -/
def portsOk (x : Ctx) (g : Nat) (y : Syl) : Bool :=
  (takesToken y.op || isRoute y.op || mayWrite x g (writeSet x y)) &&
  (if x.forked then
    match y.op with
    | .gpost n | .gtake n | .gclr n => match x.ports with
      | some p => portGate p g n.toNat
      | none => false
    | .mclr t => mayWrite x g (tileRows t.toNat)
    | .mcfg t _ => mayWrite x g (tileRows t.toNat)
    | .rngkey .. => g == 0
    | _ => true
  else true)

/-! Slot groups (R31, R32, R49). -/

/-- What a stream without S0 may carry in slot 0 (R32). -/
def slotZeroOk : Instr → Bool
  | .br .. | .brInd .. | .call .. | .callInd .. | .ret .. | .brpAny .. | .brpAll .. | .brpNone .. | .loopReg ..
  | .loopImm .. | .lbrk | .join .. | .gpost .. | .gtake .. | .gwait .. | .gclr .. => true
  | _ => false

/-- The first slot of the bundle outside the stream's group, FORK's second half included (R31, R49, R288). A syllable
whose guard is false raises no such fault (R35, log 15). -/
def slotOutside (x : Ctx) (g : Nat) (ys : List Syl) : Option Nat :=
  if x.forked then
    let out (slot : Nat) : Bool := mapGroup x.map slot != g
    ys.findSome? fun y =>
      if guardTrue x y.guard = false then none
      else if y.slot = 0 ∧ out 0 then (if slotZeroOk y.op then none else some 0)
      else if out y.slot then some y.slot
      else match y.op with
        | .fork .. => if out 1 then some 1 else none
        | _ => none
  else none

/-- The slots that a bundle takes in the tile's cycle: a slot-0 control syllable of a stream without S0
uses none (R25, R32). -/
def slotsUsed (x : Ctx) (g : Nat) (ys : List Syl) : Nat :=
  ys.foldl (fun m y =>
    let bits := match y.op with
      | .fork .. => 3
      | _ => 2 ^ y.slot
    if x.forked ∧ y.slot = 0 ∧ mapGroup x.map 0 ≠ g then m else m ||| bits) 0

/-! Exposed windows (R44, R45). -/

/-- A read inside a landing window (R44). -/
def windowRead (x : Ctx) (now : Nat) (ds : List Dest) : Bool :=
  x.pend.any fun e => decide (now < e.due) && decide (e.issued < now) && ds.contains e.dest

/-- Exposed latency of an instruction's results (R43); 0 where they are scoreboarded. -/
def latency : Instr → Nat
  | .vbcast .. | .vmov .. | .vtag .. | .vins .. | .vmaskFrom .. | .vmaskAnd .. | .vmaskOr .. | .vmaskAndn ..
  | .vmaskCount .. => 2
  | .mul .. | .mulh .. | .mulhu .. => 3
  | .sfadd .. | .sfmul .. | .sfma .. | .sfcvt .. | .vperm .. | .vshuf .. | .vext .. => 4
  | .vcvt .. => 6
  | .vch .. => 8
  | .vredAdd .. | .vredMax .. | .vredMin .. | .vredAnd .. | .vredOr .. | .vscanAdd .. | .vscanMax .. | .vscanMin ..
  | .vscanAnd .. | .vscanOr .. => 10
  | .msnap .. => 12
  | .div .. | .divu .. | .rem .. | .remu .. => 20
  | _ => 1

/-- Instructions whose results are scoreboarded, not exposed (R46). -/
def scoreboarded : Instr → Bool
  | .ldU8 .. | .ldS8 .. | .ldU16 .. | .ldS16 .. | .ldU32 .. | .ldS32 .. | .ld64 .. | .ldacq32 .. | .ldacq64 .. => true
  | .amoAdd .. | .amoMin .. | .amoMax .. | .amoAnd .. | .amoOr .. | .amoXor .. | .amoSwap .. | .cas .. => true
  | .tlget .. | .mprov .. => true
  | .route .. | .rstat .. | .conftMaxp .. | .conftEnt .. | .enrd .. | .jobq .. | .launch .. | .futwait ..
  | .crewjoin .. => true
  | i => takesToken i

/-- An older exposed result that would land after a younger exposed one to the same register (R45). A scoreboarded
result is held back instead (R46). -/
def windowWrite (x : Ctx) (now : Nat) (i : Instr) (ds : List Dest) : Bool :=
  !scoreboarded i && x.pend.any fun e => decide (now + latency i < e.due) && ds.contains e.dest

/-- Tiles that a context's matrix operations own (R212, R223). -/
def Ctx.owned (x : Ctx) : List Nat := x.eng.ops.flatMap (·.tiles)

/-- Rows of an owned tile that a vector syllable touches (R216). -/
def touchesOwned (x : Ctx) (y : Syl) : Bool :=
  (y.slot == 4 || y.slot == 5) &&
  (readSet x y ++ writeSet x y).any fun d => match d with
    | .row r => x.owned.contains (r / 64)
    | _ => false

/-- Pops of the load-data queue by an instruction. -/
def ldqPops (i : Instr) : Nat := ((vsources i).filter (·.isLdq)).length

/-- The context as a syllable of a bundle meets it: V0 has popped its rows before V1 (R41, R127). -/
def Ctx.asSeen (x : Ctx) (ys : List Syl) (y : Syl) : Ctx :=
  if y.slot = 5 then
    match ys.find? (·.slot == 4) with
    | some v =>
      if guardTrue x v.guard then { x with eng := { x.eng with ldRows := x.eng.ldRows.drop (ldqPops v.op) } } else x
    | none => x
  else x

/-- A register pending on the scoreboard in a bundle's sets (R46, R91, R110). A result that the replay buffer holds
back does not stop the handler (R327). -/
def boardStall (x : Ctx) (ys : List Syl) : Bool :=
  ys.any fun y =>
    let ds := readSet (x.asSeen ys y) y ++ writeSet (x.asSeen ys y) y ++ (match y.op with
      | .cpyl _ _ sb _ => [.scalar ((x.s sb.toNat).toNat / 2 ^ 50 % 64), .scalar ((x.s sb.toNat).toNat / 2 ^ 40 % 64)]
      | _ => [])
    x.board.any fun b => ds.contains b.dest && !(b.value.isSome && x.trap.handler && x.parkedBehind b)

/-- A row field of an executing syllable that `RowOf` refuses, or a run of rows past its last index (R157, R193): its
slot. -/
def rowOutside (x : Ctx) (ys : List Syl) : Option Nat :=
  ys.findSome? fun y =>
    let x := x.asSeen ys y
    if guardTrue x y.guard ∧
       (runOutside x y.op ∨ ((vdest y.op).toList ++ allDests x y.op ++ allSources x y.op).any
         (fun f => f.level == 0 && (rowOf x f.index).isNone)) then some y.slot else none

/-- An "illegal encoding" trap of a decode error (R40). -/
def decodeTrap (e : DecodeError) : Trap :=
  { origin := slotOrigin e.slot, cond := 0x00, detail := e.detail, slot := some e.slot }

/-- A fault of the syllable of a slot that its bundle's checks find. -/
def slotTrap (n cond : Nat) : Trap := { origin := slotOrigin n, cond := cond, slot := some n }

/-- The checks of a bundle before any of its syllables takes effect, in the order of log 15. -/
def checkBundle (x : Ctx) (g now : Nat) (ys : List Syl) : Except Stop Unit :=
  match conflict (ys.map fun y => (y, fixedReads y, fixedWrites y)) with
  | some e => .error (.trap (decodeTrap e))
  | none =>
  match slotOutside x g ys with
  | some n => .error (.trap (slotTrap n 0x01))
  | none =>
  match rowOutside x ys with
  | some n => .error (.trap (slotTrap n 0x12))
  | none =>
  match ys.find? fun y => guardTrue x y.guard && unreadScale (x.asSeen ys y) y.op with
  | some y => .error (.trap (decodeTrap ⟨2, y.slot⟩))
  | none =>
  match conflict (ys.map fun y => (y, readSet (x.asSeen ys y) y, writeSet (x.asSeen ys y) y)) with
  | some e => .error (.trap (decodeTrap e))
  | none =>
  if boardStall x ys then .error (.hold .scoreboard)
  else if ys.any (fun y => guardTrue x y.guard && touchesOwned (x.asSeen ys y) y) then .error (.hold .owned)
  else
    let window := if x.xchk then
        ys.find? fun y => guardTrue x y.guard &&
          (windowRead x now (readSet (x.asSeen ys y) y) || windowWrite x now y.op (writeSet (x.asSeen ys y) y))
      else none
    match window with
    | some y => .error (.trap (slotTrap y.slot 0x02))
    | none =>
    match ys.find? fun y => guardTrue x y.guard && !portsOk (x.asSeen ys y) g y with
    | some y => .error (.trap (slotTrap y.slot 0x06))
    | none => .ok ()

/-! Sources of the vector slots (R55, R161, R162). -/

/-- What a source field delivers. -/
inductive Src where
  | row (r : Row)
  | bits (v : RowBits)
  | scalar (v : Word)
  | const (code : Nat)
  deriving DecidableEq, Repr

/-- Entries 0-31 of the constant table (R162). -/
def fixedConsts : List Nat :=
  [0x00000000, 0x3F800000, 0xBF800000, 0x40000000, 0x3F000000, 0xBF000000, 0x40400000, 0x40800000,
   0x3E800000, 0x41000000, 0x3E000000, 0x41800000, 0x3FC00000, 0x41200000, 0x3DCCCCCD, 0xC0000000,
   0x3F317218, 0x3FB8AA3B, 0x40490FDB, 0x3F3504F3, 0x3FB504F3, 0x7F800000, 0xFF800000, 0x7F7FFFFF,
   0xFF7FFFFF, 0x00800000, 0x7FC00000, 0x43E00000, 0x47600000, 0x477FE000, 0x40C00000, 0x40E00000]

/-- A constant-table entry (R162): 32 + i holds the integer i. -/
def constEntry (x : Ctx) (k : Nat) : Nat :=
  if k < 32 then fixedConsts.getD k 0
  else if k < 64 then (roundFmt 3 (Val.ofInt (k - 32 : Nat)) .fp32).1
  else Tab.get 0 x.regs.consts k

/-- The context after a pop of `rnd` in a cycle, none while the row at C is not filled: the queue fills a row a cycle, up to
a depth that the manual does not give (R46, R149; log 4). -/
def Ctx.popRnd (x : Ctx) (now : Nat) : Option Ctx :=
  match x.rnd.rows + (now - x.rnd.upto) with
  | 0 => none
  | n + 1 => some { x with rnd := ⟨min n (Config.rndDepth + 5), now⟩, regs := { x.regs with rngC := x.regs.rngC + 16 } }

/-- A source read at issue, pops taken (R41, R129, R149). -/
def readSource (s : State) (f : VField) : Except Stop (Src × State) :=
  let x := s.cx
  match f.level with
  | 0 => match rowOf x f.index with
    | some r => .ok (.row (x.row r), s)
    | none => .error (s.fault 0x12)
  | 1 => .ok (.row (x.oper f.index), s)
  | 2 => .ok (.row (if f.index = 0 then x.regs.lat0 else x.regs.lat1), s)
  | _ =>
    if f.isLdq then
      if x.eng.ops.any (fun o => o.kind = .mgo ∧ bitOf (o.nest.fields.getD 13 0).toNat 1) then .error (.hold .owned)
      else match x.eng.ldRows with
      | [] => .error (.hold .ldq)
      | r :: rest => .ok (.row r, s.up fun x => { x with eng := { x.eng with ldRows := rest } })
    else if f.isRnd then
      match x.popRnd s.cycle with
      | none => .error (.hold .rnd)
      | some y => .ok (.bits (philoxRow x.regs.rngC x.regs.rngK), s.up fun _ => y)
    else if f.isScalar then .ok (.scalar (x.s (f.index - 0x40)), s)
    else .ok (.const (constEntry x (f.index - 0x80)), s)

/-- Sources in field order (R41). -/
def readSources (s : State) : List VField → Except Stop (List Src × State)
  | [] => .ok ([], s)
  | f :: fs => match readSource s f with
    | .error e => .error e
    | .ok (v, s) => match readSources s fs with
      | .error e => .error e
      | .ok (vs, s) => .ok (v :: vs, s)

/-- n lanes of w bits of a number, lowest first. -/
def lanesOf : Nat → Nat → Nat → List Nat
  | 0, _, _ => []
  | n + 1, w, v => v % 2 ^ w :: lanesOf n w (v / 2 ^ w)

/-- Lanes put together. -/
def ofLanes (w : Nat) : List Nat → Nat
  | [] => 0
  | v :: r => v % 2 ^ w + 2 ^ w * ofLanes w r

/-- A constant in an integer lane (R162): nearest integer, clamped to the class's range. -/
def constInt (unsigned : Bool) (b code : Nat) : Nat :=
  match decodeFloat .fp32 code with
  | .nan => 0
  | .inf neg => if unsigned then (if neg then 0 else 2 ^ b - 1) else (if neg then 2 ^ (b - 1) else 2 ^ (b - 1) - 1)
  | .zero _ => 0
  | .fin neg mag exp st =>
    let v := signInt neg (roundMag false mag exp st 0).1
    wrapBits (if unsigned then (satU v b).1 else (satS v b).1) b

/-- The lanes that a source delivers to an operation of format t (R161, R162). -/
def Src.lanes (v : Src) (t : Tag) (unsigned : Bool) : List Nat :=
  match v with
  | .row r => lanesOf t.lanes t.laneBits r.data.toNat
  | .bits b => lanesOf t.lanes t.laneBits b.toNat
  | .scalar w => List.replicate t.lanes (w.toNat % 2 ^ t.laneBits)
  | .const c =>
    List.replicate t.lanes
      (if t.isInt then constInt unsigned t.laneBits c
       else if t.isFloat then (roundFmt 3 (decodeFloat .fp32 c) t).1 else c % 2 ^ t.laneBits)

/-- The tag that a source carries of its own. -/
def Src.tag? : Src → Option Tag
  | .row r => some r.tag
  | _ => none

/-- The trap that a DEFERRED row raises when used (R133, R319). -/
def deferredTrap (r : Row) : Stop :=
  let v := r.data.toNat
  let cause := v / 2 ^ 64 % 512
  .trap { origin := cause / 64, cond := cause % 64, addr := word v, deferred := true }

/-- The faults of a tagged source that holds no format (R133, R183 step 4). -/
def tagPresent (s : State) (v : Src) : Except Stop Unit :=
  match v with
  | .row r =>
    if r.tag = .deferred then .error (deferredTrap r)
    else if r.tag = .empty then .error (s.fault 0x14) else .ok ()
  | _ => .ok ()

/-- `TagCheck` of a row where no lane width is compared (R11): index rows, accumulator rows. -/
def rowCheck (s : State) (r : Row) (t : Tag) : Except Stop Unit :=
  if r.tag = t then .ok ()
  else if r.tag = .deferred then .error (deferredTrap r)
  else .error (s.fault (if r.tag = .empty then 0x14 else 0x13))

/-- `TagCheck` against a format (R11, R183 step 4). -/
def tagCheck (s : State) (v : Src) (t : Tag) : Except Stop Unit :=
  match tagPresent s v with
  | .error e => .error e
  | .ok () => match v with
    | .row r =>
      if r.tag = t then .ok ()
      else if r.tag.laneBytes = t.laneBytes ∧ halfBytes r.tag = halfBytes t then .error (s.fault 0x13)
      else .error (s.fault 0x15)
    | _ => .ok ()

/-- `TagCheck` of several sources, in order. -/
def tagChecks (s : State) (vs : List Src) (t : Tag) : Except Stop Unit :=
  vs.foldl (fun r v => match r with
    | .error e => .error e
    | .ok () => tagCheck s v t) (.ok ())

end Sys2Proof.Machine
end

