-- ==== Sys2Proof/Machine/Flags.lean ====
section
/-!
DEFINITION. The flags: comparisons into predicates (R174), tests of predicates (R281), gate tests (R290),
conditions on flag words (R126), and the status registers that hardware computes: AQSTAT (R121), CTXMODE
(R155), TSTATE (R322), ENCNT (R316), NSTAT (R145).
-/

namespace Sys2Proof.Machine

/-- What a meaning answers. -/
abbrev Out := Host.Outcome State Fault Refusal

/-- CMP: EQ, NE, LT, LE, LTU, LEU by minor 1 to 6 (R174). -/
def cmpEqual (a b : Word) : Bool := a == b
def cmpLess (a b : Word) : Bool := decide (a.toInt < b.toInt)
def cmpLessEq (a b : Word) : Bool := decide (a.toInt ≤ b.toInt)
def cmpLessU (a b : Word) : Bool := decide (a.toNat < b.toNat)
def cmpLessEqU (a b : Word) : Bool := decide (a.toNat ≤ b.toNat)

/-- PSET: bit 2·pa + pb of the table (R174). -/
def psetValue (tt : BitVec 4) (a b : Bool) : Bool := tt.getLsbD (2 * a.toNat + b.toNat)

/-- The predicates pN to pN+count-1 (R281). -/
def predRun (x : Ctx) (n cnt : Nat) : List Bool := (List.range cnt).map fun i => x.p (n + i)
def testAny (x : Ctx) (n cnt : Nat) : Bool := (predRun x n cnt).any id
def testAll (x : Ctx) (n cnt : Nat) : Bool := (predRun x n cnt).all id

/-- Rows of STQA commands that have no data yet written out (R130). -/
def Ctx.stRows (x : Ctx) : Nat := (x.eng.stCmds.map fun c => c.count - c.done).foldl (· + ·) 0

/-- STQA commands with rows not yet paired, when n store-data entries are taken (R121, R130). -/
def unpaired : List RowCmd → Nat → Nat
  | [], _ => 0
  | c :: r, n => if c.count - c.done ≤ n then unpaired r (n - (c.count - c.done)) else 1 + r.length

/-- AQSTAT (R121). -/
def Ctx.aqstat (x : Ctx) : Nat :=
  (x.eng.stData.length - x.stRows) % 2 ^ 11 + unpaired x.eng.stCmds x.eng.stData.length % 64 * 2 ^ 11 +
  x.eng.ldRows.length % 128 * 2 ^ 17 + x.eng.ldCmds.length % 64 * 2 ^ 24

/-- The rows of STQA commands, by class and cycle of issue, with the store-data entries that pair with them (R130). -/
def Ctx.pairedStores (x : Ctx) : List ((Nat × Nat) × StData) :=
  (x.eng.stCmds.flatMap fun c => List.replicate (c.count - c.done) (c.cls, c.born)).zip x.eng.stData

/-- Whether every store-data entry below a bound has been written (R130). -/
def Ctx.writtenTo (x : Ctx) (bound : Nat) : Bool := x.eng.stData.all fun d => decide (bound ≤ d.entry)

/-- Whether a store-data entry can be written as things stand: while a handler runs, a row that the trap has put into
the replay buffer is no store that anything waits for, nor are the entries behind it (R131, R325). -/
def Ctx.canWrite (x : Ctx) (d : StData) : Bool :=
  !(x.trap.handler && x.eng.stData.any fun e =>
      decide (e.entry ≤ d.entry) && !e.full && x.trap.replay.any fun p => !p.inner && p.dest == .stq e.entry)

/-- The first store-data entry beyond those of a group's paired stores that satisfy a test and can be written, by
class, cycle of the STQA and entry; 0 where there is none. -/
def Ctx.placed (x : Ctx) (g : Nat) (f : Nat → Nat → StData → Bool) : Nat :=
  (x.pairedStores.filter fun p => p.2.group == g && f p.1.1 p.1.2 p.2 && x.canWrite p.2).foldl
    (fun n p => max n (p.2.entry + 1)) 0

/-- The entries of a group's stores, in classes of a mask, whose place lies before a bundle issued now: both halves
have issued in an earlier cycle (R131). -/
def Ctx.placedBefore (x : Ctx) (g mask now : Nat) : Nat :=
  x.placed g fun cls born d => bitOf mask cls && decide (born < now) && decide (d.born < now)

/-- The entries that the group's own bundle has paired in this cycle, in classes of a mask: what slots 6 and 7 of it
do in these classes comes after them (R131, R264). -/
def Ctx.placedNow (x : Ctx) (g mask now : Nat) : Nat :=
  x.placed g fun cls _ d => bitOf mask cls && d.born == now

/-- A FENCE of the stream, over a class in the mask, whose earlier stores are still to be written (R125). -/
def State.fenced (s : State) (mask : Nat) : Bool :=
  s.stream.fences.any fun (m, b) => m &&& mask != 0 && !s.cx.writtenTo b

/-- Paired stores of the issuing stream that an access of a class in the mask performs after (R125, R131). -/
def State.storesBefore (s : State) (mask : Nat) : Bool :=
  s.cx.placedBefore s.grp mask s.cycle != 0 || s.fenced mask

/-- An access waits for the paired stores that come before it (R123, R125, R131, log 20). -/
def State.afterStores (s : State) (mask : Nat) : Except Stop Unit :=
  if s.storesBefore mask then .error (.hold .full) else .ok ()

/-- ENCNT (R316). -/
def Ctx.encnt (x : Ctx) : Nat := x.regs.enCount % 2 ^ 48 + (if x.regs.enSat then 2 ^ 63 else 0)

/-- WCTLn as it reads (R337). -/
def Watch.word (w : Watch) : Nat :=
  w.hits % 256 * 2 ^ 56 + (if w.pending then 2 ^ 55 else 0) + w.length % 2 ^ 24 * 2 ^ 8 +
  (if w.agent then 4 else 0) + (if w.write then 2 else 0) + (if w.read then 1 else 0)

/-- WLCTL as it reads (R337). -/
def Debug.wlctl (d : Debug) : Nat :=
  d.wlThreshold % 2 ^ 32 * 2 ^ 8 + d.wlSize % 16 * 16 + (if d.wlError then 2 else 0) + (if d.wlEnable then 1 else 0)

/-- The count of loop level l as the issuing stream reads it (R283). A handler that has not opened the level reads that
of the stream that trapped (R376, log 22). -/
def State.loopCount (s : State) (l : Nat) : Nat :=
  let held := if s.cx.trap.handler then (s.cx.trap.parked[bitsOf s.cx.trap.tcause.toNat 20 19]?).bind (·.loops[l]?) else none
  ((s.stream.loops[l]?.orElse fun _ => held).map (·.count.toNat)).getD 0

/-- A special register's present value, for the issuing stream (R154, R155, R120, R121, R145, R151, R278, R316, R317,
R322, R337). -/
def specialNow (s : State) (n : Nat) : Nat :=
  let x := s.cx
  let r := x.regs
  let w := x.bind.who
  match n with
  | 0x000 => s.me
  | 0x001 => w.team
  | 0x002 => r.cursor.toNat
  | 0x003 => r.argptr.toNat
  | 0x004 => x.mode
  | 0x005 => s.time
  | 0x006 => r.rescyc
  | 0x010 => r.rowwin
  | 0x011 => r.rotSize * 256 + r.rotBase
  | 0x012 => r.rrb
  | 0x020 => r.ctsel
  | 0x021 => constEntry x (64 + r.ctsel)
  | 0x040 => w.usBase
  | 0x041 => w.usSize
  | 0x042 => w.csBase
  | 0x043 => w.csSize
  | 0x044 => w.dsBase
  | 0x045 => w.dsSize
  | 0x046 => r.lqtag.code
  | 0x047 => x.aqstat
  | 0x050 => (if r.nstatAt = some s.cycle then r.nstatWas else r.nstat).toNat
  | 0x051 => r.nver
  | 0x052 => r.rngC.toNat % 2 ^ 64
  | 0x053 => r.rngC.toNat / 2 ^ 64
  | 0x054 => Tab.get 0 s.inv w.team
  | 0x055 => s.drained w.team
  | 0x060 => x.encnt
  | 0x080 => x.trap.tvec.toNat
  | 0x081 => x.trap.tcause.toNat
  | 0x082 => x.trap.taddr.toNat
  | 0x083 => x.trap.tinfo.toNat
  | 0x084 => x.trap.tpidx.toNat
  | 0x08C => x.tstate
  | 0x08D => x.trap.enable.toNat * 2 ^ 16 + x.trap.pending.toNat
  | 0x0C0 => x.probe.dbgctl.toNat
  | 0x0D0 => x.probe.wlbase.toNat
  | 0x0D1 => x.probe.wlctl
  | 0x0D2 => x.probe.wlpos
  | 0x0D8 => s.eccCnt
  | 0x0E0 => (Tab.get ({} : Trace) s.trace (clusterOf s.tile)).ctl.toNat
  | 0x0E1 => (Tab.get ({} : Trace) s.trace (clusterOf s.tile)).pos
  | _ =>
    if 0x061 ≤ n ∧ n ≤ 0x069 then s.weight (dieOf s.tile) (n - 0x061)
    else if 0x088 ≤ n ∧ n ≤ 0x08B then (x.trap.tpc.getD (n - 0x088) 0).toNat
    else if 0x0C4 ≤ n ∧ n ≤ 0x0C7 then (x.probe.watch.getD (n - 0x0C4) {}).base.toNat
    else if 0x0C8 ≤ n ∧ n ≤ 0x0CB then (x.probe.watch.getD (n - 0x0C8) {}).word
    else if 0x100 ≤ n ∧ n ≤ 0x13F then Tab.get 0 r.lupd (n - 0x100)
    else if 0x140 ≤ n ∧ n ≤ 0x143 then Tab.get 0 r.lrot (n - 0x140)
    else if 0x148 ≤ n ∧ n ≤ 0x14B then s.loopCount (n - 0x148)
    else 0

/-- Registers that hardware changes within a cycle, apart from the stream's own counts (R156): AQSTAT, RNGC, the
invalidation counts, ENCNT, TNOTICE, the watches, the wait log and the ECC count. -/
def hardwareChanged : List Nat :=
  [0x047, 0x052, 0x053, 0x054, 0x055, 0x060, 0x08D, 0x0C8, 0x0C9, 0x0CA, 0x0CB, 0x0D1, 0x0D2, 0x0D8]

/-- A special register as it reads in the issuing cycle: one that hardware changes reads as the cycle began, with a
write of software that has landed since (R156). -/
def readSpecial (s : State) (n : Nat) : Nat :=
  if hardwareChanged.contains n then (Tab.find? s.cx.seen n).getD (specialNow s n) else specialNow s n

/-- Whether a register has a field that the issuing context may write (R156). -/
def writable (x : Ctx) (n : Nat) : Bool :=
  let always := (0x010 ≤ n && n ≤ 0x012) || n == 0x020 || n == 0x021 || n == 0x046 || n == 0x050 ||
    (0x100 ≤ n && n ≤ 0x143)
  let priv := n == 0x004 || n == 0x051 || n == 0x060 || n == 0x080 || n == 0x08D || n == 0x0C0 ||
    (0x0C4 ≤ n && n ≤ 0x0CB) || n == 0x0D0 || n == 0x0D1 || n == 0x0E0
  always || (priv && x.priv)

/-- Reserved fields of the registers (R121, R145, R146, R155, R316, R337), as (hi, lo) pairs. -/
def reservedSpecial (n : Nat) : List (Nat × Nat) :=
  match n with
  | 0x004 => [(3, 2), (63, 8)]
  | 0x010 => [(63, 2)]
  | 0x011 => [(63, 17)]
  | 0x012 => [(63, 8)]
  | 0x020 => [(63, 6)]
  | 0x021 => [(63, 32)]
  | 0x046 => [(63, 4)]
  | 0x050 => [(63, 5)]
  | 0x051 => [(63, 2)]
  | 0x060 => [(62, 48)]
  | 0x0C0 => [(17, 1)]
  | 0x0D1 => [(3, 2), (63, 40)]
  | 0x0E0 => [(2, 2), (15, 5), (63, 32)]
  | _ =>
    if 0x0C8 ≤ n ∧ n ≤ 0x0CB then [(7, 3), (54, 32)]
    else if 0x100 ≤ n ∧ n ≤ 0x13F then [(63, 32)]
    else if 0x140 ≤ n ∧ n ≤ 0x143 then [(63, 8)]
    else []

/-- A value that a register refuses (R121, R146, R155, R337). The EMPTY, DEFERRED and reserved codes are no
tags for LQTAG (R134). -/
def badSpecial (x : Ctx) (n v : Nat) : Bool :=
  match n with
  | 0x010 => v % 4 != 0 && x.bind.pool != 2
  | 0x011 => decide (256 < bitsOf v 16 8) || decide (256 < v % 256 + bitsOf v 16 8)
  | 0x012 => if x.regs.rotSize = 0 then v % 256 != 0 else decide (x.regs.rotSize ≤ v % 256)
  | 0x046 => v % 16 == 0 || decide (9 < v % 16)
  | 0x051 => v % 4 == 0
  | 0x0C0 => (v % 2 == 1 && v / 2 ^ 32 == 0) || decide (32 < bitsOf v 25 21 + bitsOf v 20 18 + 1)
  | 0x0E0 => v % 4 == 3
  | _ => false

end Sys2Proof.Machine
end

