-- ==== Sys2Proof/Machine/Fetch.lean ====
section
/-!
DEFINITION. Instruction fetch (R38, R42), transfers (R279, R285) and the hardware loop (R167-R169, R283).
-/

namespace Sys2Proof.Machine

/-- The address after n syllables (R42). -/
def pcAdd (pc : Word) (n : Int) : Word := addrAdd pc (8 * n)

/-- Whether an address lies in a level's body (R285). -/
def LoopLevel.inside (l : LoopLevel) (a : Word) : Bool :=
  bufIdx a == bufIdx l.start && decide (bufOff l.start ≤ bufOff a) &&
  decide (bufOff a < bufOff l.after)

/-- A syllable held in the loop buffer of an active level (R275, R285). -/
def loopWord (ls : List LoopLevel) (a : Word) : Option Nat :=
  match ls.find? (·.inside a) with
  | some l => (l.body[(bufOff a - bufOff l.start) / 8]?).map (·.toNat)
  | none => none

/-- The aligned 64-byte block that holds an address (R38, R42). -/
def blockOf (a : Word) : Word := addrOf (bufIdx a) (bufOff a / 64 * 64)

/-- One syllable fetched from its block, which is translated whole and named by a fault (R42, R73, R282). -/
def fetchWord (s : State) (w : Who) (ls : List LoopLevel) (a : Word) : Except MFault Nat :=
  match loopWord ls a with
  | some v => .ok v
  | none => (readMem s w (blockOf a) 64 .fetch).map fun bs => ofBytes ((bs.drop (bufOff a % 64)).take 8)

/-- The syllables from `a` to the next stop bit, nine at most: the ninth already breaks slot order (R38). -/
def fetchWords (s : State) (w : Who) (ls : List LoopLevel) : Nat → Word → Except MFault (List Nat)
  | 0, _ => .ok []
  | n + 1, a => match fetchWord s w ls a with
    | .error f => .error f
    | .ok v =>
      if wordStop v then .ok [v]
      else match fetchWords s w ls n (pcAdd a 1) with
        | .error f => .error f
        | .ok vs => .ok (v :: vs)

/-- The bundle at `a`. -/
def fetchBundle (s : State) (w : Who) (ls : List LoopLevel) (a : Word) : Except MFault (List Nat) :=
  fetchWords s w ls 9 a

/-- n bundles in sequence from `a`: their syllables and the address of the last one (R282). -/
def walkBody (s : State) (w : Who) (ls : List LoopLevel) : Nat → Word → Except MFault (List Nat × Word)
  | 0, a => .ok ([], a)
  | n + 1, a => match fetchBundle s w ls a with
    | .error f => .error f
    | .ok vs =>
      if n = 0 then .ok (vs, a)
      else match walkBody s w ls n (pcAdd a vs.length) with
        | .error f => .error f
        | .ok (r, l) => .ok (vs ++ r, l)

/-- A transfer taken by the issuing bundle (R279). -/
def State.jump (s : State) (target : Word) : State := { s with npc := target, jumped := true }

/-- The target of a relative offset from the issuing bundle (R42, R279). -/
def State.relative (s : State) (off : Int) : Word := pcAdd s.stream.pc off

/-- Levels that stay open when control goes to an address (R285). -/
def keepLoops : List LoopLevel → Word → List LoopLevel
  | [], _ => []
  | l :: r, a => if l.inside a then l :: keepLoops r a else []

/-- The update delta of address register j at level l, in bytes (R155, R167). -/
def Ctx.delta (x : Ctx) (l j : Nat) : Int := signed (Tab.get 0 x.regs.lupd (16 * l + j)) 32

/-- A register changed by a loop-back after the results of latency 1 have landed: a result about to land in it
is changed in flight and is part of the loop-back from then on, otherwise the change lands with them (R167-R169). -/
def Ctx.loopWrite (x : Ctx) (now : Nat) (d : Dest) (v : Nat) : Ctx :=
  if x.pend.any fun e => e.dest == d && e.due == now + 1 then
    { x with pend := x.pend.map fun e => if e.dest = d ∧ e.due = now + 1 then { e with data := v, internal := true } else e }
  else { x with pend := x.pend ++ [{ due := now + 1, dest := d, data := v, issued := now, internal := true }] }

/-- A write of ROTCFG about to land before a loop-back that changes RRB is part of the loop-back (R168, R169, log 15). -/
def Ctx.joinRotation (x : Ctx) (now : Nat) : Ctx :=
  { x with pend := x.pend.map fun e => if e.dest = .special 0x011 ∧ e.due = now + 1 then { e with internal := true } else e }

/-- The loop-back of level l, apart from the count (R167). -/
def Ctx.loopBack (x : Ctx) (now g l : Nat) : Ctx :=
  let y := (landOrder (x.pend.filter fun e => decide (e.due ≤ now + 1))).foldl Ctx.land x
  let x := (List.range 16).foldl (fun x j =>
    if y.delta l j ≠ 0 ∧ mayWrite x g [.addr j] then
      x.loopWrite now (.addr j) (addrAdd (y.a j) (y.delta l j)).toNat
    else x) x
  let rrb := if x.forked then match x.ports with
      | some p => portBit p g 17 0
      | none => false
    else true
  if y.regs.rotSize ≠ 0 ∧ rrb then
    (x.joinRotation now).loopWrite now (.special 0x012) ((y.regs.rrb + Tab.get 0 y.regs.lrot l) % y.regs.rotSize)
  else x

/-- A note of a loop-back for the trace (R347). -/
def stagePreds (x : Ctx) : Nat :=
  let d := x.probe.dbgctl.toNat
  (predRun x (bitsOf d 25 21) (bitsOf d 20 18 + 1)).foldr (fun b n => (if b then 1 else 0) + 2 * n) 0

/-- The stream after its bundle has issued: levels closed by a transfer (R285), or the loop-back or close of
the innermost level at its last bundle (R283). -/
def State.advance (s : State) : State :=
  let st := s.stream
  let s := s.upStream fun t => { t with exempt := false, met := false }
  if s.jumped then
    s.upStream fun t => { t with pc := s.npc, loops := keepLoops t.loops s.npc }
  else match st.loops.getLast? with
  | none => s.upStream fun t => { t with pc := s.npc }
  | some l =>
    if l.last ≠ st.pc then s.upStream fun t => { t with pc := s.npc }
    else if 1 < l.count.toNat then
      let lv := st.loops.length - 1
      let s := s.up (·.loopBack s.cycle s.grp lv)
      let pass := l.total.toNat - l.count.toNat + 2
      let s := s.note s.me 2 (l.id % 64 * 2 ^ 14 + pass % 1024 * 2 ^ 4 + stagePreds s.cx % 16)
      s.upStream fun t => { t with pc := l.start, checkStop := true,
                                   loops := t.loops.dropLast ++ [{ l with count := l.count - 1 }] }
    else s.upStream fun t => { t with pc := s.npc, loops := t.loops.dropLast }

/-- The debug stop that a stream about to begin a pass takes (R338). -/
def debugStop (x : Ctx) (t : Stream) : Option Trap :=
  match t.loops.getLast? with
  | some l =>
    let d := x.probe.dbgctl.toNat
    let pass := l.total.toNat - l.count.toNat + 1
    if t.checkStop ∧ d % 2 = 1 ∧ bitsOf d 31 26 = l.id ∧ bitsOf d 63 32 = pass then
      some { origin := 0, cond := 0x29,
             info := word (pass * 2 ^ 32 + l.id * 2 ^ 26 + stagePreds x * 2 ^ 18 + (t.loops.length - 1) * 2 ^ 16) }
    else none
  | none => none

end Sys2Proof.Machine
end

