-- ==== Sys2Proof/Machine/Clock.lean ====
section
/-!
DEFINITION. The clock (R4, R25, log 5): one cycle of the arithmetic clock, the happenings that are then due,
and the order in which each tile's issue stage walks its streams.
-/

namespace Sys2Proof.Machine

/-- Results of a context that are due (R43, R46, R327). -/
def dueLandings (s : State) (c : Nat) (x : Ctx) : List Instr :=
  (if x.pend.any fun e => e.replayed && decide (e.due ≤ s.cycle) then [.replayLanding c] else []) ++
  (if x.pend.any fun e => !e.replayed && decide (e.due ≤ s.cycle) then [.exposedResultLanding c] else []) ++
  (if x.board.any (x.boardReady s.cycle) then [.scoreboardResultLanding c] else [])

/-- Engine traps and deadlocks that may be taken (R292, R323). -/
def dueTraps (c : Nat) (x : Ctx) : List Instr :=
  (if x.eng.queues.any (·.any (·.trap.isSome)) || x.eng.ops.any (·.trap.isSome) then [.engineTrap c] else []) ++
  (if x.streams.any fun t => match t.wait with
      | some ⟨.gate _ _, _, _, _⟩ => true
      | _ => false
    then [.streamDeadlock c] else [])

/-- The next step of a copy queue's head, by the kind of its command (R90, R251, R255). -/
def queueStep (c q : Nat) (k : Cmd) : Instr :=
  match k.kind with
  | .kvapp => .appendAction c (BitVec.ofNat 2 q)
  | .kvgath => if k.stage = 1 then .kvgathSlotWake c (BitVec.ofNat 2 q) else .copyBeat c (BitVec.ofNat 2 q)
  | _ => .copyBeat c (BitVec.ofNat 2 q)

/-- Steps of a context's engines (R90, R128, R131, R203, R230, R237). -/
def dueEngines (s : State) (c : Nat) (x : Ctx) : List Instr :=
  (List.range 4).flatMap (fun q => match x.eng.queues.getD q [] with
    | [] => []
    | k :: _ => [queueStep c q k]) ++
  (if x.eng.ops.isEmpty then [] else [.matrixStep c]) ++
  (if x.eng.ldCmds.isEmpty then [] else [.ldqRowArrival c]) ++
  (if x.eng.stCmds.isEmpty then [] else [.pairedStoreWrite c]) ++
  x.eng.routes.flatMap (fun r =>
    (if r.slots.any (·.state == 0) then [.heddleDelivery c r.num] else []) ++
    (if !r.done && r.deadline != 0 && decide (r.deadline ≤ s.time) then [.routeDeadline c r.num] else []))

/-- Steps of units that no one context owns. -/
def dueUnits (s : State) : List Instr :=
  s.crews.flatMap (fun c =>
    (if c.isOpen && c.awaited.isEmpty then [.crewGenerationCompletion c.id] else []) ++
    (if c.rounds.isEmpty then [] else [.credRoundCompletion c.id])) ++
  s.returns.map (fun _ => .reedReturnArrival 0) ++
  s.chervil.zipIdx.flatMap (fun (v, d) =>
    (if v.postings.isEmpty then [] else [.exitRecordPosting d]) ++
    (if v.groups.any fun g => !g.wait.isEmpty then [.chervilAgeTimeout d] else []) ++
    (if v.postings.any (fun p => p.retry != 0) || v.groups.any (fun g => g.retry != 0) then [.chervilRetry d] else []) ++
    (if v.formed.isEmpty then [] else [.chervilCardSubmission d])) ++
  s.credits.map (fun _ => .continuationCredit) ++
  s.waiting.map (fun _ => .continuationLaunch) ++
  s.jobqs.flatMap (fun (q, j) => if bitsOf j.desc.toNat 223 192 = 0 then [] else [.cadenceRelease q]) ++
  s.jobqs.flatMap (fun (q, j) => if j.head < j.tail then [.cardAgeing q] else []) ++
  s.launch.flatMap fun (k, l) => if l.cards.isEmpty then [] else [.cardAgeing (k / 16 * 1024 + 0x100 + k % 16)]

/-- Connections whose acknowledgement is late (R352). -/
def duePorts (s : State) : List Instr :=
  s.conns.flatMap fun (k, c) => match c.unacked with
    | [] => []
    | _ :: _ => [.qftResendTimeout (k % 16) (BitVec.ofNat 128 (k / 16 / 1024)) (k / 16 % 1024)]

/-- Tiles with a resident context, ascending. -/
def State.tiles (s : State) : List Nat := (s.bound.map fun p => p.1 / 16).eraseDups

/-- Whether a cluster's arithmetic clock has a cycle in this cycle of the full clock: always at full rate, else as a
lowered clock's edges fall (R365, R366, log 5). -/
def State.clocked (s : State) (k : Nat) : Bool :=
  let level := Tab.get 0 s.rates k
  level == 0 || Config.clockEdge k level s.cycle

/-- What the clusters run at from a cycle on: what has been set for power, and whether their die is too hot (R365,
R366). -/
def State.levels (s : State) : List (Nat × Nat) :=
  (List.range 16).map fun k => (k, Tab.get 0 s.clocks k + (if s.hot.contains (k / 8) then 2 ^ 16 else 0))

/-- A context whose cluster has no cycle in a cycle of the full clock: what it counts in cycles stands still (R365). -/
def Ctx.standStill (x : Ctx) : Ctx :=
  let late (n : Nat) : Nat := n + 1
  { x with
    issued := late x.issued
    rnd := { x.rnd with upto := late x.rnd.upto }
    pend := x.pend.map fun e => { e with due := late e.due, issued := late e.issued }
    board := x.board.map fun b => { b with due := late b.due, issued := late b.issued }
    streams := x.streams.map fun t => { t with wait := t.wait.map fun (w : Wait) => { w with cycle := late w.cycle } } }

/-- What is due in the cycle that begins in the contexts whose clusters run; `ticked` when a reference tick has begun,
`ended` the clusters for which a cycle has ended. Happenings that turn out not to be ready change nothing. -/
def happenings (s : State) (ticked : Bool) (ended : Nat → Bool) : List Instr :=
  let live := s.bound.filter fun p => s.clocked (clusterOf (p.1 / 16))
  (s.trace.filter fun p => p.2.ctl.toNat % 4 != 0 && ended p.1).map (fun p => .traceFrame p.1) ++
  live.flatMap (fun (c, x) => dueLandings s c x) ++
  (if ticked && s.time % 1000 == 0 then s.tiles.map .staticEnergyCharge else []) ++
  live.flatMap (fun (c, x) => dueTraps c x) ++
  live.flatMap (fun (c, x) => dueEngines s c x) ++
  dueUnits s ++ (if ticked then duePorts s else [])

/-- Cycles that a cluster's own arithmetic clock has had since reset (R365). -/
def State.cyclesOf (s : State) (k : Nat) : Nat := s.first - Tab.get 0 s.missed k

/-- The lowered clusters that have no cycle in this one count it as missed. -/
def State.countMissed (s : State) : State :=
  { s with missed := ((List.range 16).filter fun k => !s.clocked k).foldl (fun l k => Tab.set l k (Tab.get 0 l k + 1)) s.missed }

/-- Context slots of a tile in the order of this cycle's walk (R25): the walk starts one slot further in each cycle of
the tile's cluster since reset, whether or not the slots are bound (log 47). -/
def walkTile (s : State) (t : Nat) : List Turn :=
  let n := poolSlots (s.poolOf t)
  if s.clocked (clusterOf t) then
    (((List.range n).map fun i => 16 * t + (s.cyclesOf (clusterOf t) + i) % n).filter fun c => (s.ctx c).bound).map .scan
  else []

/-- Whether every arithmetic clock stands: for heat, or after it, until the tiles and the memory that the contexts
ran on are ready again (R366, log 37). -/
def State.stands (s : State) : Bool :=
  s.trip || s.owedT &&& ~~~s.readyT != 0 || s.owedM &&& ~~~s.readyM != 0

/-- A bound context c at the start of a cycle: its residency counts and the registers that hardware changes are as they
then read (R156), unless its cluster stands still. -/
def State.nextCycle (s : State) (c : Nat) (x : Ctx) : Ctx :=
  if !x.bound then x
  else if s.clocked (clusterOf (c / 16)) then
    { x with regs := { x.regs with rescyc := x.regs.rescyc + 1 }
             seen := hardwareChanged.map fun n => (n, specialNow { s with me := c } n) }
  else x.standStill

/-- The next cycle (log 5): 9 cycles to 4 reference ticks. A walk's starting point moves on in every cycle of
its cluster, from 0 at reset (R25, R365, log 47). A module whose clocks stand counts ticks alone (R366). -/
def State.tick (s : State) : State :=
  if s.stands then
    let s := { s with time := s.time + 1, agenda := s.again, again := [], turn := [], notes := [] }
    { s with agenda := s.agenda ++ duePorts s }
  else
    let ended (k : Nat) : Bool := s.clocked k
    let ticked := decide (9 ≤ s.phase + 4)
    let s := { s with
      cycle := s.cycle + 1
      time := if ticked then s.time + 1 else s.time
      phase := (s.phase + 4) % 9
      taken := []
      rates := s.levels
      first := s.first + 1
      owedT := 0
      owedM := 0 }.countMissed
    let s := { s with ctxs := s.ctxs.map fun (p : Nat × Ctx) => (p.1, s.nextCycle p.1 p.2) }
    { s with
      agenda := happenings s ticked ended ++ s.again
      again := []
      turn := s.tiles.flatMap (walkTile s)
      notes := s.notes.filter fun n => (Tab.get ({} : Trace) s.trace (clusterOf n.tile)).ctl.toNat % 4 != 0 }

end Sys2Proof.Machine
end

