-- ==== Sys2Proof/Machine/Control.lean ====
section
/-!
DEFINITION. Transfers, loops, FORK, JOIN, gates (spec/14), TLWAIT (R100), HALT, YIELD, SVC, TRAPRET and
stream deadlock (R292, R323, R333).
-/

namespace Sys2Proof.Machine

/-- What a handler may not issue raises double fault (R325); the condition reported in the record is double
fault itself (log 21). -/
def notInHandler (s : State) : Except Stop Unit := check (s.cx.trap.handler = true) (s.fault 0x2E)

/-- The privilege check of R50. -/
def privileged (s : State) : Except Stop Unit := check (s.cx.priv = false) (s.fault 0x03)

/-- The wait for a timeline (R100). -/
def waitTimeline (s : State) (tl n : Nat) : Out :=
  s.finish (if (s.cx.timeline tl).completed < n then .error (.hold (.timeline tl n)) else .ok s)

/-- TLWAIT with a count (R100). -/
def execTlwaitImm (tl : BitVec 6) (n : BitVec 31) (s : State) : Out := waitTimeline s tl.toNat n.toNat
/-- TLWAIT with a scalar (R100). -/
def execTlwaitReg (tl : BitVec 6) (sa : SReg) (s : State) : Out := waitTimeline s tl.toNat (s.rs sa).toNat

/-! Transfers (R279-R281). -/

/-- An indirect transfer (R279), with its trace event (R347). -/
def State.jumpTo (s : State) (event : Nat) (target : Word) : Except Stop State :=
  if target.toNat % 8 ≠ 0 then .error (s.fault 0x07) else .ok ((s.jump target).note s.me event (s.me % 16))

/-- BR (R280). -/
def execBr (off : BitVec 31) (s : State) : Out := .next (s.jump (s.relative off.toInt))

/-- BR.IND (R280). -/
def execBrInd (sa : SReg) (s : State) : Out := s.finish (s.jumpTo 5 (s.rs sa))

/-- CALL (R280). -/
def execCall (sd : SReg) (off : BitVec 31) (s : State) : Out :=
  .next ((s.exposeS 1 sd s.npc).jump (s.relative off.toInt))

/-- CALL.IND (R280). -/
def execCallInd (sd sa : SReg) (s : State) : Out :=
  s.finish ((s.exposeS 1 sd s.npc).jumpTo 5 (s.rs sa))

/-- RET (R280). -/
def execRet (sa : SReg) (s : State) : Out := s.finish (s.jumpTo 6 (s.rs sa))

/-- A transfer on a condition (R281). -/
def State.jumpIf (s : State) (b : Bool) (off : BitVec 31) : State :=
  if b then s.jump (s.relative off.toInt) else s

/-- BRP.ANY (R281). -/
def execBrpAny (pn : PReg) (cnt : BitVec 6) (off : BitVec 31) (s : State) : Out :=
  .next (s.jumpIf (testAny s.cx pn.toNat (cnt.toNat + 1)) off)

/-- BRP.ALL (R281). -/
def execBrpAll (pn : PReg) (cnt : BitVec 6) (off : BitVec 31) (s : State) : Out :=
  .next (s.jumpIf (testAll s.cx pn.toNat (cnt.toNat + 1)) off)

/-- BRP.NONE (R281). -/
def execBrpNone (pn : PReg) (cnt : BitVec 6) (off : BitVec 31) (s : State) : Out :=
  .next (s.jumpIf (!testAny s.cx pn.toNat (cnt.toNat + 1)) off)

/-! Loops (R282-R284). -/

/-- Whether a new level nests in the innermost one (R282). -/
def nests (ls : List LoopLevel) (start last : Word) : Bool :=
  match ls.getLast? with
  | none => true
  | some l => decide (ls.length < 4) && l.inside start && l.inside last && decide (bufOff last < bufOff l.last)

/-- LOOP of a body of `len` bundles and `n` passes (R282): the depth is looked at before the walk. The body goes to the
loop buffer (R285). -/
def openLoop (s : State) (len n id : Nat) : Except Stop State :=
  if s.stream.loops.length = 4 ∧ n ≠ 0 then .error (s.fault 0x1D)
  else match walkBody s s.who s.stream.loops len s.npc with
  | .error f => .error (s.mfault f)
  | .ok (ws, last) =>
    if n = 0 then .ok (s.jump (pcAdd s.npc ws.length))
    else if nests s.stream.loops s.npc last then
      .ok (s.upStream fun t => { t with
        loops := t.loops ++ [⟨s.npc, last, word n, word n, id, ws.map word, pcAdd s.npc ws.length⟩], checkStop := true })
    else .error (s.fault 0x1D)

/-- LOOP with a scalar count (R282). -/
def execLoopReg (len : BitVec 6) (sa : SReg) (id : BitVec 6) (s : State) : Out :=
  s.finish (openLoop s (len.toNat + 1) (s.rs sa).toNat id.toNat)

/-- LOOP with an immediate count (R282). -/
def execLoopImm (len id : BitVec 6) (count : BitVec 13) (s : State) : Out :=
  s.finish (openLoop s (len.toNat + 1) count.toNat id.toNat)

/-- LBRK (R284). -/
def execLbrk (s : State) : Out :=
  s.finish <| match s.stream.loops.getLast? with
  | none => .error (s.fault 0x1D)
  | some l => .ok ((s.upStream fun t => { t with loops := t.loops.dropLast }).jump l.after)

/-! Forks (R165, R288, R289). -/

/-- Two groups of a port record share a grant (R165): scalars, predicates, addresses, masks, operand file,
rows, and the rotating row base. Pad and reserved bits are not compared, nor are gates. -/
def portsClash (p : List Byte) (g h : Nat) : Bool :=
  let at_ (g i : Nat) : Byte := p.getD (64 * g + i) 0
  let both (i : Nat) (m : Byte) : Bool := at_ g i &&& at_ h i &&& m != 0
  (List.range 8).any (both · 0xFF) || (List.range 4).any (fun i => both (8 + i) 0xFF) ||
  both 14 0xFF || both 15 0xFF || both 16 0xFE || both 17 0x01 || both 18 0xFF || both 19 0xFF ||
  (List.range 8).any fun i => both (24 + i) 0xFF

/-- The port check of FORK (R165). -/
def forkPorts (x : Ctx) (n : Nat) : Bool :=
  match x.ports with
  | none => false
  | some p => (List.range n).all fun g => (List.range g).all fun h => !portsClash p g h

/-- FORK (R288). -/
def execFork (map : BitVec 16) (o1 o2 o3 : BitVec 14) (s : State) : Out :=
  s.finish do
    notInHandler s
    check (s.cx.forked = true) (s.fault 0x1E)
    let n := mapGroups map
    if n = 1 then .ok s
    else
      check (forkPorts s.cx n = false) (s.fault 0x06)
      let starts := [s.relative o1.toInt, s.relative o2.toInt, s.relative o3.toInt]
      let s := s.advance
      let s := s.up fun x => { x with
        streams := x.streams.take 1 ++ (starts.take (n - 1)).map fun a => { pc := a }, map := map }
      .ok { s.note s.me 3 (s.me % 16 + (n - 1) * 16) with status := .moved }

/-- JOIN (R289): the last one gathers the strand, which issues in the next cycle. -/
def execJoin (mask : BitVec 4) (s : State) : Out :=
  s.finish do
    notInHandler s
    let n := s.cx.streams.length
    check (s.cx.forked = false) (s.fault 0x1E)
    check (mask.toNat ≠ 2 ^ n - 1) (s.fault 0x1F)
    let s := if s.grp = 0 then s.advance else s.upStream fun t => { t with pc := s.npc, loops := [] }
    let s := s.upStream fun t => { t with joined := true }
    let s := if s.cx.streams.all (·.joined) then
        { (s.up fun x => { x with streams := (x.streams.take 1).map fun t => { t with joined := false } }).note
          s.me 4 (s.me % 16 + (n - 1) * 16) with turn := dropTurns s.me s.turn }
      else s
    .ok { s with status := .moved }

/-! Gates (R290, R291). -/

/-- A gate written, and the stalls that its change ends (R290, R342). -/
def State.setGate (s : State) (g : GReg) (v : Bool) : State :=
  s.up fun x => (x.setG g.toNat v).wake (fun h => match h with
    | .gate k n => x.g g.toNat != v && n == g.toNat && (k == 2) != v
    | _ => false) s.agent.id

/-- GPOST (R290): a release, so that earlier stores of the stream have performed (R272). -/
def execGpost (g : GReg) (s : State) : Out :=
  s.finish do
    check (s.cx.g g.toNat = true) (.hold (.gate 2 g.toNat))
    s.afterStores 0xFFFF
    .ok (s.setGate g true)

/-- GTAKE (R290). -/
def execGtake (g : GReg) (s : State) : Out :=
  s.finish do
    check (s.cx.g g.toNat = false) (.hold (.gate 1 g.toNat))
    .ok (s.setGate g false)

/-- GWAIT (R290). -/
def execGwait (g : GReg) (s : State) : Out :=
  s.finish do
    check (s.cx.g g.toNat = false) (.hold (.gate 0 g.toNat))
    .ok s

/-- GCLR (R290). -/
def execGclr (g : GReg) (s : State) : Out := .next (s.setGate g false)

/-- Whether a stall on a gate still lasts. -/
def gateBlocks (x : Ctx) : Hold → Bool
  | .gate k g => x.g g == (k == 2)
  | _ => false

/-- STREAM_DEADLOCK (R292). -/
def execStreamDeadlock (c : Nat) (s : State) : Out :=
  let x := s.ctx c
  let stuck (t : Stream) : Bool := match t.wait with
    | some w => gateBlocks x w.hold
    | none => false
  .next <|
    if x.bound && !x.trap.stopped && !x.freeze && x.trapping.isNone &&
        x.streams.all (fun t => t.joined || stuck t) then
      match x.streams.findIdx? fun t => !t.joined && stuck t with
      | some g => s.trapTo c g { origin := 0, cond := 0x20, async := true }
      | none => s
    else s

/-! Ends of a chunk, service calls, returns. -/

/-- HALT (R287): its bundle issues, and the strand leaves once its engines are done. -/
def execHalt (s : State) : Out :=
  s.finish do
    notInHandler s
    check (s.cx.forked = true) (s.fault 0x1E)
    check (s.cx.stRows ≠ s.cx.eng.stData.length) (s.fault 0x1C)
    .ok { s.upStream fun t => { t with leave := some .halt } with status := .moved }

/-- YIELD (R310). -/
def execYield (s : State) : Out :=
  s.finish do
    notInHandler s
    check (s.cx.forked = true) (s.fault 0x1E)
    let e := s.cx.eng
    check (!(e.ldCmds.isEmpty && e.ldRows.isEmpty && e.stCmds.isEmpty && e.stData.isEmpty)) (s.fault 0x1C)
    .ok { s.upStream fun t => { t with leave := some .yield } with status := .moved }

/-- An entry of the walk put after the streams of a context that are still to be looked at (R202, R323). -/
def putAfter (c : Nat) (t : Turn) : List Turn → List Turn
  | [] => [t]
  | u :: r => if u.streamOf c then u :: putAfter c t r else t :: u :: r

/-- SVC (R323, R333): the trap of a bundle that issues. In a forked strand it is taken once the other streams have
had their turns of the cycle. -/
def execSvc (code : BitVec 13) (s : State) : Out :=
  s.finish do
    let t : Trap := { origin := 0, cond := 0x26, info := word code.toNat, slot := some 0 }
    .ok (if s.cx.forked then { s with turn := putAfter s.me (.service s.me s.grp t) s.turn }
         else s.advance.trapHere t)

/-- The body of a level fetched from an address to its last bundle. -/
def fetchBody (s : State) (w : Who) (last : Word) : Nat → Word → Option (List Word)
  | 0, _ => none
  | n + 1, a => match fetchBundle s w [] a with
    | .error _ => none
    | .ok vs => if a = last then some (vs.map word) else (fetchBody s w last n (pcAdd a vs.length)).map (vs.map word ++ ·)

/-- The levels of a stream with their loop buffers: those that hold one keep it (R275, R285). A level that a handler
has put into the frame is fetched; where its body cannot be fetched it is left without a buffer, its bundles are then
fetched one by one, and it ends after the bundle at `last`, or a syllable after it (log 19). -/
def refill (s : State) (w : Who) (ls : List LoopLevel) : List LoopLevel :=
  ls.map fun l =>
    if l.body ≠ [] then l
    else match fetchBody s w l.last 64 l.start with
      | some b => { l with body := b, after := pcAdd l.start b.length }
      | none => { l with after := pcAdd l.last (match fetchBundle s w [] l.last with
          | .ok vs => vs.length
          | .error _ => 1) }

/-- The levels of every stream of a context given their loop buffers. -/
def State.refillAll (s : State) (c : Nat) : State :=
  s.onCtx c fun x => { x with streams := x.streams.map fun t => { t with loops := refill s x.bind.who t.loops } }

/-- A context resumes from its trap frame (R327, R333): streams in the cycle after this one. -/
def State.resumeTrap (s : State) (c : Nat) : Except MFault State :=
  match readFrame s (s.ctx c) with
  | .error f => .error f
  | .ok f =>
    let x := (((s.ctx c).fromFrame f).replayFrom (s.cycle + 1)).resumeEngines s.mem
    .ok ((s.setCtx c x).refillAll c)

/-- TRAPRET (R333). A frame that cannot be read is a save-area failure (R334, log 22). -/
def execTrapret (s : State) : Out :=
  s.finish do
    privileged s
    check (s.cx.trap.handler = false) (s.fault 0x2A)
    match s.resumeTrap s.me with
    | .error _ => .ok { s.tearDown s.me (0x2C + 2 ^ 11) with status := .moved }
    | .ok s => .ok { s with status := .moved }

end Sys2Proof.Machine
end

