-- ==== Sys2Proof/Machine/Save.lean ====
section
/-!
DEFINITION. Dealing (R303), binding, saving and restoring contexts (R304, R305, R310, R328-R333), HALT and
YIELD once the engines are done, TINV (R82, R98, R277). The parts of the save area whose layout the manual
gives are written to memory and read back; of the other parts memory gets free values, and what they stand for is
kept whole in `State.images`, found again by those values wherever they stand (log 11).
-/

namespace Sys2Proof.Machine

/-! Bind records (R304). -/

/-- The name of a queue in `State.runs`: launch and backfill queues with their die. -/
def runQueue (q die : Nat) : Nat := if q < 256 then q else q + 1024 * die

/-- The requester that a bind record describes for slot c (R304, R120). An allotment that reaches past its scratchpad ends
there: `checkAccess` sees to it (log 47). -/
def recordWho (s : State) (c r : Nat) : Who :=
  let mode := s.poolOf (c / 16)
  { ctx := c, team := bitsOf r 791 776, peer := bitsOf r 807 792, tile := c / 16,
    usBase := c % 16 * shareSize mode, usSize := shareSize mode,
    csBase := bitsOf r 711 696 * 4096, csSize := bitsOf r 695 680 * 4096,
    dsBase := bitsOf r 679 664 * 4096, dsSize := bitsOf r 663 648 * 4096,
    btChan := bitsOf r 775 768, btAddr := bitsOf r 767 728 * 4096, btCount := bitsOf r 727 712 + 1 }

/-- A count rounded up to its granule (R299). -/
def roundUp (n g : Nat) : Nat := ceilDiv n g * g

/-- The bind image that a record gives, with the counts of a kernel header (R298, R304). -/
def recordBind (s : State) (c r header uid : Nat) : Bind :=
  { who := recordWho s c r, conts := word (bitsOf r 887 824), ccount := bitsOf r 823 808,
    save := word (bitsOf r 951 888), level := bitsOf r 647 644,
    queue := runQueue (bitsOf r 1009 1000) (dieOf (c / 16)), card := bitsOf r 999 952,
    priv := bitOf r 641, pool := s.poolOf (c / 16), rows := roundUp (bitsOf header 10 0) 16,
    scalars := min 56 (roundUp (bitsOf header 23 18) 8), scratch := roundUp (bitsOf header 95 64) 4096, uid := uid }

/-- The outcome of an action in the slot table: status written, go cleared (R305). -/
def State.actionDone (s : State) (c r status : Nat) : State :=
  { s with slotTab := Tab.set s.slotTab c (BitVec.ofNat 1024 (setBits (setBits r 637 637 0) 636 632 status)) }

/-- A record that every action refuses: a reserved field, or a queue that is none (R304, R305). -/
def recordBad (r : Nat) : Bool :=
  let q := bitsOf r 1009 1000
  (reservedField r [(631, 0), (1023, 1010)]).isSome || !(decide (q < 0x10E) || q == 0x1FF)

/-- The refusals common to bind and restore (R305, R362), in the order of log 23. -/
def slotRefusal (s : State) (c r : Nat) : Option Nat :=
  if recordBad r then some 8
  else if ¬s.readyT.getLsbD (c / 16) then some 9
  else if poolSlots (s.poolOf (c / 16)) ≤ c % 16 then some 2
  else if (s.ctx c).bound then some 3
  else none

/-- The whole share of a requester takes bytes, 0 beyond them, as a write that its watches and flag waits see (R126,
R341). -/
def State.fillShare (s : State) (w : Who) (bs : List Byte) : State :=
  let lo := keyOf (spaceUnit w.tile) w.usBase
  let m := s.mem.filter fun p => !(decide (lo ≤ p.1) && decide (p.1 < lo + w.usSize))
  let g := dispatchAgent (dieOf w.tile)
  noteFlags (noteWatches { s with mem := memPutAll m (keysFrom lo bs.length) bs } g w.team w.tile
    (addrOf (0xFE00 + w.tile) w.usBase) w.usSize) g (keysFrom lo w.usSize)

/-- A share whose previous holder was of another team is zeroed (R305). -/
def State.zeroShare (s : State) (c : Nat) (w : Who) : State :=
  let us := shareUnits (s.poolOf w.tile) c
  let foreign := us.any fun u => match Tab.find? s.holder u with
    | some t => t != w.team
    | none => false
  if foreign then { s.fillShare w [] with holder := us.foldl (fun h u => Tab.set h u w.team) s.holder }
  else s

/-- A team that has no context bound, and none before: its invalidation counts begin at 0 (R278). -/
def State.firstBind (s : State) (team : Nat) : State :=
  if s.known.contains team then s else { s with known := team :: s.known, inv := Tab.set s.inv team 0 }

/-- What firmware's record says of a team is what the device holds for it (R304, R312). An access that acts for the
team without a tile (a card's future, a credit, a queue's ring) has no shared scratchpad of its own: indices 0xFFFD to
0xFFFF are out of bounds for it (log 47). -/
def State.noteTeam (s : State) (b : Bind) : State :=
  let t : TeamRec := {
     who := { b.who with tile := 128, ctx := 4096, usBase := 0, usSize := 0, csBase := 0, csSize := 0, dsBase := 0,
                         dsSize := 0 },
     conts := b.conts, ccount := b.ccount, hasConts := true }
  { s.firstBind b.who.team with teams := Tab.set s.teams b.who.team t }

/-! Dealing (R303). -/

/-- The next chunk of a run dealt to a bound context: CURSOR and ARGPTR (R154, R303). -/
def State.deal (s : State) (c : Nat) (r : Run) : State :=
  let k := cardNum r.card
  let strands := (r.strands.filter fun u => (s.byUid u).isSome).length
  let n := chunkSize (cardCount k - r.dealt) (cardCmin k) (cardCmax k) strands
  let s := s.setRun { r with dealt := r.dealt + n }
  s.onCtx c fun x => { x with regs := { x.regs with
    cursor := word (n * 2 ^ 32 + r.dealt), argptr := addrAdd (cardArgs k) (r.dealt * cardRsize k : Nat) } }

/-- The reserved fields of a job card and of a kernel header (R297, R298). -/
def headerReserved : List (Nat × Nat) := [(15, 11), (63, 24), (511, 160)]

/-- The position of the next card of a job queue: one that a teardown has discarded is passed over (R302). -/
def nextPos : Nat → List Nat → Nat → Nat
  | 0, _, p => p
  | n + 1, v, p => if v.contains p then nextPos n v (p + 1) else p
def JobQ.front (j : JobQ) : Nat := nextPos j.void.length j.void j.head

/-- The card at a position of a queue taken by dispatch (R300-R302, R309), as a run with nothing dealt. A card of a
ring with a reserved field that is not zero is not taken (R102). -/
def State.takeCard (s : State) (q die pos : Nat) : Option (State × Run) :=
  if q < 256 then
    let j := Tab.get ({} : JobQ) s.jobqs q
    let d := j.desc.toNat
    let cadence := bitsOf d 223 192 ≠ 0
    let t := Tab.get ({ who := {} } : TeamRec) s.teams (bitsOf d 127 112)
    let w := { t.who with team := bitsOf d 127 112 }
    if bitOf d 100 ∧ pos = j.front ∧ j.front < j.tail ∧ (cadence → 0 < j.ready) then
      match readMem s w (addrAdd (word (bitsOf d 63 0)) (128 * (pos % 2 ^ bitsOf d 107 104) : Nat)) 128 with
      | .error _ => none
      | .ok card =>
        if (reservedField (cardNum card) cardReserved).isSome then none
        else some ({ s with
            jobqs := Tab.set s.jobqs q { j with head := pos + 1, ages := Tab.del j.ages pos, since := Tab.del j.since pos,
                                                void := j.void.filter (fun p => decide (pos < p)),
                                                ready := if cadence then j.ready - 1 else j.ready },
            served := Tab.set s.served (bitsOf d 111 108 + Tab.get 0 j.ages pos) q },
          { queue := q, pos := pos, card := card, team := w.team, peer := w.peer, who := w })
    else none
  else
    let k := die * 16 + (if q = 0x1FF then 14 else q - 0x100)
    let lq := Tab.get ({} : LaunchQ) s.launch k
    match lq.cards.find? (·.pos == pos) with
    | none => none
    | some e =>
      let t := Tab.get ({ who := {} } : TeamRec) s.teams e.team
      some ({ s with
          launch := Tab.set s.launch k { lq with
            cards := lq.cards.filter (·.pos != pos), ages := Tab.del lq.ages pos, since := Tab.del lq.since pos },
          served := Tab.set s.served ((if q = 0x1FF then 14 else q - 0x100) + Tab.get 0 lq.ages pos) (runQueue q die) },
        { queue := runQueue q die, pos := pos, card := e.card, team := e.team, peer := e.peer,
          who := { t.who with team := e.team, peer := e.peer }, recs := e.recs })

/-- The run that a bind record names: one under way, or the card taken now. -/
def State.findRun (s : State) (q die pos : Nat) : Option (State × Run) :=
  match s.run? (runQueue q die) pos with
  | some r => some (s, r)
  | none => match s.takeCard q die pos with
    | some (s, r) => some ({ s with runs := s.runs ++ [r] }, r)
    | none => none

/-- The port record of a kernel (R164, log 12): absent, or refused for a reserved field. -/
def State.portRecord (s : State) (header : Word) (team : Nat) : Option (List Byte) :=
  Tab.find? s.portRecs (team * 2 ^ 64 + header.toNat)

/-- Reserved fields of a port record (R164). -/
def portsReserved (p : List Byte) : Bool :=
  (List.range 4).any fun g =>
    (p.getD (64 * g + 17) 0).toNat / 2 != 0 || ((p.drop (64 * g + 32)).take 32).any (· != 0)

/-- TVEC as the save-area header loads it (R322). -/
def vectorOf (v : Nat) : Word := word (bitsOf v 63 0 / 8 * 8 + v % 2)

/-- BIND_NEW (R305): the first-bind state (R152) and the first chunk (R303). -/
def execBindNew (c : Nat) (record : BitVec 1024) (s : State) : Out :=
  let r := record.toNat
  .next <|
    match slotRefusal s c r with
    | some k => s.actionDone c r k
    | none =>
    if bitsOf r 643 642 = 0 then s.actionDone c r 4
    else match s.findRun (bitsOf r 1009 1000) (dieOf (c / 16)) (bitsOf r 999 952) with
    | none => s.actionDone c r 6
    | some (t, run) =>
      let k := cardNum run.card
      let w := recordWho s c r
      if cardCount k ≤ run.dealt then s.actionDone c r 6
      else if (reservedField k cardReserved).isSome then s.actionDone c r 8
      else match readNum s w (cardHeader k) 64, readNum s w (word (bitsOf r 951 888)) 8 with
      | .ok header, .ok vec =>
        let ports := s.portRecord (cardHeader k) run.team
        if (reservedField header headerReserved).isSome ∨ (ports.map portsReserved).getD false then s.actionDone c r 8
        else
          let b := { recordBind s c r header s.uid with entry := cardEntry k }
          let x : Ctx := { bound := true, bind := b, xchk := bitOf r 640, ports := ports,
                           regs := { nver := bitsOf r 643 642 }, trap := { tvec := vectorOf vec },
                           streams := [{ pc := cardEntry k }], issued := s.cycle, since := s.ticks, rnd := ⟨0, s.cycle⟩ }
          let t := { t.noteTeam b with uid := s.uid + 1 }
          let run := { run with strands := run.strands ++ [s.uid] }
          let t := (((t.setRun run).zeroShare c w).setCtx c x).deal c run
          (t.note c 7 (c % 16)).actionDone c r 1
      | _, _ => s.actionDone c r 5

/-! Saving (R328-R331). -/

/-- Whether a context's engines stand where a save may take them (R331): copy commands complete, stopped or
waiting for a slot (R251), routes complete or waiting for a row in the replay buffer (log 20), no result on its way but the tokens of stopped commands. -/
def Ctx.settled (x : Ctx) : Bool :=
  let tokens := x.eng.queues.flatMap fun q => q.map fun k => Dest.scalar k.token
  x.eng.exits == 0 && x.eng.routes.all (fun r => r.done || !x.writtenTo r.after) && x.pend.isEmpty &&
  x.eng.queues.all (fun q => match q with
    | [] => true
    | k :: _ => k.stopped || (k.kind == .kvgath && k.stage == 1)) &&
  x.board.all (fun b => b.value.isSome || tokens.contains b.dest)

/-- The streams of a context are asked to stop for a freeze, by a CTXSAVE of another context or by the device (R331). -/
def State.freezeStart (s : State) (c : Nat) (by_ : Option Nat) : State :=
  if (s.ctx c).freeze || (s.ctx c).freezeAsk then s
  else s.onCtx c fun x => { x with freezeAsk := true, freezer := by_ }

/-- They stop, in the first cycle in which none of them issues: results in flight go to the replay buffer (R331). -/
def State.freezeNow (s : State) (c : Nat) : State :=
  let x := s.ctx c
  if x.bound && x.freezeAsk then
    let s := (s.endWaits c 1).capture c
    { s.onCtx c fun x => { x with freezeAsk := false, freeze := true } with turn := dropTurns c s.turn }
  else s

/-- A tag and 256 bytes as a 272-byte entry (R328). -/
def rowEntry (r : Row) : List Byte := toBytes 16 r.tag.code ++ toBytes 256 r.data.toNat

/-- A store-data entry as 272 bytes: one that is taken and has not landed is marked above its tag (R328, log 11). -/
def StData.saved (d : StData) : List Byte :=
  toBytes 16 (d.tag.code + (if d.full then 0 else 16)) ++ toBytes 256 d.data.toNat

/-- It is read back. -/
def StData.loaded (d : StData) (bs : List Byte) : StData :=
  let h := ofBytes (bs.take 16)
  { d with tag := Tag.ofCode (h % 16), full := !bitOf h 4, data := BitVec.ofNat 2048 (ofBytes (bs.drop 16)) }

/-- Kind and index of a replay entry (R326). -/
def Dest.kind : Dest → Nat × Nat
  | .scalar n => (0, n) | .addr n => (1, n) | .pred n => (2, n) | .mask n => (3, n) | .row r => (4, r)
  | .oper n => (5, n) | .special n => (6, n) | .stq n => (7, n) | .tileType t => (8, t)

/-- A register from kind and index. -/
def Dest.ofKind (k n : Nat) : Dest :=
  match k with
  | 0 => .scalar n | 1 => .addr n | 2 => .pred n | 3 => .mask n | 4 => .row n | 5 => .oper n | 6 => .special n
  | _ => .stq n

/-- A replay entry in its 272 bytes (R326). A masked row carries its mask nowhere in the manual's layout; the
image keeps it (log 11). -/
def Pend.entry (e : Pend) (seq : Nat) : List Byte :=
  let (k, n) := e.dest.kind
  toBytes 16 (seq % 2 ^ 64 * 2 ^ 64 + k * 2 ^ 60 + e.due % 32 * 2 ^ 55 + e.group % 4 * 2 ^ 53 + e.slot % 8 * 2 ^ 50 +
    (if e.latch then 2 ^ 49 else 0) + e.ind.toNat * 2 ^ 44 + e.tag.code * 2 ^ 40 + n % 4096) ++ toBytes 256 e.data

/-- A replay entry read back; its mask comes from the image, and so does a store-data row's entry, of which the manual
keeps the low 12 bits. -/
def Pend.ofEntry (bs : List Byte) (old : Pend) : Pend :=
  let h := ofBytes (bs.take 16)
  let d := Dest.ofKind (bitsOf h 63 60) (bitsOf h 11 0)
  let same : Bool := bitsOf h 63 60 == 7 && old.dest.kind.1 == 7 && old.dest.kind.2 % 4096 == bitsOf h 11 0
  { old with dest := if same then old.dest else d, due := bitsOf h 59 55, group := bitsOf h 54 53,
             slot := bitsOf h 52 50, latch := bitOf h 49, ind := BitVec.ofNat 5 (bitsOf h 48 44),
             tag := Tag.ofCode (bitsOf h 43 40), data := ofBytes (bs.drop 16) }

/-- Two tags to a byte. -/
def packTags : List Tag → List Byte
  | a :: b :: r => BitVec.ofNat 8 (a.code + 16 * b.code) :: packTags r
  | [a] => [BitVec.ofNat 8 a.code]
  | [] => []

/-- Tags from bytes. A reserved code reads as EMPTY, and a tile's type is not checked: the manual does not say what a
restore makes of them (R134; log 11). -/
def unpackTags (bs : List Byte) : List Tag :=
  bs.flatMap fun b => [Tag.ofCode (b.toNat % 16), Tag.ofCode (b.toNat / 16)]

/-- What a freeze save declares (R299): rows, scalars beyond s7, and unit-share bytes. Undeclared ones read as
at first bind. -/
def Ctx.declared (x : Ctx) : Ctx :=
  { x with regs := { x.regs with
      s := x.regs.s.filter fun p => decide (p.1 < 8 + x.bind.scalars),
      rows := x.regs.rows.filter fun p => decide (p.1 < x.bind.rows) } }

/-- The sections of a freeze save whose layout the manual gives, as offset and bytes (R328): trap frame, scalars, port
table, load-data rows and store-data entries, replay buffer, operand file and latches, tags and tile types, rows,
share. -/
def freezeParts (x : Ctx) (frame share : List Byte) : List (Nat × List Byte) :=
  [(0x200, frame),
   (0x600, (List.range (8 + x.bind.scalars)).flatMap fun i => toBytes 8 (x.s i).toNat),
   (0x1000, x.ports.getD (List.replicate 256 0)),
   (0x2300, x.eng.ldRows.flatMap rowEntry),
   (0x6700, x.eng.stData.flatMap StData.saved),
   (0x10900, (x.trap.replay.zipIdx).flatMap fun (e, i) => e.entry i),
   (0x21900, (List.range 16).flatMap (fun i => rowEntry (x.oper i)) ++ rowEntry x.regs.lat0 ++ rowEntry x.regs.lat1),
   (0x22D00, packTags ((List.range 1024).map fun r => (x.row r).tag) ++
      packTags ((List.range 16).map fun t => x.tileType t)),
   (0x23100, (List.range x.bind.rows).flatMap fun r => toBytes 256 (x.row r).data.toNat),
   (0x63100, share)]

/-- The sections whose bytes the manual leaves open, as offset and length (R328, log 11): control block, matrix
engine, LDQ commands, STQA commands, copy commands. -/
def openParts (x : Ctx) : List (Nat × Nat) :=
  [(0x800, 2048), (0x1100, 2048), (0x1900, 16 * x.eng.ldCmds.length), (0x1B00, 64 * x.eng.stCmds.length),
   (0x8900, 128 * (x.eng.queues.map (·.length)).sum)].filter fun p => p.2 != 0

/-- Where those sections lie. -/
def openKeys (s : State) (w : Who) (base : Word) : List (Nat × Nat) → Except MFault (List (Word × List Nat))
  | [] => .ok []
  | (off, n) :: r =>
    let a := addrAdd base off
    match translate s w a n .write with
    | .error f => .error f
    | .ok ks =>
      if ks.any (keyBad s) then .error ⟨0x11, a, 0⟩
      else match openKeys s w base r with
        | .error f => .error f
        | .ok l => .ok ((a, ks) :: l)

/-- Free values written to those sections. -/
def State.fillOpen (s : State) (g : Agent) (w : Who) (l : List (Word × List Nat)) : State :=
  l.foldl (fun s (a, ks) =>
    { storeKeys s g w a ks ((List.range ks.length).map fun i => Config.freeByte (s.fresh + i)) with
      fresh := s.fresh + ks.length }) s

/-- Whether those sections hold the free values that begin with the n-th (log 11). -/
def holdsFree (s : State) (w : Who) (base : Word) : List (Nat × Nat) → Nat → Bool
  | [], _ => true
  | (off, len) :: r, n =>
    (match readMem s w (addrAdd base off) len with
     | .ok bs => bs == (List.range len).map fun i => Config.freeByte (n + i)
     | .error _ => false) && holdsFree s w base r (n + len)

/-- The freeze save that a save area holds, wherever software has moved it (log 11). -/
def State.imageAt (s : State) (w : Who) (base : Word) : Option (Nat × Ctx) :=
  s.images.find? fun p => holdsFree s w base (openParts p.2) p.1

/-- Parts written one after another. -/
def writeParts (s : State) (g : Agent) (w : Who) (base : Word) : List (Nat × List Byte) → Except MFault State
  | [] => .ok s
  | (off, bs) :: r => match saveMem s g w (addrAdd base off) bs with
    | .error f => .error f
    | .ok t => writeParts t g w base r

/-- Header words 1 to 3 (R329). -/
def headerWords (x : Ctx) (c grade length : Nat) : List Byte :=
  wordsBytes [256 + grade, x.bind.who.team * 2 ^ 16 + c, length]

/-- The parts of a yield save: the header granule and the block (R330). -/
def yieldParts : List (Nat × Nat) := [(0, 32), (0x100, 128)]

/-- The parts of a freeze save of a context (R328). -/
def Ctx.saveParts (x : Ctx) : List (Nat × Nat) :=
  [(0, 32), (0x200, 1024), (0x600, 8 * (8 + x.bind.scalars)), (0x1000, 256), (0x2300, 272 * x.eng.ldRows.length),
   (0x6700, 272 * x.eng.stData.length), (0x10900, 272 * x.trap.replay.length), (0x21900, 18 * 272), (0x22D00, 520),
   (0x23100, 256 * x.bind.rows), (0x63100, x.bind.scratch)] ++ openParts x

/-- The offsets of the 64-byte beats of parts. -/
def beatOffsets (parts : List (Nat × Nat)) : List Nat :=
  parts.flatMap fun p => (List.range (ceilDiv p.2 64)).map fun i => p.1 + 64 * i

/-- One beat of a save or a restore, at an address of the area, charged to the context (R317). -/
def State.chargeAt (s : State) (c : Nat) (w : Who) (a : Word) : State :=
  match translate s w a 1 .read with
  | .ok ks => s.chargeKeys c (spaceUnit (c / 16)) ks
  | .error _ => s

/-- The beats of a save or a restore, 64 bytes each of every part (R317). -/
def State.chargeSave (s : State) (c : Nat) (w : Who) (base : Word) (parts : List (Nat × Nat)) : State :=
  ((beatOffsets parts).map fun off : Nat => addrAdd base off).foldl (·.chargeAt c w ·) s

/-- The total length of parts. -/
def partsLength (ps : List (Nat × List Byte)) : Nat := (ps.map (·.2.length)).foldl (· + ·) 0

/-- The declared bytes of a context's unit share, to be saved (R299); a byte that cannot be read stops the save and
reaches no memory (R86, log 11). -/
def Ctx.shareBytes (x : Ctx) (s : State) : Except MFault (List Byte) :=
  let ks := keysFrom (keyOf (spaceUnit x.bind.who.tile) x.bind.who.usBase) x.bind.scratch
  if ks.any (keyBad s) then .error ⟨0x2C, addrOf 0xFFFF x.bind.who.usBase, 0⟩ else .ok (memGetAll s.mem ks)

/-- A context saved at freeze grade to an area of a requester (R331), with grade 3 for a trap-stopped context
or a running handler. Its slot is not yet freed. -/
def State.saveFreeze (s : State) (c : Nat) (g : Agent) (w : Who) (base : Word) : Except MFault State :=
  let s := s.settle c
  let x := (s.ctx c).declared
  let grade := if x.trap.handler || x.trap.stopped then 3 else 2
  let frame := if grade = 3 then readMem s x.bind.who (x.saveAt 0x200) 1024 else .ok (x.frame x.mode x.streams)
  match frame, x.shareBytes s with
  | .error f, _ => .error f
  | _, .error f => .error f
  | .ok frame, .ok share =>
    let parts := freezeParts x frame share
    let n := partsLength parts + ((openParts x).map (·.2)).sum + 24
    match openKeys s w base (openParts x), writeParts s g w base (parts ++ [(8, headerWords x c grade n)]) with
    | .error f, _ => .error f
    | _, .error f => .error f
    | .ok l, .ok s =>
      let s := s.chargeSave c w base x.saveParts
      let y := { x with regs := { x.regs with enCount := (s.ctx c).regs.enCount, enSat := (s.ctx c).regs.enSat } }
      .ok (({ s with images := Tab.set s.images s.fresh y }.fillOpen g w l).note c 8 (c % 16))

/-- A context saved at yield grade (R330): three beats. -/
def State.saveYield (s : State) (c : Nat) (pc : Word) (g : Agent) (w : Who) (base : Word) : Except MFault State :=
    let s := s.chargeSave c w base yieldParts
    let x := s.ctx c
    let block := wordsBytes ([x.regs.cursor.toNat, x.regs.argptr.toNat, pc.toNat] ++
      (List.range 8).map (fun i => (x.s i).toNat) ++ [x.preds, x.encnt, x.regs.rngK.toNat,
      x.regs.rngC.toNat % 2 ^ 64, x.regs.rngC.toNat / 2 ^ 64])
    match writeParts s g w base [(0x100, block), (8, headerWords x c 1 152)] with
    | .error f => .error f
    | .ok s => .ok ({ s with yields := x :: s.yields }.note c 8 (c % 16))

/-! Restoring (R305, R327, R331). -/

/-- A word of a byte list. -/
def wordAt (bs : List Byte) (i : Nat) : Nat := ofBytes ((bs.drop (8 * i)).take 8)

/-- Row r of a byte list of 256-byte rows under tags. -/
def rowsOf (n : Nat) (tags : List Tag) (bs : List Byte) : List (Nat × Row) :=
  (List.range n).map fun r => (r, ⟨tags.getD r .empty, BitVec.ofNat 2048 (ofBytes ((bs.drop (256 * r)).take 256))⟩)

/-- A 272-byte entry read. -/
def rowAt (bs : List Byte) (i : Nat) : Row :=
  let e := (bs.drop (272 * i)).take 272
  ⟨Tag.ofCode (ofBytes (e.take 16) % 16), BitVec.ofNat 2048 (ofBytes (e.drop 16))⟩

/-- Store-data entries read back. -/
def loadEntries (ds : List StData) (bs : List Byte) : List StData :=
  ds.zipIdx.map fun (d, i) => d.loaded ((bs.drop (272 * i)).take 272)

/-- The freeze save in an area, with what memory now holds of it (log 11). A reserved field of its port table makes the
image invalid (R102, R333). -/
def State.loadFreeze (s : State) (w : Who) (base : Word) : Except MFault (Nat × Ctx) := do
  let at_ (off : Nat) : Word := addrAdd base off
  match s.imageAt w base with
  | none => .error ⟨0x2D, base, 0⟩
  | some (key, x) =>
    let n := 8 + x.bind.scalars
    let sc ← readMem s w (at_ 0x600) (8 * n)
    let ports ← readMem s w (at_ 0x1000) 256
    if portsReserved ports then .error ⟨0x2D, base, 0⟩
    let lds ← readMem s w (at_ 0x2300) (272 * x.eng.ldRows.length)
    let sts ← readMem s w (at_ 0x6700) (272 * x.eng.stData.length)
    let rep ← readMem s w (at_ 0x10900) (272 * x.trap.replay.length)
    let o ← readMem s w (at_ 0x21900) (272 * 18)
    let tags ← readMem s w (at_ 0x22D00) 520
    let rows ← readMem s w (at_ 0x23100) (256 * x.bind.rows)
    let tg := unpackTags tags
    let replay := x.trap.replay.zipIdx.map fun (e, i) => Pend.ofEntry ((rep.drop (272 * i)).take 272) e
    let regs := { x.regs with
      s := (List.range n).tail.map fun i => (i, word (wordAt sc i)),
      o := (List.range 16).map fun i => (i, rowAt o i),
      lat0 := rowAt o 16, lat1 := rowAt o 17,
      types := (List.range 16).map fun t => (t, tg.getD (1024 + t) .fp32),
      rows := rowsOf x.bind.rows tg rows }
    .ok (key, { x with
      ports := x.ports.map fun _ => ports, trap := { x.trap with replay := replay }, regs := regs,
      eng := { x.eng with ldRows := (List.range x.eng.ldRows.length).map (rowAt lds),
                          stData := loadEntries x.eng.stData sts } })

/-- A restored context in its slot, its bind image and share set; results in flight go on (R327), stopped
commands wait for TRAPRET where a trap has been taken for them (R97). -/
def State.place (s : State) (c : Nat) (x : Ctx) (b : Bind) (share : List Byte) : State :=
  let x := { x.forget with
                    bound := true, bind := b, freeze := false, freezeAsk := false, freezer := none, yieldAsk := false,
                    yieldTo := none, issued := s.cycle, since := s.ticks, swaps := [], seen := [], rnd := ⟨0, s.cycle⟩,
                    eng := { x.eng with queues := x.eng.queues.map fun q => q.map fun k => { k with tables := s.mem } } }
  let x := if x.trap.stopped then x else x.replayFrom (s.cycle + 1)
  (((s.fillShare b.who share).setCtx c x).refillAll c).note c 7 (c % 16)

/-- Completions of backfill that came while a context was away (R261). -/
def Ctx.takeSwaps (x : Ctx) (ns : List Nat) : Ctx := ns.foldl (fun x n => x.onTimeline 6 (·.complete n)) x

/-- The bind image of a restored context: the record's, with what the save keeps of the strand. -/
def restoredBind (old new : Bind) : Bind :=
  { new with uid := old.uid, entry := old.entry, rows := old.rows, scalars := old.scalars, scratch := old.scratch,
             queue := old.queue, card := old.card }

/-- A strand's number for a context that comes back: its own, unless that strand stands bound already. -/
def State.uidFor (s : State) (old : Option Nat) : Nat :=
  match old with
  | some u => if (s.byUid u).isSome then s.uid else u
  | none => s.uid

/-- The newest yield save that a header and a yield block describe: the team and slot that saved it and the chunk it
keeps (R329, R330). -/
def State.yieldAt (s : State) (h y : List Byte) : Option Ctx :=
  s.yields.find? fun x => wordAt h 2 == x.bind.who.team * 2 ^ 16 + x.bind.who.ctx &&
    wordAt y 0 == x.regs.cursor.toNat && wordAt y 1 == x.regs.argptr.toNat

/-- What a yield save does not hold of a strand (R330): the entry, header counts and ports of its card's kernel. -/
def State.kernelOf (s : State) (b : Bind) : Bind × Option (List Byte) :=
  match s.run? b.queue b.card with
  | none => (b, none)
  | some r =>
    let k := cardNum r.card
    let h := match readNum s b.who (cardHeader k) 64 with
      | .ok h => h
      | .error _ => 0
    ({ b with entry := cardEntry k, rows := roundUp (bitsOf h 10 0) 16, scalars := min 56 (roundUp (bitsOf h 23 18) 8),
              scratch := roundUp (bitsOf h 95 64) 4096 }, s.portRecord (cardHeader k) r.team)

/-- The registers that a yield block restores; the others hold their first-bind values (R310, R330). -/
def yieldRegs (y : List Byte) (nver : Nat) : Regs :=
  { cursor := word (wordAt y 0), argptr := word (wordAt y 1), nver := nver,
    s := (List.range 8).tail.map fun i => (i, word (wordAt y (3 + i))),
    p := BitVec.ofNat 32 (wordAt y 11), enCount := wordAt y 12 % 2 ^ 48, enSat := bitOf (wordAt y 12) 63,
    rngK := word (wordAt y 13), rngC := BitVec.ofNat 128 (wordAt y 14 + 2 ^ 64 * wordAt y 15) }

/-- A context restored from its save area (R305, R310, R331): grade 1 from the yield block, its header and the record,
grades 2 and 3 from the freeze save. -/
def State.restoreTo (s : State) (c : Nat) (b : Bind) (base : Word) (w : Who) (nver : Nat) (xchk : Bool) :
    Except MFault State := do
  let h ← readMem s w base 32
  let grade := wordAt h 1 % 4
  if bitsOf (wordAt h 1) 15 8 ≠ 1 then .error ⟨0x2D, base, 0⟩
  else if grade = 1 then
    let y ← readMem s w (addrAdd base 0x100) 128
    let old := s.yieldAt h y
    if (old.map fun o => o.bind.pool != b.pool).getD false then .error ⟨0x2D, base, 0⟩
    else
      let uid := s.uidFor (old.map (·.bind.uid))
      let (k, ports) := s.kernelOf b
      let x : Ctx := {
        bound := true, bind := { k with uid := uid }, issued := s.cycle, since := s.ticks, rnd := ⟨0, s.cycle⟩, ports := ports, xchk := xchk,
        trap := { tvec := vectorOf (wordAt h 0) }, streams := [{ pc := word (wordAt y 2) }], regs := yieldRegs y nver }
      let s := { (s.zeroShare c b.who).setCtx c x with uid := max s.uid (uid + 1) }
      .ok ((s.chargeSave c w base yieldParts).note c 7 (c % 16))
  else if grade = 0 then .error ⟨0x2D, base, 0⟩
  else
    let (key, x) ← s.loadFreeze w base
    if x.bind.pool ≠ b.pool then .error ⟨0x2D, base, 0⟩
    else
      let share ← readMem s w (addrAdd base 0x63100) x.bind.scratch
      let x := { x.takeSwaps x.swaps with trap := { x.trap with tvec := vectorOf (wordAt h 0) } }
      let b := { restoredBind x.bind b with uid := s.uidFor (some x.bind.uid) }
      let s := { s with images := s.images.map (fun (p : Nat × Ctx) => if p.1 = key then (p.1, { p.2 with bound := false }) else p),
                        uid := max s.uid (b.uid + 1) }
      .ok ((s.place c x b share).chargeSave c w base x.saveParts)

/-- RESTORE (R305). -/
def execRestore (c : Nat) (record : BitVec 1024) (s : State) : Out :=
  let r := record.toNat
  .next <|
    match slotRefusal s c r with
    | some k => s.actionDone c r k
    | none =>
      let b := recordBind s c r 0 0
      match s.restoreTo c b b.save b.who (bitsOf r 643 642) (bitOf r 640) with
      | .error _ => s.actionDone c r 5
      | .ok t => (t.noteTeam b).actionDone c r 1

/-- A save by dispatch that fails: the strand goes on where the area is not to be had, and is torn down where
it meets an uncorrectable error (R334). -/
def State.saveFails (s : State) (c : Nat) (f : MFault) : State :=
  if f.cond = 0x11 then s.tearDown c (0x2C + 2 ^ 11)
  else { s.onCtx c (·.thaw s.cycle) with turn := dropTurns c s.turn }

/-- While every arithmetic clock stands still for heat no context is saved or torn down: the action is looked at again
afterwards (R366). -/
def State.unlessTripped (s : State) (i : Instr) (t : State) : State :=
  if s.trip then { s with again := s.again ++ [i] } else t

/-- SWAP_OUT (R305, R331): looked at again until the engines have settled. -/
def execSwapOut (c : Nat) (record : BitVec 1024) (s : State) : Out :=
  let r := record.toNat
  .next <| s.unlessTripped (.swapOut c record) <|
    if recordBad r then s.actionDone c r 8
    else if !(s.ctx c).bound then s.actionDone c r 7
    else
      let t := s.freezeStart c none
      let x := t.ctx c
      if !(x.freeze && x.settled) then { t with again := t.again ++ [.swapOut c record] }
      else match t.saveFreeze c (dispatchAgent (dieOf (c / 16))) x.bind.who x.bind.save with
      | .error f => (t.saveFails c f).actionDone c r 5
      | .ok u => (u.release c).actionDone c r 1

/-- FREEZE_REQUEST (R331): the save is written, and the context stays in its slot, stopped, until its record
asks for it to be swapped out or torn down (log 25). -/
def execFreezeRequest (c : Nat) (s : State) : Out :=
  .next <| s.unlessTripped (.freezeRequest c) <|
    if !(s.ctx c).bound then s
    else
      let t := s.freezeStart c none
      let x := t.ctx c
      if !(x.freeze && x.settled) then { t with again := t.again ++ [.freezeRequest c] }
      else match t.saveFreeze c (dispatchAgent (dieOf (c / 16))) x.bind.who x.bind.save with
      | .error f => t.saveFails c f
      | .ok u => u

/-- TEAR_DOWN (R305, R334). -/
def execTearDown (c : Nat) (record : BitVec 1024) (s : State) : Out :=
  let r := record.toNat
  .next <| s.unlessTripped (.tearDown c record) <|
    if recordBad r then s.actionDone c r 8
    else if !(s.ctx c).bound then s.actionDone c r 7
    else (s.tearDown c 0).actionDone c r 1

/-- HANG (R334). -/
def execHang (c : Nat) (s : State) : Out :=
  .next <| s.unlessTripped (.hang c) (if (s.ctx c).bound then s.tearDown c (0x2F + 2 ^ 9) else s)

/-! HALT and YIELD once the engines are done (R28, R287, R310). -/

/-- Whether every copy command, matrix operation and route of a context is complete, no exit record is under
way, and every paired store has performed (R99, R132, R219, R243). -/
def Ctx.drained (x : Ctx) : Bool :=
  x.eng.queues.all (·.isEmpty) && x.eng.ops.isEmpty && x.eng.routes.all (·.done) && x.eng.exits == 0 &&
  x.eng.stCmds.isEmpty && x.eng.stData.isEmpty

/-- The records of a backfill strand's chunk complete (R261). -/
def State.chunkEnds (s : State) (x : Ctx) : State :=
  match s.run? x.bind.queue x.bind.card with
  | none => s
  | some r =>
    if r.recs.isEmpty then s
    else
      let n := x.regs.cursor.toNat / 2 ^ 32
      let i := x.regs.cursor.toNat % 2 ^ 32
      let recs := (r.recs.drop i).take n
      (s.recordsDone recs).freeRecords (r.queue / 1024) recs

/-- The next chunk or the slot (R153, R287, R303). -/
def State.nextChunk (s : State) (c : Nat) : State :=
  let x := s.ctx c
  match s.run? x.bind.queue x.bind.card with
  | some r =>
    if r.dealt < cardCount (cardNum r.card) then
      let s := s.onCtx c fun x => { x with streams := [{ pc := x.bind.entry }], asks := false,
                                           eng := { x.eng with ldCmds := [], ldRows := [] } }
      s.deal c r
    else (s.release c).strandEnds x.bind.queue x.bind.card x.bind.uid false
  | none => s.release c

/-- The strand leaves at HALT: its crews, and its records are complete; then it asks for its next chunk (R287). -/
def State.leaveHalt (s : State) (c : Nat) : State :=
  let s := ((s.leaveAll c).chunkEnds (s.ctx c)).onCtx c fun x => { x with asks := true }
  { s with turn := askTurn c (.chunk c) s.turn }

/-- A strand's request is served, unless it has been torn down since (R303). -/
def State.serveChunk (s : State) (c : Nat) : State :=
  if (s.ctx c).bound && (s.ctx c).asks then s.nextChunk c else s

/-- The streams that stand at a CTXSAVE of context c learn that it has been saved (R333). -/
def State.tellSaver (s : State) (c i : Nat) : State :=
  s.onCtx i fun x => { x with streams := x.streams.map fun t => match t.wait with
    | some ⟨.save d 0 _, _, _, _⟩ => if d = c then { t with saved := true } else t
    | _ => t }

/-- The strand at YIELD: saved, or going on after it (R310). A save by dispatch that meets an uncorrectable error tears
the context down; one that cannot translate its area saves nothing (R334). -/
def State.leaveYield (s : State) (c : Nat) : State :=
  let x := s.ctx c
  let t := x.streams.getD 0 {}
  let next := match fetchBundle s x.bind.who t.loops t.pc with
    | .ok ws => pcAdd t.pc ws.length
    | .error _ => pcAdd t.pc 1
  let goOn (s : State) : State :=
    { s.onCtx c (·.onStream 0 fun t => { t with leave := none }) with npc := next, jumped := false }.advance
  if x.yieldAsk && x.timelineDone 6 && x.eng.crews.isEmpty then
    match x.yieldTo with
    | some (i, base) => match s.saveYield c next (streamAgent i 0) (s.ctx i).bind.who base with
      | .ok u => (u.release c).tellSaver c i
      | .error _ => goOn (s.onCtx c fun x => { x with yieldAsk := false, yieldTo := none })
    | none => match s.saveYield c next (dispatchAgent (dieOf (c / 16))) x.bind.who x.bind.save with
      | .ok u => u.release c
      | .error f =>
        if f.cond = 0x11 then s.tearDown c (0x2C + 2 ^ 11)
        else goOn (s.onCtx c fun x => { x with yieldAsk := false })
  else goOn s

/-! CTXSAVE, CTXLOAD, TINV (R333). -/

/-- The context identifier that a scalar names (R333). -/
def ctxArg (s : State) (sa : SReg) : Except Stop Nat :=
  let v := (s.rs sa).toNat
  if v / 2 ^ 12 ≠ 0 then .error (s.fault 0x2B) else .ok v

/-- CTXSAVE (R333): 0 yield, 1 freeze, 2 trap. A yield save that cannot be written faults here, and its target
goes on. -/
def execCtxsave (sa : SReg) (aa : AReg) (grade : BitVec 2) (s : State) : Out :=
  s.finish do
    privileged s
    if s.stream.saved then .ok (s.upStream fun t => { t with saved := false })
    else
      let c ← ctxArg s sa
      let x := s.ctx c
      let a := s.ra aa
      check (c = s.me ∨ x.bound = false) (s.fault 0x2B)
      let size := if grade = 0 then 0x180 else 0x63100 + x.bind.scratch
      check (a.toNat % 256 ≠ 0) (s.fault 0x2C a)
      match checkRange s s.who a size .write with
      | .error _ => .error (s.fault 0x2C a)
      | .ok () =>
      if grade = 0 then
        match readMem s s.who a size .write with
        | .error _ => .error (s.fault 0x2C a)
        | .ok _ => .error (.hold (.save c grade.toNat a))
      else
        check (grade = 2 ∧ x.trap.stopped = false) (s.fault 0x2B)
        if !(x.freeze && x.settled) then .error (.hold (.save c grade.toNat a))
        else match s.saveFreeze c s.agent s.who a with
        | .error _ => .error (s.fault 0x2C a)
        | .ok t => .ok (t.release c)

/-- What slot c is given with a yield image that this device's saves do not know: a free bind record, of the team
identifier that the header holds (R329, R330, R333; log 11). -/
def State.unknownBind (s : State) (c : Nat) (h y : List Byte) : Ctx :=
  let r := setBits (Config.bindImage (h ++ y)).toNat 791 776 (bitsOf (wordAt h 2) 31 16)
  { bound := true, bind := recordBind s c r 0 0, xchk := bitOf r 640, regs := { nver := 1 + bitsOf r 643 642 % 3 } }

/-- The saved context that an area holds, for its bind image in slot c (R333, log 11). -/
def State.savedAt (s : State) (w : Who) (c : Nat) (a : Word) (h : List Byte) : Except MFault (Option Ctx) :=
  if wordAt h 1 % 4 = 1 then
    (readMem s w (addrAdd a 0x100) 128).map fun y => some ((s.yieldAt h y).getD (s.unknownBind c h y))
  else .ok ((s.imageAt w a).map (·.2))

/-- CTXLOAD (R333). The image's grade must be the one named, and the slot's pool mode that of its strand (R299; log 47). -/
def execCtxload (sa : SReg) (aa : AReg) (grade : BitVec 2) (s : State) : Out :=
  s.finish do
    privileged s
    let c ← ctxArg s sa
    let a := s.ra aa
    check ((s.ctx c).bound = true ∨ 128 ≤ c / 16 ∨ poolSlots (s.poolOf (c / 16)) ≤ c % 16) (s.fault 0x2B)
    match readMem s s.who a 32 with
    | .error f => .error (s.mfault f)
    | .ok h =>
      let g := wordAt h 1 % 4
      check (bitsOf (wordAt h 1) 15 8 ≠ 1 ∨ g ≠ grade.toNat + 1) (s.fault 0x2D a)
      match s.savedAt s.who c a h with
      | .error f => .error (s.mfault f)
      | .ok none => .error (s.fault 0x2D a)
      | .ok (some old) =>
        let mode := s.poolOf (c / 16)
        let w := { old.bind.who with
          ctx := c, tile := c / 16, usBase := c % 16 * shareSize mode, usSize := shareSize mode }
        let b := { old.bind with who := w, pool := mode }
        check (old.bind.pool ≠ mode) (s.fault 0x2D a)
        match s.restoreTo c b a s.who old.regs.nver old.xchk with
        | .error f => .error (if f.cond = 0x2D then s.fault 0x2D a else s.mfault f)
        | .ok t =>
          if grade = 2 then
            match readMem t t.who (addrAdd a 0x200) 1024 with
            | .error f => .error (s.mfault f)
            | .ok f =>
              let ws := (List.range 128).map (wordAt f)
              .ok ((t.onCtx c fun x => ((x.fromFrame ws).replayFrom (t.cycle + 1)).resumeEngines t.mem).refillAll c)
          else .ok t

/-- TINV (R82, R98, R277). Operand fields out of range are illegal encodings of detail 3 (log 26). -/
def execTinv (sa _sb : SReg) (_size : BitVec 2) (s : State) : Out :=
  s.finish do
    privileged s
    let v := (s.rs sa).toNat
    check (v / 2 ^ 32 ≠ 0 ∨ 0xFE00 ≤ v % 2 ^ 16) (s.fault 0x00 (detail := 3))
    .ok (s.invalidate (v / 2 ^ 16 % 2 ^ 16))

/-- FIRMWARE_INVALIDATION (R277): the operands of TINV. -/
def execFirmwareInvalidation (buffer _page : Word) (_size : BitVec 2) (s : State) : Out :=
  .next (s.invalidate (buffer.toNat / 2 ^ 16 % 2 ^ 16))

end Sys2Proof.Machine
end

