-- ==== Sys2Proof/Machine/Sched.lean ====
section
/-!
DEFINITION. Steward firmware and dispatch around the contexts: queue descriptors and tails (R300, R355, R356),
cadence, ageing and quanta (R307-R309), cards without records (R306), notices and agent watches (R332, R341),
static energy (R317).
-/

namespace Sys2Proof.Machine

/-! Queue descriptors and tails. -/

/-- A field of a number. -/
def descField (d hi lo v : Nat) : Nat := setBits d hi lo v

/-- The tail after a host's write of t (R356): none where the write is refused. -/
def JobQ.tailFor (j : JobQ) (t : Nat) : Option Nat :=
  let d := (t + 2 ^ 64 - j.tail % 2 ^ 64) % 2 ^ 64
  if d ≤ 2 ^ bitsOf j.desc.toNat 107 104 - (j.tail - j.head) then some (j.tail + d) else none

/-- Whether a queue is switched in (R355). -/
def JobQ.isIn (j : JobQ) : Bool := bitOf j.desc.toNat 100

/-- The tail moves to v: the cards that it takes in begin to wait (R307). -/
def JobQ.tailTo (j : JobQ) (v now : Nat) : JobQ :=
  { j with tail := v, since := (List.range (v - j.tail)).foldl (fun m i => Tab.set m (j.tail + i) now) j.since }

/-- A write of QTAIL (R356). -/
def JobQ.writeTail (j : JobQ) (t now : Nat) : JobQ :=
  match j.tailFor t with
  | none => { j with error := true }
  | some v => if v = j.tail then j else if j.isIn then j.tailTo v now else { j with shadow := some v }

/-- The shadow tested again at switch-in (R356). -/
def JobQ.takeShadow (j : JobQ) (now : Nat) : JobQ :=
  match j.shadow with
  | none => j
  | some t => match j.tailFor (t % 2 ^ 64) with
    | some v => { j.tailTo v now with shadow := none }
    | none => { j with error := true, shadow := none }

/-- Release times of a cadence queue before now (R309). -/
def releasesBefore (phase period now : Nat) : Nat :=
  if period = 0 ∨ now ≤ phase then 0 else ceilDiv (now - phase) period

/-- A descriptor written by steward firmware (R300, R355): read-only fields stay, and a change of the enabled bit
switches the queue. Release times that are past are not made up for (log 36). -/
def JobQ.describe (j : JobQ) (d now waits : Nat) : JobQ :=
  let old := j.desc.toNat
  let d := descField (descField d 319 288 (bitsOf old 319 288)) 287 256 (bitsOf old 287 256)
  let k := { j with desc := BitVec.ofNat 512 d }
  let k := if bitsOf d 223 128 = bitsOf old 223 128 then k
    else { k with released := releasesBefore (bitsOf d 191 128) (bitsOf d 223 192) now, ready := 0 }
  if !bitOf old 100 && bitOf d 100 then k.takeShadow waits else k

/-- The descriptor of a queue written. One with a reserved field that is not zero is refused, and steward firmware learns
which (R9). -/
def State.describe (s : State) (q : Nat) (d : BitVec 512) : State :=
  match reservedField d.toNat [(103, 101), (511, 320)] with
  | some low => { s with told := s.told ++ [.reserved q low] }
  | none => { s with jobqs := Tab.set s.jobqs q ((Tab.get ({} : JobQ) s.jobqs q).describe d.toNat s.time s.ticks) }

/-- QUEUE_SWITCH_OUT (R355). -/
def execQueueSwitchOut (q : Nat) (s : State) : Out :=
  .next (s.describe q ((Tab.get ({} : JobQ) s.jobqs q).desc &&& ~~~(BitVec.ofNat 512 (2 ^ 100))))

/-- QUEUE_SWITCH_IN (R356): the descriptor with its enabled bit set. -/
def execQueueSwitchIn (q : Nat) (desc : BitVec 512) (s : State) : Out :=
  .next (s.describe q (desc ||| BitVec.ofNat 512 (2 ^ 100)))

/-! Cadence, ageing, quanta. -/

/-- CADENCE_RELEASE (R309): the next release time, once it has come. A queue that is switched out releases
nothing and counts nothing (log 36). -/
def execCadenceRelease (q : Nat) (s : State) : Out :=
  let j := Tab.get ({} : JobQ) s.jobqs q
  let d := j.desc.toNat
  let period := bitsOf d 223 192
  .next <|
    if period = 0 ∨ s.time < bitsOf d 191 128 + j.released * period then s
    else
      let j := { j with released := j.released + 1 }
      let put (j : JobQ) (d : Nat) : State := { s with jobqs := Tab.set s.jobqs q { j with desc := BitVec.ofNat 512 d } }
      if !j.isIn then put j d
      else if j.tail - j.head ≤ j.ready then put j (descField d 319 288 (bitsOf d 319 288 + 1))
      else
        let slots := (s.ctxs.filter fun p => p.2.bound && p.2.bind.queue == q).length
        let d := if slots < bitsOf d 239 224 then d else descField d 287 256 (bitsOf d 287 256 + 1)
        let t := put { j with ready := j.ready + 1 } d
        { t with told := t.told ++ [.release q] }

/-- The waiting cards of a queue that have waited longer than the ageing period, at levels below 13 (R307). -/
def agedCards (s : State) (level : Nat) (ages since : List (Nat × Nat)) (waiting : List Nat) : List Nat :=
  waiting.filter fun p => decide (Tab.get 0 since p + s.agePeriod < s.ticks) && decide (level + Tab.get 0 ages p < 13)

/-- Positions of the waiting cards of a job queue. -/
def JobQ.waiting (j : JobQ) : List Nat := ((List.range (j.tail - j.head)).map (j.head + ·)).filter (!j.void.contains ·)

/-- Level of a queue's cards before ageing. -/
def JobQ.level (j : JobQ) : Nat := bitsOf j.desc.toNat 111 108

/-- The launch queue that a CARD_AGEING names: 1,024 times the die, plus 0x100, plus the level. -/
def launchKey (q : Nat) : Nat := q / 1024 * 16 + (q % 1024 - 0x100)

/-- CARD_AGEING (R307): each card of a queue that has waited longer than the ageing period is served as one level
higher, and waits anew there. -/
def execCardAgeing (q : Nat) (s : State) : Out :=
  .next <|
    let older (ages : List (Nat × Nat)) (ps : List Nat) := ps.foldl (fun m p => Tab.set m p (Tab.get 0 m p + 1)) ages
    let anew (since : List (Nat × Nat)) (ps : List Nat) := ps.foldl (fun m p => Tab.set m p s.ticks) since
    if q < 256 then
      let j := Tab.get ({} : JobQ) s.jobqs q
      let ps := agedCards s j.level j.ages j.since j.waiting
      if ps.isEmpty then s
      else { s with jobqs := Tab.set s.jobqs q { j with ages := older j.ages ps, since := anew j.since ps } }
    else
      let l := Tab.get ({} : LaunchQ) s.launch (launchKey q)
      let ps := agedCards s (launchKey q % 16) l.ages l.since (l.cards.map (·.pos))
      if ps.isEmpty then s
      else { s with launch := Tab.set s.launch (launchKey q) { l with ages := older l.ages ps, since := anew l.since ps } }

/-! The order in which cards are bound (R307). -/

/-- A waiting card that could be bound: its level with ageing, its queue as in `runQueue`, its position, its kernel
header. -/
structure Offer where
  level  : Nat
  queue  : Nat
  pos    : Nat
  header : Nat
  deriving DecidableEq, Repr

/-- The offer of a queue's next card, when the card and its header can be read and check. -/
def State.offer (s : State) (q die pos level : Nat) : List Offer :=
  match s.takeCard q die pos with
  | none => []
  | some (_, r) => match readNum s r.who (cardHeader (cardNum r.card)) 64 with
    | .ok h => [⟨level, r.queue, pos, h⟩]
    | .error _ => []

/-- What the job queues and a die's launch and backfill queues offer. -/
def State.offers (s : State) (die : Nat) : List Offer :=
  s.jobqs.flatMap (fun (q, j) => s.offer q die j.front (j.level + Tab.get 0 j.ages j.front)) ++
  (List.range 15).flatMap fun l =>
    let lq := Tab.get ({} : LaunchQ) s.launch (die * 16 + l)
    match lq.cards with
    | [] => []
    | c :: _ => s.offer (if l = 14 then 0x1FF else 0x100 + l) die c.pos (l + Tab.get 0 lq.ages c.pos)

/-- The card that steward firmware binds next to a slot: of those that suit its pool mode the one of the highest level,
and within a level that of the next queue after the one served last (R307). -/
def State.nextToBind (s : State) (c : Nat) : Option Offer :=
  let suits := (s.offers (dieOf (c / 16))).filter fun o => bitsOf o.header 17 16 == s.poolOf (c / 16)
  let top := (suits.map (·.level)).foldl max 0
  let best := suits.filter (·.level == top)
  let last := Tab.get 0 s.served top
  let least (os : List Offer) : Option Offer := os.foldl (fun m o => match m with
    | none => some o
    | some p => if o.queue < p.queue then some o else some p) none
  (least (best.filter fun o => decide (last < o.queue))).orElse fun _ => least best

/-! Swap groups (R308). -/

/-- Whether two contexts belong to one swap group directly: one team, or a crew in common, of which a fabric crew binds
this device's members (R308). -/
def swapsWith (x y : Ctx) : Bool :=
  x.bind.who.team == y.bind.who.team ||
  x.eng.crews.any fun (m : Member) => y.eng.crews.any fun (n : Member) => n.crew == m.crew

/-- Whether contexts form whole swap groups among the bound ones. -/
def State.wholeGroups (s : State) (ctxs : List Nat) : Bool :=
  let mine := s.bound.filter fun (p : Nat × Ctx) => ctxs.contains p.1
  let rest := s.bound.filter fun (p : Nat × Ctx) => !ctxs.contains p.1
  !mine.any fun (p : Nat × Ctx) => rest.any fun (r : Nat × Ctx) => swapsWith p.2 r.2

/-- Whether a context's quantum has ended (R307). -/
def State.quantumOver (s : State) (x : Ctx) : Bool := decide (x.since + s.quantum ≤ s.ticks)

/-- QUANTUM_EXPIRY (R307, R308): steward firmware swaps out contexts that form whole swap groups, each at the end of its
quantum. -/
def execQuantumExpiry (ctxs : List Nat) (s : State) : Out :=
  .next <|
    let mine := s.bound.filter fun (p : Nat × Ctx) => ctxs.contains p.1
    if !s.wholeGroups ctxs || mine.any fun (p : Nat × Ctx) => !s.quantumOver p.2 then s
    else
      let entry (c : Nat) : BitVec 1024 :=
        BitVec.ofNat 1024 (setBits (setBits (Tab.get 0 s.slotTab c).toNat 639 638 2) 637 637 1)
      { s with slotTab := mine.foldl (fun t (p : Nat × Ctx) => Tab.set t p.1 (entry p.1)) s.slotTab,
               agenda := mine.map (fun (p : Nat × Ctx) => .swapOut p.1 (entry p.1)) ++ s.agenda }

/-- The strands that the device holds, bound or swapped out. -/
def State.strandsHeld (s : State) : List Ctx := ((s.bound ++ s.images).map (·.2)).filter (·.bound)

/-- Those of them that belong to one swap group with a context of a list directly. -/
def joinGroup (held g : List Ctx) : List Ctx := held.filter fun y => g.any (swapsWith · y)

/-- The swap group of a context: directly, or through other teams (R308). -/
def State.groupOf (s : State) (x : Ctx) : List Ctx :=
  s.strandsHeld.foldl (fun g _ => joinGroup s.strandsHeld g) [x]

/-- Whether a context belongs to the swap group of another (R308). -/
def State.grouped (s : State) (x y : Ctx) : Bool := (s.groupOf x).contains y

/-- Whether a swapped-out context may be restored next: no context outside its swap group, of its level or higher, was
swapped out before it (R308). -/
def State.restoresNext (s : State) (image : Nat) : Bool :=
  match Tab.find? s.images image with
  | none => false
  | some x => !s.images.any fun (p : Nat × Ctx) =>
      p.2.bound && decide (p.1 < image) && decide (x.bind.level ≤ p.2.bind.level) && !s.grouped x p.2

/-- What dispatch does with a slot-table entry whose go bit is set (R305). -/
def slotAction (c : Nat) (r : BitVec 1024) : Instr :=
  match bitsOf r.toNat 639 638 with
  | 0 => .bindNew c r
  | 1 => .restore c r
  | 2 => .swapOut c r
  | _ => .tearDown c r

/-- An action that an entry of a slot table asks for: 1 restore, 2 swap out. -/
def slotAsks (action : Nat) (r : BitVec 1024) : Bool := bitOf r.toNat 637 && bitsOf r.toNat 639 638 == action

/-- The swapped-out strand whose save a slot's entry names. -/
def State.imageOf (s : State) (c : Nat) (r : BitVec 1024) : Option (Nat × Ctx) :=
  s.imageAt (recordWho s c r.toNat) (word (bitsOf r.toNat 951 888))

/-- Whether steward firmware swaps out context d: its entry asks for it, or will by a write to come. -/
def State.swapsOut (s : State) (d : Nat) : Bool :=
  slotAsks 2 (Tab.get 0 s.slotTab d) || s.fw.any fun w => match w with
    | .slot c r => c == d && slotAsks 2 r
    | _ => false

/-- Whether steward firmware restores a swapped-out strand: an entry asks for it, or will by a write to come. -/
def State.restores (s : State) (image : Nat) : Bool :=
  let names (c : Nat) (r : BitVec 1024) : Bool := slotAsks 1 r && (s.imageOf c r).any (·.1 == image)
  (s.slotTab.any fun p => names p.1 p.2) || s.fw.any fun w => match w with
    | .slot c r => names c r
    | _ => false

/-- Whether a write of an entry keeps R308: a strand is swapped out with every bound member of its swap group, and
restored with every swapped-out one and in its turn. -/
def State.keepsGroups (s : State) (c : Nat) (r : BitVec 1024) : Bool :=
  if slotAsks 2 r then
    !(s.ctx c).bound ||
      s.bound.all fun (p : Nat × Ctx) => p.1 == c || !s.grouped (s.ctx c) p.2 || s.swapsOut p.1
  else if slotAsks 1 r then
    match s.imageOf c r with
    | none => true
    | some (i, x) => s.restoresNext i &&
        s.images.all fun (p : Nat × Ctx) => p.1 == i || !p.2.bound || !s.grouped x p.2 || s.restores p.1
  else true

/-- Steward firmware writes an entry of a slot table; status is read-only, and dispatch performs the action of an entry
whose go bit is 1 (R304, R305). Requests for a first chunk are served with those of the cycle's HALTs (R303). A write
that R308 forbids is not made (log 25). -/
def State.writeSlot (s : State) (c : Nat) (r : BitVec 1024) : State :=
  let old := (Tab.get 0 s.slotTab c).toNat
  let e : BitVec 1024 := BitVec.ofNat 1024 (setBits r.toNat 636 632 (bitsOf old 636 632))
  let t := { s with slotTab := Tab.set s.slotTab c e }
  if !bitOf r.toNat 637 then t
  else if !s.keepsGroups c r then s
  else match slotAction c e with
    | .bindNew d b => { t with turn := askTurn d (.event (.bindNew d b)) t.turn }
    | i => { t with agenda := i :: t.agenda }

/-- CARD_COUNT_ZERO_DISPATCH (R306): the next card of a queue holds no records. -/
def execCardCountZeroDispatch (q : Nat) (s : State) : Out :=
  .next <|
    let die := q / 1024
    let pos := if q < 256 then some (Tab.get ({} : JobQ) s.jobqs q).front
      else ((Tab.get ({} : LaunchQ) s.launch (die * 16 + (if q % 1024 = 0x1FF then 14 else q % 1024 - 0x100))).cards.find?
        fun (c : Queued) => cardCount (cardNum c.card) == 0).map fun (c : Queued) => c.pos
    match pos with
    | none => s
    | some pos => match s.takeCard (q % 1024) die pos with
      | none => s
      | some (t, r) => if cardCount (cardNum r.card) = 0 then { t with runs := t.runs ++ [r] }.teamDone r else s

/-! Notices and agent watches. -/

/-- NOTICE_POST (R332). -/
def execNoticePost (ctx : Nat) (n : BitVec 4) (s : State) : Out :=
  .next <| s.onCtx ctx fun x =>
    if x.bound then { x with trap := { x.trap with pending := x.trap.pending ||| BitVec.ofNat 16 (2 ^ n.toNat) } } else x

/-- NOTICE_TRAP (R332): the lowest enabled pending notice. -/
def execNoticeTrap (ctx : Nat) (s : State) : Out :=
  .next <|
    let x := s.ctx ctx
    let ns := x.trap.enable &&& x.trap.pending
    match (List.range 16).find? fun i => ns.getLsbD i with
    | some n => if x.mayTrap then s.trapTo ctx 0 { origin := 0, cond := 0x30 + n, async := true } else s
    | none => s

/-- AGENT_WATCH_TRAP (R341): the pending hit of the lowest watch. -/
def execAgentWatchTrap (ctx : Nat) (s : State) : Out :=
  .next <|
    let x := s.ctx ctx
    match x.probe.watch.zipIdx.find? fun (p : Watch × Nat) => p.1.pending with
    | none => s
    | some (w, i) =>
      if x.mayTrap then
        (s.onCtx ctx fun x => { x with probe := { x.probe with
          watch := x.probe.watch.set i { w with pending := false } } }).trapTo ctx 0
          { origin := w.origin, cond := 0x28, addr := w.hitAddr, info := w.hitBy, async := true }
      else s

/-! Static energy (R317). -/

/-- STATIC_ENERGY_CHARGE: a tile's share to each resident context, the remainder to the lowest slot. -/
def execStaticEnergyCharge (tile : Nat) (s : State) : Out :=
  .next <|
    let here := s.bound.filter fun (p : Nat × Ctx) => p.1 / 16 == tile
    let w := s.weight (dieOf tile) 8
    let r := here.length
    let first := (here.map (·.1)).foldl min (16 * tile + 15)
    here.foldl (fun s (p : Nat × Ctx) =>
      s.onCtx p.1 (·.charge (w / r + (if p.1 = first then w % r else 0)))) s

end Sys2Proof.Machine
end

