-- ==== Sys2Proof/Machine/Container.lean ====
section
/-!
DEFINITION. What steward firmware and the boot ROM check of a received container (R60-R66) and firmware image
(R363, R364).
-/

namespace Sys2Proof.Machine

/-- n bytes at an offset, as a number. -/
def fieldAt (bs : List Byte) (off n : Nat) : Nat := ofBytes ((bs.drop off).take n)

/-! Containers. -/

/-- A section (R61). -/
structure Section where
  type : Nat
  off  : Nat
  size : Nat
  link : Nat
  deriving DecidableEq, Repr

/-- The sections of a container (R60, R61). A reserved flag of an entry that is set has no status in R65, and none is
checked (log 14). -/
def sections (bs : List Byte) : List Section :=
  (List.range (fieldAt bs 8 2)).map fun i =>
    let e := 0x40 + 32 * i
    ⟨fieldAt bs e 2, fieldAt bs (e + 8) 8, fieldAt bs (e + 16) 8, fieldAt bs (e + 24) 4⟩

/-- Two sections overlap. -/
def Section.meets (a b : Section) : Bool :=
  decide (a.off < b.off + b.size) && decide (b.off < a.off + a.size)

/-- Pairs of a list with an earlier one. -/
def anyPair (f : Section → Section → Bool) : List Section → Bool
  | [] => false
  | a :: r => r.any (f a) || anyPair f r

/-- Status 0x03 (R65). A section count outside R60's 1 to 256, for which R65 names no status, is refused with it too
(log 14). -/
def badSections (bs : List Byte) : Bool :=
  let ss := sections bs
  decide (ss.length < 1) || decide (256 < ss.length) || decide (bs.length < 0x40 + 32 * ss.length) ||
  ss.any (fun a => decide (bs.length < a.off + a.size) || decide (a.type < 1) || decide (6 < a.type) ||
    decide (ss.length ≤ a.link)) || anyPair Section.meets ss

/-- The syllables of a section. -/
def sectionWords (bs : List Byte) (a : Section) : List Nat :=
  (List.range (a.size / 8)).map fun i => fieldAt bs (a.off + 8 * i) 8

/-- The code sections of a container. -/
def codeWords (bs : List Byte) : List (List Nat) :=
  ((sections bs).filter (·.type == 1)).map (sectionWords bs)

/-- Status 0x05 (R65). -/
def badCode (bs : List Byte) : Bool :=
  (sections bs).any fun a => a.type == 1 &&
    (a.size % 8 != 0 || !((sectionWords bs a).getLast?.map wordStop).getD false)

/-! Portable code (R62, R65). -/

/-- Words cut into groups after each stop bit. -/
def groupsOf : List Nat → List (List Nat)
  | [] => []
  | w :: r =>
    if wordStop w then [w] :: groupsOf r
    else match groupsOf r with
      | [] => [[w]]
      | g :: gs => (w :: g) :: gs

/-- The slots of a portable slot value's class (R62). -/
def classSlots (n : Nat) : List Nat :=
  match n with
  | 0 | 1 => [0, 1]
  | 4 | 5 => [4, 5]
  | n => [n]

/-- A portable syllable read in a slot of its class (R62). -/
def portableHalf (w : Nat) : Option Half :=
  (wordSlot w :: classSlots (wordSlot w)).findSome? fun n => match decodeHalf n w with
    | .ok h => some h
    | .error _ => none

/-- A member of a group: the index of its syllable in the section, the first of two for FORK. -/
structure PMember where
  idx : Nat
  syl : Syl
  deriving DecidableEq, Repr

/-- The members of a group whose first syllable has index i, or status 0x06 or 0x07. A control opcode in slot 1, which
is detail 7 in native form and breaks R62's slot fields too, has status 0x07 (log 14). -/
def groupMembers : Nat → List Nat → Except Nat (List PMember)
  | _, [] => .ok []
  | i, w :: r => match portableHalf w with
    | none => .error 6
    | some (.forkS1 _ _ _) => .error 6
    | some (.forkS0 map) => match r with
      | [] => .error 6
      | w1 :: r1 => match portableHalf w1 with
        | some (.forkS1 o1 o2 o3) =>
          if wordGuard w ≠ wordGuard w1 ∨ !forkOk map o1 o2 o3 then .error 6
          else if wordSlot w ≠ 0 ∨ wordSlot w1 ≠ 1 then .error 7
          else (groupMembers (i + 2) r1).map (⟨i, 0, wordGuard w, .fork map o1 o2 o3⟩ :: ·)
        | _ => .error 6
    | some (.whole op) =>
      if wordSlot w = 1 ∧ op.isControl then .error 7
      else (groupMembers (i + 1) r).map
        (⟨i, wordSlot w, if (Half.whole op).guarded then wordGuard w else 0, op⟩ :: ·)

/-- The transfers of which a group holds at most one (R62). -/
def isTransfer : Instr → Bool
  | .br .. | .brInd .. | .brpAny .. | .brpAll .. | .brpNone .. | .call .. | .callInd .. | .ret .. | .lbrk | .join ..
  | .halt | .yield | .svc .. | .trapret | .fork .. => true
  | _ => false

/-- Members that take effect before the others of their group, and after them (R62). -/
def isWait : Instr → Bool
  | .gwait _ | .gtake _ | .flwaitGe .. | .flwaitEq .. | .flwaitNe .. | .tlwaitImm .. | .tlwaitReg .. => true
  | _ => false
def isPost : Instr → Bool
  | .gpost _ | .flset .. | .flsetAdd .. | .strel32 .. | .strel64 .. => true
  | _ => false

/-- The body length in groups of a LOOP (R62). -/
def bodyGroups : Instr → Option Nat
  | .loopReg len _ _ | .loopImm len _ _ => some (len.toNat + 1)
  | _ => none

/-- Row fields, and tiles, compared by index: two of one index always conflict (R39). -/
def fieldIndex (f : VField) : List Dest := if f.level = 0 then [.row f.index] else []
def indexReads (y : Syl) : List Dest :=
  fixedReads y ++ (vsources y.op).flatMap fieldIndex ++ (tileReads y.op).map .tileType
def indexWrites (y : Syl) : List Dest :=
  fixedWrites y ++ (vdest y.op).toList.flatMap fieldIndex ++ (tileWrites y.op).map .tileType

/-- A group's members compared as those of one bundle (R39, R62). Which context row a row field reaches is not known
before its bundle issues; what is compared is the index. -/
def groupConflict (ms : List PMember) : Bool :=
  (conflict (ms.map fun m => (m.syl, indexReads m.syl, indexWrites m.syl))).isSome

/-- Offsets of a member to group starts (R62). -/
def memberOffsets : Instr → List Int
  | .br off | .call _ off | .brpAny _ _ off | .brpAll _ _ off | .brpNone _ _ off => [off.toInt]
  | .fork map o1 o2 o3 => ([o1.toInt, o2.toInt, o3.toInt]).take (mapGroups map - 1)
  | _ => []

/-- The index of each group's first syllable. -/
def starts : Nat → List (List Nat) → List Nat
  | _, [] => []
  | i, g :: r => i :: starts (i + g.length) r

/-- The groups of a section with the index of each one's first syllable, and their members, or the status that
refuses one (R62). -/
def sectionGroups (ws : List Nat) : List (Nat × Except Nat (List PMember)) :=
  let gs := groupsOf ws
  (starts 0 gs).zip gs |>.map fun (i, g) => (i, groupMembers i g)

/-! Translation (R63). -/

/-- A native bundle before its words are made: the group that it belongs to, and its members with their slots, none
for a NOP that pads, in the slot `pad`. -/
structure NBundle where
  group : Nat
  members : List (Nat × PMember) := []
  pad : Nat := 0
  deriving DecidableEq, Repr, Inhabited

/-- Syllables of a member and of a bundle. -/
def PMember.size (m : PMember) : Nat := match m.syl.op with
  | .fork .. => 2
  | _ => 1
def NBundle.size (b : NBundle) : Nat := if b.members.isEmpty then 1 else (b.members.map (·.2.size)).foldl (· + ·) 0

/-- The slots of group k of a FORK's streams (R31, R288). -/
def mapSlots (map : BitVec 16) (k : Nat) : List Nat := (List.range 8).filter fun n => mapGroup map n == k

/-- The slots that a member may take in native form in a stream that holds the slots `own` (R49, R62): those of its
class, and of these the stream's where there are any. -/
def PMember.slots (own : List Nat) (m : PMember) : List Nat :=
  if m.syl.op.isControl then [0]
  else
    let ns := (classSlots m.syl.slot).filter fun n => match decodeHalf n ((encode n m.syl.guard false m.syl.op).headD 0) with
      | .ok _ => true
      | .error _ => false
    let mine := ns.filter (own.contains ·)
    if mine.isEmpty then ns else mine

/-- The native slot of a member: the lowest that it may take (log 14). -/
def PMember.native (own : List Nat) (m : PMember) : Nat × PMember := ((m.slots own).headD m.syl.slot, m)

/-- Members put in their place by slot. -/
def bySlot : List (Nat × PMember) → List (Nat × PMember)
  | [] => []
  | p :: r => insert p (bySlot r)
where
  insert (p : Nat × PMember) : List (Nat × PMember) → List (Nat × PMember)
    | [] => [p]
    | q :: r => if p.1 ≤ q.1 then p :: q :: r else q :: insert p r

/-- Members that take effect together: in one bundle where their slots differ, as R63 asks of a group's waits and of
its posts and transfer, in several else. -/
def placeTogether (own : List Nat) (group : Nat) (ms : List PMember) : List NBundle :=
  let ps := ms.map (·.native own)
  let used := ps.flatMap fun p => (List.range p.2.size).map (p.1 + ·)
  if ms.isEmpty then []
  else if used.eraseDups.length = used.length then [⟨group, bySlot ps, 0⟩]
  else ps.map fun p => ⟨group, [p], 0⟩

/-- Cycles after its issue from which every reader sees what a member writes: its latency (R43), and one more where its
indications are read (R156). -/
def PMember.settles (m : PMember) : Nat := if latency m.syl.op = 1 then 1 else latency m.syl.op + 1

/-- The NOP bundles that let a group's results land before the next group's first bundle, `n` bundles after these
(R63, log 14). -/
def padding (n : Nat) : List NBundle → Nat
  | [] => 0
  | b :: r => max (((b.members.map (·.2.settles)).foldl max 0) - (r.length + 1 + n)) (padding n r)

/-- The slot of the NOPs that pad: that of the first member whose results they wait for, which the stream holds (R49,
R286). -/
def padSlot (n : Nat) : List NBundle → Nat
  | [] => 0
  | b :: r =>
    if 0 < ((b.members.map (·.2.settles)).foldl max 0) - (r.length + 1 + n) then (b.members.map (·.1)).headD 0
    else padSlot n r

/-- Members that read a special register come before those that write one: all of a group see the old value (R62,
R156, log 14). -/
def specialsLast (ms : List PMember) : List PMember :=
  let special (d : Dest) : Bool := match d with
    | .special _ => true
    | _ => false
  let reads (m : PMember) : Bool := (fixedReads m.syl).any special
  let writes (m : PMember) : Bool := !reads m && (fixedWrites m.syl).any special
  ms.filter reads ++ ms.filter (fun m => !reads m && !writes m) ++ ms.filter writes

/-- A group's native bundles (R63): its waits, its other members one by one, NOPs, its posts and its transfer. A LOOP
stands last, since its body begins at the next group. -/
def placeGroup (own : List Nat) (group : Nat) (ms : List PMember) : List NBundle :=
  let moves (m : PMember) : Bool := isTransfer m.syl.op
  let opens (m : PMember) : Bool := (bodyGroups m.syl.op).isSome
  let last (m : PMember) : Bool := isPost m.syl.op || moves m || opens m
  let first := placeTogether own group (ms.filter fun m => isWait m.syl.op)
  let mid : List NBundle := (specialsLast (ms.filter fun m => !isWait m.syl.op && !last m)).map fun m =>
    ⟨group, [m.native own], 0⟩
  let final := placeTogether own group
    (ms.filter (fun m => isPost m.syl.op) ++ ms.filter moves ++ ms.filter opens)
  first ++ mid ++ List.replicate (padding final.length mid) ⟨group, [], padSlot final.length mid⟩ ++ final

/-- The groups at which control may be after a group with these members, whose first syllable has index `a`, and which
is group `i` of its section: the targets of its offsets, and the next group unless it always leaves. FORK's targets are
other streams', and a stream ends at its JOIN (R62, R289). -/
def nextGroups (at_ : List Nat) (i a : Nat) (ms : List PMember) : List Nat :=
  let target (o : Int) : Option Nat := at_.findIdx? fun (b : Nat) => (b : Int) == (a : Int) + o
  let jumps := ms.flatMap fun m => match m.syl.op with
    | .fork .. => []
    | op => (memberOffsets op).filterMap target
  let leaves (m : PMember) : Bool := m.syl.guard == 0 && match m.syl.op with
    | .br _ | .brInd _ | .ret _ | .halt | .join _ | .trapret => true
    | _ => false
  jumps ++ if ms.any leaves then [] else [i + 1]

/-- Groups reached from some, by the successors of each, in at most `fuel` steps. -/
def reachedFrom (succ : List (List Nat)) : Nat → List Nat → List Nat → List Nat
  | 0, _, seen => seen
  | n + 1, now, seen =>
    let new := ((now.flatMap fun i => succ.getD i []).filter fun j => !seen.contains j).eraseDups
    if new.isEmpty then seen else reachedFrom succ n new (seen ++ new)

/-- The slots that each group of a section may use: those of the streams that reach it from a FORK, and all of them
where none does (R49, R62, R288). -/
def streamSlots (gs : List (Nat × List PMember)) : List (List Nat) :=
  let at_ := gs.map (·.1)
  let succ := gs.zipIdx.map fun (g, i) => nextGroups at_ i g.1 g.2
  let marks : List (List Nat × List Nat) := gs.zipIdx.flatMap fun (g, i) => g.2.flatMap fun m => match m.syl.op with
    | .fork map .. =>
      let others := (memberOffsets m.syl.op).map fun o => at_.findIdx? fun (b : Nat) => (b : Int) == (g.1 : Int) + o
      (some (i + 1) :: others).zipIdx.flatMap fun (t, k) => match t with
        | some t => [(mapSlots map k, reachedFrom succ gs.length [t] [t])]
        | none => []
    | _ => []
  (List.range gs.length).map fun i => (List.range 8).filter fun n => marks.all fun p => !p.2.contains i || p.1.contains n

/-- A section's native bundles. -/
def placeSection (ws : List Nat) : List NBundle :=
  let gs := (sectionGroups ws).map fun g => (g.1, match g.2 with
    | .ok ms => ms
    | .error _ => [])
  ((gs.zip (streamSlots gs)).zipIdx).flatMap fun ((g, own), i) => placeGroup own i g.2

/-- Each bundle with its offset in syllables. -/
def offsets : Nat → List NBundle → List (Nat × NBundle)
  | _, [] => []
  | o, b :: r => (o, b) :: offsets (o + b.size) r

/-- The native offset of the group whose first syllable has an index. -/
def groupOffset (at_ : List Nat) (os : List (Nat × NBundle)) (idx : Int) : Int :=
  match at_.findIdx? fun (i : Nat) => (i : Int) == idx with
  | none => 0
  | some g => ((os.find? fun p => p.2.group == g).map fun p => (p.1 : Int)).getD 0

/-- The number of native bundles after offset o up to those of the n groups after group g. -/
def bodyBundles (os : List (Nat × NBundle)) (o g n : Nat) : Nat :=
  (os.filter fun p => decide (o < p.1) && decide (p.2.group ≤ g + n)).length

/-- The native offset of the bundle at `o` of a group whose first syllable has index `a` for an offset of its own (R62,
R63). -/
def nativeOffset (at_ : List Nat) (os : List (Nat × NBundle)) (o a : Nat) (off : Int) : Int :=
  groupOffset at_ os (a + off) - o

/-- An instruction with its offsets and body length rewritten for the bundle at `o` of group g, whose first syllable
has index `a` (R62, R63). A FORK whose offset does not fit its field is refused before (log 14). -/
def relocated (at_ : List Nat) (os : List (Nat × NBundle)) (o g a : Nat) (i : Instr) : Instr :=
  let shift {n : Nat} (off : BitVec n) : BitVec n := BitVec.ofInt n (nativeOffset at_ os o a off.toInt)
  let body (len : BitVec 6) : BitVec 6 := BitVec.ofNat 6 (bodyBundles os o g (len.toNat + 1) - 1)
  match i with
  | .br off => .br (shift off)
  | .call sd off => .call sd (shift off)
  | .brpAny p n off => .brpAny p n (shift off)
  | .brpAll p n off => .brpAll p n (shift off)
  | .brpNone p n off => .brpNone p n (shift off)
  | .fork map o1 o2 o3 =>
    let n := mapGroups map
    .fork map (if 1 < n then shift o1 else o1) (if 2 < n then shift o2 else o2) (if 3 < n then shift o3 else o3)
  | .loopReg len sa id => .loopReg (body len) sa id
  | .loopImm len id count => .loopImm (body len) id count
  | i => i

/-- The words of a bundle from its members, or of a NOP in slot `pad`; the last one has the stop bit (R38). -/
def bundleWords (f : Instr → Instr) (pad : Nat) : List (Nat × PMember) → List Nat
  | [] => encode pad 0 true .nop
  | [(n, m)] => encode n m.syl.guard true (f m.syl.op)
  | (n, m) :: r => encode n m.syl.guard false (f m.syl.op) ++ bundleWords f pad r

/-- A section translated: the words of its native bundles, and what R64 reports of each bundle. A bundle that pads has
the index of its group's first syllable. -/
def translateSection (ws : List Nat) : List (List Nat × NativePlace) :=
  let at_ := starts 0 (groupsOf ws)
  let os := offsets 0 (placeSection ws)
  os.map fun (o, b) =>
    let a := at_.getD b.group 0
    (bundleWords (relocated at_ os o b.group a) b.pad b.members,
     { off := 8 * o, lead := (b.members.head?.map (·.2.idx)).getD a,
       slots := b.members.flatMap fun (n, m) => (List.range m.size).map fun j => (n + j, m.idx + j) })

/-- Whether a translated loop body is longer than 64 native bundles (R65, status 0x09). -/
def longBody (ws : List Nat) : Bool :=
  let os := offsets 0 (placeSection ws)
  os.any fun (o, b) => b.members.any fun (_, m) => match bodyGroups m.syl.op with
    | some n => decide (64 < bodyBundles os o b.group n)
    | none => false

/-- Whether a FORK of a section cannot name a target of its in its 14 bits once translated: refused with status 0x08,
since R65 names no status for it (log 14). -/
def farFork (ws : List Nat) : Bool :=
  let at_ := starts 0 (groupsOf ws)
  let os := offsets 0 (placeSection ws)
  os.any fun (o, b) => b.members.any fun (_, m) => match m.syl.op with
    | .fork .. => (memberOffsets m.syl.op).any fun off =>
        let n := nativeOffset at_ os o (at_.getD b.group 0) off
        decide (n < -8192) || decide (8192 ≤ n)
    | _ => false

/-- The status of one portable code section, 0 if it passes (R65, 0x06 to 0x09). -/
def sectionStatus (ws : List Nat) : Nat :=
  let gs := sectionGroups ws
  let at_ := gs.map (·.1)
  let ok (m : Except Nat (List PMember)) : List PMember := match m with
    | .ok ys => ys
    | .error _ => []
  let fails (k : Nat) : Bool := gs.any fun g => match g.2 with
    | .error e => e == k
    | .ok _ => false
  let all := gs.map fun g => ok g.2
  let loops := (all.zipIdx.flatMap fun (ys, i) => (ys.filterMap fun y => bodyGroups y.syl.op).map fun n => (i, n))
  let depth (i : Nat) : Nat := 1 + (loops.filter fun (j, n) => decide (j < i) && decide (i ≤ j + n)).length
  if fails 6 || all.any groupConflict then 6
  else if fails 7 || (groupsOf ws).any (fun g => decide (32 < g.length)) ||
      all.any fun ys => decide (1 < (ys.filter fun y => isTransfer y.syl.op).length) then 7
  else if (all.zip at_).any fun (ys, a) => ys.any fun y => (memberOffsets y.syl.op).any fun o =>
      !at_.any fun b => (b : Int) == (a : Int) + o then 8
  else if loops.any (fun (i, _) => decide (4 < depth i)) || longBody ws then 9
  else if farFork ws then 8
  else 0

/-- The lowest nonzero status of several. -/
def lowest (vs : List Nat) : Nat :=
  vs.foldl (fun m v => if v = 0 then m else if m = 0 then v else min m v) 0

/-- The port records of a container (R164). -/
def portRecords (bs : List Byte) : List (List Byte) :=
  ((sections bs).filter (·.type == 6)).flatMap fun a =>
    (List.range (a.size / 256)).map fun i => (bs.drop (a.off + 256 * i)).take 256

/-- A FORK of portable code that the port check of R165 fails under every port record of its container: the manual does
not say which kernel reaches a FORK (R65, log 14). -/
def forkRefused (bs : List Byte) : Bool :=
  let maps := (codeWords bs).flatMap fun ws => (sectionGroups ws).flatMap fun g => match g.2 with
    | .ok ys => ys.filterMap fun y => match y.syl.op with
      | .fork map _ _ _ => some (mapGroups map)
      | _ => none
    | .error _ => []
  maps.any fun n => n != 1 && !(portRecords bs).any fun p =>
    (List.range n).all fun g => (List.range g).all fun h => !portsClash p g h

/-- Whether a container is native (R60). -/
def isNative (bs : List Byte) : Bool := bitOf (fieldAt bs 6 2) 0

/-- The status of a container under a firmware version (R65, R66). The spec does not say which of several causes is
reported: the first in the order of the table, and the lowest of those of several code sections, is the model's choice
(log 14). -/
def containerStatus (bs : List Byte) (version : Nat) : Nat :=
  if bs.take 4 ≠ [0x50, 0x52, 0x4E, 0x53] ∨ fieldAt bs 4 2 ≠ 1 then 1
  else if BitVec.ofNat 256 (fieldAt bs 0x20 32) ≠ Config.sha256 (bs.drop 0x40) ∨ fieldAt bs 0x10 8 ≠ bs.length then 2
  else if badSections bs then 3
  else if version < fieldAt bs 0x0C 4 then 4
  else if badCode bs then 5
  else if isNative bs then 0
  else
    let v := lowest ((codeWords bs).map sectionStatus)
    if v ≠ 0 then v else if forkRefused bs then 10 else 0

/-- What steward firmware makes of code section k of an accepted container (R63). -/
def translatedSection (bs : List Byte) (k : Nat) : List (List Nat × NativePlace) :=
  translateSection ((codeWords bs).getD k [])

/-- The native code of an accepted container, section by section (R63, R66). -/
def nativeCode (bs : List Byte) : List (List Word) :=
  (codeWords bs).zipIdx.map fun (ws, k) =>
    if isNative bs then ws.map word else (translatedSection bs k).flatMap fun p => p.1.map word

/-- Code section k of a container stands translated at a program counter of a team: traps in it report the portable
index (R64). -/
def State.placeCode (s : State) (team : Nat) (pc : Word) (k : Nat) (bs : List Byte) : State :=
  let ps := translatedSection bs k
  let n := 8 * (ps.map (·.1.length)).foldl (· + ·) 0
  if isNative bs then s else { s with translated := (team, pc, n, ps.map (·.2)) :: s.translated }

/-- Whether the LOADs of a container have all arrived: the length of its header is reached. A container that is
shorter ends as log 38 says. -/
def containerWhole (bs : List Byte) : Bool := decide (64 ≤ bs.length) && decide (fieldAt bs 0x10 8 ≤ bs.length)

/-- CONTAINER_LOAD (R65): a container checked and installed or refused, with its status. -/
def State.loadContainer (s : State) (bs : List Byte) : State × Nat :=
  let version := Config.firmwareVersion s.firmware
  let v := containerStatus bs version
  if v = 0 then
    ({ s with kernels := s.kernels ++ [(bs, nativeCode bs)], told := s.told ++ [.container bs] }, 0)
  else (s, v)

/-! Firmware images (R363, R364). -/

/-- Bytes that an image with a body of b bytes has. -/
def imageSize (b : Nat) : Nat := 30688 + b

/-- The status of an image (R364): the first check that fails. -/
def imageStatus (bs : List Byte) : Nat :=
  let b := fieldAt bs 8 8
  let signed_ := bs.take (512 + b)
  if bs.take 4 ≠ [0x51, 0x46, 0x57, 0x31] ∨ b < 2 ^ 20 ∨ 2 ^ 26 < b ∨ bs.length ≠ imageSize b then 0x20
  else if Config.sha384 ((bs.drop 64).take 384) ≠ Config.fusedRsaDigest ∨
      Config.sha384 ((bs.drop 448).take 64) ≠ Config.fusedSlhDigest then 0x21
  else if fieldAt bs 4 4 < Config.fusedRollback then 0x22
  else if !Config.rsaVerify ((bs.drop 64).take 384) signed_ ((bs.drop (512 + b)).take 384) then 0x23
  else if !Config.slhVerify ((bs.drop 448).take 64) signed_ ((bs.drop (896 + b)).take 29792) then 0x24
  else 0

/-- Whether the LOADs of an image have all arrived: the size that a legal body length gives is reached. An image that is
shorter, or names no legal length, ends as log 38 says. -/
def imageWhole (bs : List Byte) : Bool :=
  let b := fieldAt bs 8 8
  decide (16 ≤ bs.length) && decide (2 ^ 20 ≤ b) && decide (b ≤ 2 ^ 26) && decide (imageSize b ≤ bs.length)

/-- FIRMWARE_IMAGE_CHECK (R364): the outcome in FWSTAT, and the status. -/
def State.checkImage (s : State) (bs : List Byte) : State × Nat :=
  let v := imageStatus bs
  let f := s.fwstat.toNat
  let attempts := min (bitsOf f 63 48 + 1) 65535
  if v = 0 then
    ({ s with firmware := bs, image := [], fwstat := word (attempts * 2 ^ 48 + fieldAt bs 4 4 * 2 ^ 16 + 1) }, 0)
  else ({ s with image := [], fwstat := word (setBits (setBits f 63 48 attempts) 15 8 v) }, v)

end Sys2Proof.Machine
end

