-- ==== Sys2Proof/Machine/Access.lean ====
section
/-!
DEFINITION. The access slot (spec/06): scalar loads and stores, acquire and release forms, atomics, fences,
flags, streaming rows, and the checks of own watches (R340). Every access performs when its syllable issues
(log 1).
-/

namespace Sys2Proof.Machine

/-- An own access that a watch of the context names (R340). -/
def ownWatch (s : State) (a : Word) (n : Nat) (reads writes : Bool) : Except Stop Unit :=
  if s.stream.exempt then .ok ()
  else
    let w := s.who
    match (s.cx.probe.watch.zipIdx).findSome? fun (v, i) =>
        if (reads && v.read) || (writes && v.write) then (watchHit v w w.team w.tile a n).map fun h => (h, i)
        else none with
    | some (h, i) => .error (s.fault 0x27 h (word i))
    | none => .ok ()

/-- The checks and the bytes of an access of n bytes: its keys, after R74 and R86 (R74, R123, R131, R362). -/
def State.access (s : State) (a : Word) (n cls : Nat) (acc : Acc) : Except Stop (List Nat) := do
  s.afterStores (2 ^ cls)
  let ks ← s.mem? (translate s s.who a n acc)
  match acc with
  | .write | .writeWord =>
    check (keysReady s ks = false) (s.fault 0x11 a)
    .ok ks
  | _ =>
    check (ks.any (keyBad s) = true) (s.fault 0x11 a)
    .ok ks

/-- The number at keys. -/
def State.peek (s : State) (ks : List Nat) : Nat := ofBytes (memGetAll s.mem ks)

/-- The latency of a load at keys (R116). -/
def State.latencyOf (s : State) (ks : List Nat) : Nat := loadLatency s.tile (ks.headD 0)

/-- The effective address of an AM syllable (R122). -/
def effective (s : State) (aa : AReg) (off : BitVec 27) : Word := addrAdd (s.ra aa) off.toInt

/-- LD and LDACQ (R122, R123). -/
def loadInto (s : State) (sd : SReg) (aa : AReg) (cls : Class) (off : BitVec 27) (n : Nat) (sign aligned : Bool) :
    Out :=
  s.finish do
    let a := effective s aa off
    let ks ← s.access a n cls.toNat (if aligned then .readWord else .read)
    ownWatch s a n true false
    let v := s.peek ks
    .ok (s.promise (s.latencyOf ks) (.scalar sd.toNat) (if sign then wrapBits (signed v (8 * n)) 64 else v))

/-- The bytes of an access written by the issuing stream. -/
def State.store (s : State) (a : Word) (ks : List Nat) (bs : List Byte) : State :=
  storeKeys s s.agent s.who a ks bs

/-- ST and STREL (R122, R123). A release also waits for the stream's paired stores of every class. -/
def storeFrom (s : State) (sa : SReg) (aa : AReg) (cls : Class) (off : BitVec 27) (n : Nat) (release : Bool) : Out :=
  s.finish do
    let a := effective s aa off
    let ks ← s.access a n cls.toNat (if release then .writeWord else .write)
    if release then s.afterStores 0xFFFF else .ok ()
    ownWatch s a n false true
    .ok (s.store a ks (toBytes n (s.rs sa).toNat))

def execLdU8 (sd : SReg) (aa : AReg) (cls : Class) (off : BitVec 27) (s : State) : Out := loadInto s sd aa cls off 1 false false
def execLdS8 (sd : SReg) (aa : AReg) (cls : Class) (off : BitVec 27) (s : State) : Out := loadInto s sd aa cls off 1 true false
def execLdU16 (sd : SReg) (aa : AReg) (cls : Class) (off : BitVec 27) (s : State) : Out := loadInto s sd aa cls off 2 false false
def execLdS16 (sd : SReg) (aa : AReg) (cls : Class) (off : BitVec 27) (s : State) : Out := loadInto s sd aa cls off 2 true false
def execLdU32 (sd : SReg) (aa : AReg) (cls : Class) (off : BitVec 27) (s : State) : Out := loadInto s sd aa cls off 4 false false
def execLdS32 (sd : SReg) (aa : AReg) (cls : Class) (off : BitVec 27) (s : State) : Out := loadInto s sd aa cls off 4 true false
def execLd64 (sd : SReg) (aa : AReg) (cls : Class) (off : BitVec 27) (s : State) : Out := loadInto s sd aa cls off 8 false false
def execSt8 (sa : SReg) (aa : AReg) (cls : Class) (off : BitVec 27) (s : State) : Out := storeFrom s sa aa cls off 1 false
def execSt16 (sa : SReg) (aa : AReg) (cls : Class) (off : BitVec 27) (s : State) : Out := storeFrom s sa aa cls off 2 false
def execSt32 (sa : SReg) (aa : AReg) (cls : Class) (off : BitVec 27) (s : State) : Out := storeFrom s sa aa cls off 4 false
def execSt64 (sa : SReg) (aa : AReg) (cls : Class) (off : BitVec 27) (s : State) : Out := storeFrom s sa aa cls off 8 false
def execLdacq32 (sd : SReg) (aa : AReg) (cls : Class) (off : BitVec 27) (s : State) : Out := loadInto s sd aa cls off 4 false true
def execLdacq64 (sd : SReg) (aa : AReg) (cls : Class) (off : BitVec 27) (s : State) : Out := loadInto s sd aa cls off 8 false true
def execStrel32 (sa : SReg) (aa : AReg) (cls : Class) (off : BitVec 27) (s : State) : Out := storeFrom s sa aa cls off 4 true
def execStrel64 (sa : SReg) (aa : AReg) (cls : Class) (off : BitVec 27) (s : State) : Out := storeFrom s sa aa cls off 8 true

/-! Atomics (R124). -/

/-- The read-modify-write of n bytes: `f` from the old value. -/
def atomic (s : State) (sd : SReg) (aa : AReg) (cls : Class) (n : Nat) (f : Nat → Nat) : Out :=
  s.finish do
    let a := s.ra aa
    let ks ← s.access a n cls.toNat .atomic
    ownWatch s a n true true
    let old := s.peek ks
    let t := s.store a ks (toBytes n (f old))
    .ok (t.promise (s.latencyOf ks) (.scalar sd.toNat) old)

/-- Bytes of the size field (R124). -/
def amoBytes (sz : BitVec 1) : Nat := if sz = 1 then 8 else 4

/-- a < b under the size and the unsigned flag (R124). -/
def amoLess (sz un : BitVec 1) (a b : Nat) : Bool :=
  let w := 8 * amoBytes sz
  if un = 1 then decide (a % 2 ^ w < b % 2 ^ w) else decide (signed a w < signed b w)

def execAmoAdd (sd : SReg) (aa : AReg) (sb : SReg) (cls : Class) (sz _un : BitVec 1) (s : State) : Out :=
  atomic s sd aa cls (amoBytes sz) fun old => old + (s.rs sb).toNat
def execAmoMin (sd : SReg) (aa : AReg) (sb : SReg) (cls : Class) (sz un : BitVec 1) (s : State) : Out :=
  atomic s sd aa cls (amoBytes sz) fun old => if amoLess sz un (s.rs sb).toNat old then (s.rs sb).toNat else old
def execAmoMax (sd : SReg) (aa : AReg) (sb : SReg) (cls : Class) (sz un : BitVec 1) (s : State) : Out :=
  atomic s sd aa cls (amoBytes sz) fun old => if amoLess sz un old (s.rs sb).toNat then (s.rs sb).toNat else old
def execAmoAnd (sd : SReg) (aa : AReg) (sb : SReg) (cls : Class) (sz _un : BitVec 1) (s : State) : Out :=
  atomic s sd aa cls (amoBytes sz) fun old => old &&& (s.rs sb).toNat
def execAmoOr (sd : SReg) (aa : AReg) (sb : SReg) (cls : Class) (sz _un : BitVec 1) (s : State) : Out :=
  atomic s sd aa cls (amoBytes sz) fun old => old ||| (s.rs sb).toNat
def execAmoXor (sd : SReg) (aa : AReg) (sb : SReg) (cls : Class) (sz _un : BitVec 1) (s : State) : Out :=
  atomic s sd aa cls (amoBytes sz) fun old => old ^^^ (s.rs sb).toNat
def execAmoSwap (sd : SReg) (aa : AReg) (sb : SReg) (cls : Class) (sz _un : BitVec 1) (s : State) : Out :=
  atomic s sd aa cls (amoBytes sz) fun _ => (s.rs sb).toNat

/-- CAS (R124): the expected value is sd before it is written. -/
def execCas (sd : SReg) (aa : AReg) (sb : SReg) (cls : Class) (sz _un : BitVec 1) (s : State) : Out :=
  atomic s sd aa cls (amoBytes sz) fun old =>
    if old = (s.rs sd).toNat % 2 ^ (8 * amoBytes sz) then (s.rs sb).toNat else old

/-- A FENCE remembered by the stream while stores that it orders are still to be written (R125). -/
def Stream.fence (t : Stream) (x : Ctx) (mask bound : Nat) : Stream :=
  { t with fences := t.fences.filter (fun f => !x.writtenTo f.2) ++ (if bound = 0 then [] else [(mask, bound)]) }

/-- FENCE (R125): it issues at once. Earlier accesses performed when they issued, but for paired stores; later
accesses of its classes wait for those. -/
def execFence (mask : BitVec 16) (_scope : BitVec 3) (s : State) : Out :=
  .next (s.upStream (·.fence s.cx mask.toNat (s.cx.placedBefore s.grp mask.toNat s.cycle)))

/-! Flags (R126). -/

/-- FLSET and FLSET.ADD: an atomic write with release. -/
def setFlag (s : State) (aa : AReg) (cls : Class) (f : Nat → Nat) : Out :=
  s.finish do
    let a := s.ra aa
    let ks ← s.access a 8 cls.toNat .atomic
    s.afterStores 0xFFFF
    ownWatch s a 8 true true
    .ok (s.store a ks (toBytes 8 (f (s.peek ks))))

def execFlset (sb : SReg) (aa : AReg) (cls : Class) (_scope : BitVec 6) (s : State) : Out :=
  setFlag s aa cls fun _ => (s.rs sb).toNat
def execFlsetAdd (sb : SReg) (aa : AReg) (cls : Class) (_scope : BitVec 6) (s : State) : Out :=
  setFlag s aa cls fun old => old + (s.rs sb).toNat

/-- FLWAIT: 0 GE, 1 EQ, 2 NE. A condition seen by a re-evaluation stands until the bundle issues. -/
def waitFlag (s : State) (sb : SReg) (aa : AReg) (cls : Class) (cond : Nat) : Out :=
  s.finish do
    let a := s.ra aa
    let ks ← s.access a 8 cls.toNat .readWord
    check (flagMet cond (s.peek ks) (s.rs sb).toNat = false ∧ s.stream.met = false) (.hold (.flag a cond (s.rs sb)))
    ownWatch s a 8 true false
    .ok s

def execFlwaitGe (sb : SReg) (aa : AReg) (cls : Class) (_scope : BitVec 6) (s : State) : Out := waitFlag s sb aa cls 0
def execFlwaitEq (sb : SReg) (aa : AReg) (cls : Class) (_scope : BitVec 6) (s : State) : Out := waitFlag s sb aa cls 1
def execFlwaitNe (sb : SReg) (aa : AReg) (cls : Class) (_scope : BitVec 6) (s : State) : Out := waitFlag s sb aa cls 2

/-- FLAG_REEVALUATION (R126): the condition is tested after a write to the flag's word. -/
def execFlagReevaluation (ctx grp : Nat) (s : State) : Out :=
  .next <|
    let x := s.ctx ctx
    match (x.streams.getD grp {}).wait with
    | some ⟨.flag a cond v, _, _, _⟩ => match readNum s x.bind.who a 8 .readWord with
      | .ok w => if flagMet cond w v.toNat then s.onCtx ctx (·.onStream grp fun t => { t with met := true }) else s
      | .error _ => s
    | _ => s

/-! Streaming rows (R127-R131, R133). -/

/-- A deferred row (R133): address, cause of origin A. -/
def deferredRow (a : Word) (cond : Nat) : Row := ⟨.deferred, BitVec.ofNat 2048 (a.toNat + 2 ^ 64 * (64 + cond))⟩

/-- A row that LDQ reads (R128): deferred where its read would fault. -/
def ldqRow (s : State) (tag : Tag) (a : Word) : Row :=
  if bufOff a % 64 ≠ 0 then deferredRow a 0x0E
  else match readMem s s.who a 256 with
    | .error f => deferredRow a f.cond
    | .ok bs => ⟨tag, BitVec.ofNat 2048 (ofBytes bs)⟩

/-- The address of row j of a streaming command (R128). -/
def rowAddr (a : Word) (stride : Int) (j : Nat) : Word := addrAdd a (256 * stride * j)

/-- LDQ (R128): the rows are read in its place in class order (R274) and pushed later. -/
def execLdq (cnt : BitVec 6) (aa : AReg) (cls : Class) (stride : BitVec 13) (s : State) : Out :=
  s.finish do
    s.afterStores (2 ^ cls.toNat)
    check (32 ≤ s.cx.eng.ldCmds.length) (.hold .full)
    let a := s.ra aa
    let n := cnt.toNat + 1
    let rows := (List.range n).map fun j => ldqRow s s.cx.regs.lqtag (rowAddr a stride.toInt j)
    let c : RowCmd := { addr := a, stride := stride.toInt, count := n, cls := cls.toNat, born := s.cycle, rows := rows }
    .ok (s.up fun x => { x with eng := { x.eng with ldCmds := x.eng.ldCmds ++ [c] } })

/-- LDQ_ROW_ARRIVAL (R128): the next row is pushed while the queue has room. -/
def execLdqRowArrival (ctx : Nat) (s : State) : Out :=
  .next <|
    let x := s.ctx ctx
    match x.eng.ldCmds with
    | [] => s
    | c :: rest =>
      if 64 ≤ x.eng.ldRows.length then s
      else
        let r := c.rows.getD c.done {}
        let c' := { c with done := c.done + 1 }
        let s := s.onCtx ctx fun x => { x with eng := { x.eng with
          ldCmds := if c'.done < c'.count then c' :: rest else rest, ldRows := x.eng.ldRows ++ [r] } }
        if r.tag = .deferred then s
        else match translate s x.bind.who (rowAddr c.addr c.stride c.done) 256 .read with
        | .ok ks => s.chargeKeys ctx (spaceUnit (ctx / 16)) ks
        | .error _ => s

/-- The kept translations of an STQA's rows, checked in order (R130). -/
def stqaKeys (s : State) (a : Word) (stride : Int) : Nat → Nat → Except Stop (List (List Nat))
  | _, 0 => .ok []
  | j, n + 1 => do
    let r := rowAddr a stride j
    check (bufOff r % 64 ≠ 0) (s.fault 0x0E r)
    let ks ← s.mem? (translate s s.who r 256 .write)
    check (keysReady s ks = false) (s.fault 0x11 r)
    let rest ← stqaKeys s a stride (j + 1) n
    .ok (ks :: rest)

/-- STQA (R130). -/
def execStqa (cnt : BitVec 6) (aa : AReg) (cls : Class) (stride : BitVec 13) (s : State) : Out :=
  s.finish do
    check (32 ≤ s.cx.eng.stCmds.length) (.hold .full)
    let a := s.ra aa
    let n := cnt.toNat + 1
    let keys ← stqaKeys s a stride.toInt 0 n
    (List.range n).foldl (fun r j => match r with
      | .error e => .error e
      | .ok () => ownWatch s (rowAddr a stride.toInt j) 256 false true) (.ok ())
    let c : RowCmd := { addr := a, stride := stride.toInt, count := n, cls := cls.toNat, born := s.cycle, keys := keys }
    .ok (s.up fun x => { x with eng := { x.eng with stCmds := x.eng.stCmds ++ [c] } })

/-- PAIRED_STORE_WRITE (R130, R131): the oldest row with its landed data is written. -/
def execPairedStoreWrite (ctx : Nat) (s : State) : Out :=
  .next <|
    let x := s.ctx ctx
    match x.eng.stCmds, x.eng.stData with
    | c :: rest, d :: ds =>
      if !d.full then s
      else
        let ks := c.keys.getD c.done []
        let c' := { c with done := c.done + 1 }
        let s := s.onCtx ctx fun x => { x with eng := { x.eng with
          stCmds := if c'.done < c'.count then c' :: rest else rest, stData := ds } }
        let s := storeKeys s (streamAgent ctx d.group) x.bind.who (rowAddr c.addr c.stride c.done) ks (toBytes 256 d.data.toNat)
        s.chargeKeys ctx (spaceUnit (ctx / 16)) ks
    | _, _ => s

end Sys2Proof.Machine
end

