-- ==== Sys2Proof/Machine/Planes.lean ====
section
/-!
DEFINITION. Plane operands (R119, R142, R204-R206): the layout that MPLANE and a plane-layout CPYL write and
that the matrix engine reads.
-/

namespace Sys2Proof.Machine

/-- Magnitude planes p and exponent planes of an A format (R204). -/
def planesOf (t : Tag) : Nat :=
  match t with | .bf16 => 8 | .fp16 => 11 | .e4m3 => 4 | .e5m2 => 3 | .int8 => 7 | _ => 3
def expPlanesOf (t : Tag) : Nat :=
  match t with | .bf16 => 8 | .fp16 => 5 | .e4m3 => 4 | .e5m2 => 5 | .int8 => 0 | _ => 3
/-- Parts of a group (R204). -/
def partsOf (t : Tag) : Nat := 1 + planesOf t + expPlanesOf t + (if t = .nq4 then 1 else 0)

/-- An element as the planes hold it: sign, significand, exponent code (R205), and what R206 replaced: 0
nothing, 1 a NaN, 2 an infinity. An NQ4 zero is +0 whatever its sign bit (R141). -/
structure Elem where
  sign : Bool
  sig  : Nat
  exp  : Nat
  gone : Nat
  deriving DecidableEq, Repr

/-- +0 as the planes hold it (R108, R225). -/
def Elem.zero : Elem := ⟨false, 0, 0, 0⟩

/-- An element code taken apart (R205, R206); `scale` is the scale byte of an NQ4 block. -/
def splitElem (t : Tag) (code scale : Nat) : Elem :=
  if t = .int8 then ⟨bitOf code 7, code % 128, 0, 0⟩
  else if t = .nq4 then
    let type := scale / 64 % 4
    let (sig, q) := (nq4Parts type).getD (code % 8) (0, 0)
    let drop := 3 - nq4Planes type
    ⟨bitOf code 3 && sig != 0, sig * 2 ^ drop, (q + 5 - (drop : Int)).toNat, 0⟩
  else
    let neg := bitOf code (t.laneBits - 1)
    let one := 2 ^ t.manBits
    match decodeFloat t code with
    | .nan => ⟨false, 0, 0, 1⟩
    | .inf _ => ⟨neg, 2 * one - 1, 2 ^ t.expBits - 2, 2⟩
    | _ =>
      let e := code / one % 2 ^ t.expBits
      ⟨neg, if e = 0 then code % one else one + code % one, e, 0⟩

/-- The bit of an element that part j holds (R204). -/
def Elem.part (e : Elem) (t : Tag) (j : Nat) : Nat :=
  let p := planesOf t
  if j = 0 then (if e.sign then 1 else 0)
  else if j ≤ p then e.sig / 2 ^ (p - j) % 2
  else e.exp / 2 ^ (p + expPlanesOf t - j) % 2

/-- The bytes of a group from its elements, 32·m + k in order, and the scale bytes of its rows (R204). -/
def groupBytes (t : Tag) (es : List Elem) (scales : List Nat) : List Byte :=
  ((List.range (1 + planesOf t + expPlanesOf t)).flatMap fun j => toBytes 256 (ofLanes 1 (es.map (·.part t j)))) ++
  (if t = .nq4 then toBytes 256 (ofLanes 8 scales) else [])

/-- The value that the engine reads for element (m, k) of a group whose parts are the given numbers, with pp
declared planes (R205). -/
def planeVal (t : Tag) (nver pp : Nat) (parts : List Nat) (m k : Nat) : Val :=
  let b := 32 * m + k
  let p := planesOf t
  let bit (j : Nat) : Nat := parts.getD j 0 / 2 ^ b % 2
  let sign := bit 0 == 1
  let n := (List.range pp).foldl (fun n i => n + bit (i + 1) * 2 ^ (p - (i + 1))) 0
  let c := (List.range (expPlanesOf t)).foldl (fun c i => 2 * c + bit (p + 1 + i)) 0
  if t = .int8 then Val.ofInt ((n : Int) - (if sign then 128 else 0))
  else if t = .nq4 then
    Val.ofMag sign n ((c : Int) - 5 + nq4Exp (parts.getD (p + expPlanesOf t + 1) 0 / 2 ^ (8 * m) % 256))
  else if c = 0 ∧ nver = 1 then .zero sign
  else Val.ofMag sign n ((max c 1 : Nat) - t.bias - t.manBits)

end Sys2Proof.Machine
end

