-- ==== Sys2Proof/Machine/Queue.lean ====
section
/-!
DEFINITION. What the copy commands share: places in a queue (R90), issue (R88, R91, R94), bytes moved in beats
(R90, R96, R97, R358), stopping at a fault (R97), and completion (R89, R91, R92, R109, R112, R113). The commands
of a queue are carried out one after another (log 7).
-/

namespace Sys2Proof.Machine

/-! Issue. -/

/-- Commands of a tile that have issued and not completed (R90). -/
def State.tileCommands (s : State) (tile : Nat) : Nat :=
  s.ctxs.foldl (fun n p => if p.1 / 16 = tile then p.2.eng.queues.foldl (fun n q => n + q.length) n else n) 0

/-- A queue or a tile without room holds the bundle (R90); the command performs after the stream's earlier
accesses of its class (R95). -/
def State.roomFor (s : State) (q cls : Nat) : Except Stop Unit := do
  check (64 ≤ (s.cx.eng.queues.getD q []).length ∨ 512 ≤ s.tileCommands s.tile) (.hold .full)
  s.afterStores (2 ^ cls)

/-- A token register outside the issuing group's partition (R94 step 3, R166). -/
def State.tokenPort (s : State) (n : Nat) : Except Stop Unit :=
  check (n ≠ 0 ∧ mayWrite s.cx s.grp [.scalar n] = false) (s.fault 0x06)

/-- A command takes its number and its place, and its token register becomes pending (R88, R91, R94). -/
def State.issueCmd (s : State) (q : Nat) (k : Cmd) : State :=
  let s := s.up (·.onTimeline q Timeline.next)
  let k := { k with num := (s.cx.timeline q).issued, group := s.grp, nver := s.cx.regs.nver, tables := s.mem }
  (s.up fun x => { x with eng := { x.eng with queues := x.eng.queues.set q (x.eng.queues.getD q [] ++ [k]) } }).await
    (.scalar k.token)

/-- The aperture channel of a team (R358). -/
def State.apertureChannel (s : State) (team : Nat) : Option Nat :=
  (s.chteam.find? fun p => bitOf p.2.toNat 16 && p.2.toNat % 65536 == team).map (·.1)

/-- A destination range of CPY or CPYL, the aperture included (R94, R358): its aperture channel, if any. -/
def State.destRange (s : State) (a : Word) (n : Nat) : Except Stop Nat :=
  if bufIdx a = 0xFE80 then
    if 2 ^ 48 < bufOff a + n then .error (s.fault 0x0C a)
    else match s.apertureChannel s.who.team with
      | none => .error (s.fault 0x0A a)
      | some c => .ok c
  else match checkRange s s.who a n .write with
    | .error f => .error (s.mfault f)
    | .ok () => .ok 0

/-- A range that a command reads, writes or updates atomically (R94). -/
def State.range (s : State) (a : Word) (n : Nat) (acc : Acc) : Except Stop Unit := s.mem? (checkRange s s.who a n acc)

/-- The address in a scalar named by a syllable, s0 for none (R52). -/
def State.target (s : State) (r : SReg) : Option Word := if r = 0 then none else some (s.rs r)

/-- An atomic target of 8 bytes, where there is one (R94). -/
def State.atomicTarget (s : State) (t : Option Word) : Except Stop Unit :=
  match t with
  | none => .ok ()
  | some a => s.range a 8 .atomic

/-- The watches of an atomic target (R340). -/
def State.watchTarget (s : State) (t : Option Word) : Except Stop Unit :=
  match t with
  | none => .ok ()
  | some a => ownWatch s a 8 true true

/-! Beats. -/

/-- The agent that moves a command's bytes (R341, R343). -/
def Cmd.agent (k : Cmd) (c q : Nat) : Agent := ⟨agentId 2 c k.group (q * 2 ^ 44 + k.num % 2 ^ 44), 2, c, false⟩
/-- The home that makes a command's flag, barrier or future action (R341, R343). -/
def Cmd.home (k : Cmd) (c q : Nat) : Agent := { k.agent c q with origin := 5 }

/-- A data status met (R92). -/
def Cmd.meet (k : Cmd) (v : Nat) : Cmd := { k with status := max k.status v }

/-- What a step of a command comes to: the machine and the command after it, or no progress yet. -/
abbrev Beat := Except MFault (Option (State × Cmd))

/-- The address of the host (R354). -/
def State.hostAddr (s : State) : BitVec 128 := BitVec.ofNat 128 (s.hostLo.toNat + 2 ^ 64 * s.hostHi.toNat)
/-- The connection of an aperture channel (R352, R358). -/
def State.hostConn (s : State) (chan : Nat) : Conn := Tab.get {} s.conns (s.linkKey 8 s.hostAddr chan)

/-- A PUT through the host port (R358): none to a host that is unreachable. -/
def sendAperture (s : State) (k : Cmd) (a : Word) (bs : List Byte) : State × Cmd :=
  let chan := k.aux.toNat
  if bs.isEmpty then (s, k)
  else if (s.hostConn chan).dead then (s, k.meet 4)
  else
    let t := s.send 8 s.hostAddr chan 0x04 (word (bufOff a)) bs
    (t, { k with sent := (t.hostConn chan).sent })

/-- Runs of present bytes with the offset of their first. -/
def runsOf : Nat → List (Option Byte) → List (Nat × List Byte)
  | _, [] => []
  | i, none :: r => runsOf (i + 1) r
  | i, some b :: r => match runsOf (i + 1) r with
    | (j, bs) :: t => if j = i + 1 then (i, b :: bs) :: t else (i, [b]) :: (j, bs) :: t
    | [] => [(i, [b])]

/-- n bytes moved between two spaces charged in beats of 64 (R317). -/
def State.chargeBytes (s : State) (c src dst n : Nat) : State :=
  (List.range (ceilDiv n 64)).foldl (fun s _ => s.chargeBeat c src dst) s

/-- Bytes of one beat to their destination. A byte that met an uncorrectable error is missing and leaves the
destination as it is, and an error in the tables leaves all of them as they are (status 0x01, R92, R97); bytes to a
share unbound since are discarded (status 0x06). -/
def putBytes (s : State) (c q : Nat) (k : Cmd) (dst : Word) (bs : List (Option Byte)) (from_ : Option Nat) :
    Except MFault (State × Cmd) :=
  let w := (s.ctx c).bind.who
  let k := if bs.any (·.isNone) then k.meet 1 else k
  let src := from_.getD (spaceUnit w.tile)
  if bufIdx dst = 0xFE80 then
    let (t, k) := (runsOf 0 bs).foldl (fun (p : State × Cmd) r => sendAperture p.1 p.2 (addrAdd dst r.1) r.2) (s, k)
    .ok (t.chargeBytes c src spaceHost bs.length, k)
  else match translateWith s k.tables w dst bs.length .write with
  | .error f =>
    if 0xFE00 ≤ bufIdx dst ∧ bufIdx dst < 0xFE80 then .ok (s, { k.meet 6 with unbound := true })
    else if f.cond = 0x11 then .ok (s, k.meet 1)
    else .error f
  | .ok ks =>
    if !keysReady s ks then .ok (s, k.meet 1)
    else
    let t := (runsOf 0 bs).foldl (fun s r =>
      storeKeys s (k.agent c q) w (addrAdd dst r.1) ((ks.drop r.1).take r.2.length) r.2) s
    .ok (t.chargeKeys c src ks, k)

/-- Bytes read for a command: missing where their granule fails (R86), or where the tables that lead to them fail
(R97). -/
def getBytes (s : State) (c : Nat) (k : Cmd) (src : Word) (n : Nat) : Except MFault (List Nat × List (Option Byte)) :=
  match translateWith s k.tables (s.ctx c).bind.who src n .read with
  | .error f => if f.cond = 0x11 then .ok ([], List.replicate n none) else .error f
  | .ok ks => .ok (ks, ks.map fun j => if keyBad s j then none else some (memGet s.mem j))

/-- Bytes copied (R90, R109). -/
def moveBytes (s : State) (c q : Nat) (k : Cmd) (src dst : Word) (n : Nat) : Except MFault (State × Cmd) :=
  match getBytes s c k src n with
  | .error f => .error f
  | .ok (ks, bs) => putBytes s c q k dst bs (ks.head?.map keySpace)

/-- The bytes up to the next 64-byte boundary (R90). -/
def toBoundary (a : Word) : Nat := 64 - bufOff a % 64

/-- The bytes of the next beat of a plain copy: at most 64, across no 64-byte boundary (R90). -/
def beatSize (k : Cmd) : Nat :=
  min (k.count - k.pos) (min (64 - (bufOff k.src + k.pos) % 64) (64 - (bufOff k.dst + k.pos) % 64))

/-- The next beat within an element or group of n bytes, of which k.sub are done, has moved m: the step of the beat
order advances with the last of them (R90, R97). -/
def Cmd.after (k k' : Cmd) (m n : Nat) : Cmd :=
  if n ≤ k.sub + m then { k' with pos := k.pos + 1, sub := 0 } else { k' with sub := k.sub + m }

/-- The next beat of an element of n bytes that is copied. -/
def movePart (s : State) (c q : Nat) (k : Cmd) (src dst : Word) (n : Nat) : Except MFault (State × Cmd) :=
  let a := addrAdd src k.sub
  let d := addrAdd dst k.sub
  let m := min (n - k.sub) (min (toBoundary a) (toBoundary d))
  (moveBytes s c q k a d m).map fun r => (r.1, k.after r.2 m n)

/-- The next beat of an element or group whose bytes are known. -/
def putPart (s : State) (c q : Nat) (k : Cmd) (dst : Word) (bs : List Byte) : Except MFault (State × Cmd) :=
  let d := addrAdd dst k.sub
  let m := min (bs.length - k.sub) (toBoundary d)
  (putBytes s c q k d (((bs.drop k.sub).take m).map some) none).map fun r => (r.1, k.after r.2 m bs.length)

/-- Whether a command has begun to move its bytes. -/
def Cmd.begun (k : Cmd) : Bool := k.pos != 0 || k.sub != 0 || !k.data.isEmpty

/-- Whether a copy through the aperture may go on: those of one channel are sent one at a time, in the order in which
they begin (R358). -/
def apertureFree (s : State) (c q : Nat) (k : Cmd) : Bool :=
  k.begun || s.ctxs.all fun p => p.2.eng.queues.zipIdx.all fun (l, i) =>
    (p.1 == c && i == q) || match l with
      | [] => true
      | h :: _ => !(bufIdx h.dst == 0xFE80 && h.aux == k.aux && h.begun && !h.ended)

/-- A source byte of a plain copy: where the command has overwritten it, its original value or the value now there
(R109, log 8). -/
def Cmd.source (k : Cmd) (now key : Nat) (b : Byte) : Byte :=
  match Tab.find? k.orig key with
  | some v => if Config.keepsOriginal now key then v else b
  | none => b

/-- The bytes that a beat is about to overwrite, by key. -/
def State.replaced (s : State) (c : Nat) (k : Cmd) (dst : Word) (n : Nat) : List (Nat × Byte) :=
  if bufIdx dst = 0xFE80 then []
  else match translateWith s k.tables (s.ctx c).bind.who dst n .write with
    | .error _ => []
    | .ok ks => ks.map fun j => (j, memGet s.mem j)

/-- One beat of CPY, TMOV, RWR, PREF or EVICT (R90, R109). -/
def plainBeat (s : State) (c q : Nat) (k : Cmd) : Beat :=
  if k.count ≤ k.pos then .ok (some (s, { k with ended := true }))
  else
    let n := beatSize k
    let dst := addrAdd k.dst k.pos
    match getBytes s c k (addrAdd k.src k.pos) n with
    | .error f => .error f
    | .ok (ks, bs) =>
      let bs := if ks.isEmpty then bs else (ks.zip bs).map fun (j, b) => b.map (k.source s.cycle j)
      match putBytes s c q k dst bs (ks.head?.map keySpace) with
      | .error f => .error f
      | .ok (t, k') => .ok (some (t, { k' with
          pos := k.pos + n, ended := decide (k.count ≤ k.pos + n), orig := k.orig ++ s.replaced c k dst n }))

/-! Stopping and completing. -/

/-- The head of a queue replaced. -/
def State.setHead (s : State) (c q : Nat) (k : Cmd) : State :=
  s.onCtx c fun x => { x with eng := { x.eng with queues := x.eng.queues.set q (k :: (x.eng.queues.getD q []).drop 1) } }

/-- A command stops at a fault, and its trap waits to be taken (R97, R322). TINFO names the queue and the number, and has
no room for the lowest bit of a reserved field that R72 reports (log 47). -/
def Cmd.stop (k : Cmd) (q : Nat) (f : MFault) : Cmd :=
  { k with stopped := true, trap := some { origin := 2, cond := f.cond, addr := f.addr, engine := true,
                                           info := word (q * 2 ^ 62 + k.num % 2 ^ 56) } }

/-- An atomic increment of a flag or a barrier object (R112, R113). A word in a failing granule is left as it
is, with status 0x01 (log 31). -/
def bumpWord (s : State) (c q : Nat) (k : Cmd) (a : Word) : Except MFault (State × Cmd) :=
  let w := (s.ctx c).bind.who
  match translateWith s k.tables w a 8 .atomic with
  | .error f => if f.cond = 0x11 then .ok (s, k.meet 1) else .error f
  | .ok ks =>
    if ks.any (keyBad s) then .ok (s, k.meet 1)
    else .ok (storeKeys s (k.home c q) w a ks (toBytes 8 (ofBytes (memGetAll s.mem ks) + 1)), k)

/-- The future of a command resolved, or faulted with the status (R109, R92). -/
def futureAction (s : State) (c q : Nat) (k : Cmd) : State × Cmd :=
  match k.future with
  | none => (s, k)
  | some a =>
    let v := if k.status = 0 then futWord false k.num else futWord true k.status
    match resolveWith s k.tables (k.home c q) (s.ctx c).bind.who a v with
    | .error _ => (s, if k.status = 0 then { k with status := 7 } else k)
    | .ok (t, already) => (t, if already && k.status == 0 then { k with status := 5 } else k)

/-- The flag, barrier or future action of a command that has moved its bytes. -/
def endAction (s : State) (c q : Nat) (k : Cmd) : Except MFault (State × Cmd) :=
  match k.kind with
  | .rwr =>
    if k.aux = 0 ∨ k.unbound then .ok (s, k)
    else match bumpWord s c q k k.aux with
      | .error _ => .ok (s, k.meet 6)
      | r => r
  | .pref | .evict => bumpWord s c q k k.aux
  | .cpy | .cpyl | .tmov => .ok (futureAction s c q k)
  | _ => .ok (s, k)

/-- The completion word (R91). -/
def Cmd.token' (k : Cmd) (q : Nat) : Nat := k.status % 64 * 2 ^ 58 + q * 2 ^ 56 + k.num % 2 ^ 56

/-- A command completes: token, timeline, place (R89, R91). -/
def State.complete (s : State) (c q : Nat) (k : Cmd) : State :=
  s.onCtx c fun x =>
    let x := { x with eng := { x.eng with queues := x.eng.queues.set q ((x.eng.queues.getD q []).drop 1) } }
    (x.answer (.scalar k.token) (k.token' q) s.cycle).complete q k.num (k.agent c q).id

/-- Whether the host has acknowledged every PUT of a command, or is unreachable (R358). -/
def apertureDone (s : State) (k : Cmd) : Bool :=
  k.sent == 0 || (s.hostConn k.aux.toNat).dead ||
  (s.hostConn k.aux.toNat).unacked.all fun (m : Nat × Msg) => decide (k.sent < m.2.seq.toNat)

/-- A command without further beats completes, or stops at a fault of its last action. -/
def State.finishCmd (s : State) (c q : Nat) (k : Cmd) : State :=
  if !apertureDone s k then s.setHead c q k
  else
    let k := if k.sent ≠ 0 ∧ (s.hostConn k.aux.toNat).dead then k.meet 4 else k
    match endAction s c q k with
    | .error f => s.setHead c q (k.stop q f)
    | .ok (t, k) => t.complete c q k

/-- A step of a queue's head by its own step function. -/
def State.stepHead (s : State) (c q : Nat) (step : Cmd → Beat) : State :=
  let x := s.ctx c
  match x.eng.queues.getD q [] with
  | [] => s
  | k :: _ =>
    if !x.bound || k.stopped then s
    else if k.ended then s.finishCmd c q k
    else match step k with
      | .error f => s.setHead c q (k.stop q f)
      | .ok none => s
      | .ok (some (t, k)) => t.setHead c q k

end Sys2Proof.Machine
end

