-- ==== Sys2Proof/Machine/Append.lean ====
section
/-!
DEFINITION. Paged keys and values (spec/12, R245-R256): block tables, page headers, the free list, the append
unit's action, KVGATH and KVAPP.
-/

namespace Sys2Proof.Machine

/-! Records. -/

/-- A block table's header (R247) and its address. -/
structure BlockTable where
  at_    : Word
  pages  : Nat
  perList : Nat
  layers : Nat
  heads  : Nat
  free   : Word
  data   : Word
  hdr    : Word
  deriving DecidableEq, Repr

/-- The fields of a header. -/
def BlockTable.of (a : Word) (h : Nat) : BlockTable :=
  { at_ := a, pages := bitsOf h 287 256, perList := bitsOf h 239 224, layers := bitsOf h 223 208,
    heads := bitsOf h 207 192, free := word (bitsOf h 191 128), data := word (bitsOf h 127 64),
    hdr := word (bitsOf h 63 0) }

/-- The ranges of R247. -/
def BlockTable.inRange (t : BlockTable) : Bool :=
  decide (1 ≤ t.pages) && decide (t.pages ≤ 2 ^ 32 - 2) && decide (1 ≤ t.perList) && decide (1 ≤ t.layers) &&
  decide (t.layers ≤ 4096) && decide (1 ≤ t.heads) && decide (t.heads ≤ 256)

/-- The header of a block table read at issue, with its reserved fields and ranges (R247, R250, R257). -/
def readTable (s : State) (a : Word) (cond : Nat) : Except Stop BlockTable := do
  let bs ← s.mem? (readMem s s.who a 64)
  let h := ofBytes bs
  match reservedField h [(255, 240), (511, 288)] with
  | some lo => .error (s.fault 0x05 a (word lo))
  | none =>
    let t := BlockTable.of a h
    check (t.inRange = false) (s.fault cond)
    .ok t

/-- The words that a command keeps of a table. -/
def BlockTable.words (t : BlockTable) : List Word :=
  [t.at_, word t.pages, word t.perList, word t.layers, word t.heads, t.free, t.data, t.hdr]
/-- The table that a command keeps. -/
def BlockTable.ofWords (ws : List Word) : BlockTable :=
  { at_ := ws.getD 0 0, pages := (ws.getD 1 0).toNat, perList := (ws.getD 2 0).toNat, layers := (ws.getD 3 0).toNat,
    heads := (ws.getD 4 0).toNat, free := ws.getD 5 0, data := ws.getD 6 0, hdr := ws.getD 7 0 }

/-- The address of a page identifier (R248). -/
def BlockTable.idAt (t : BlockTable) (l h j : Nat) : Word :=
  addrAdd t.at_ (64 + 4 * ((l * t.heads + h) * t.perList + j) : Nat)
/-- The address of a page's header and of a slot's K row (R245). -/
def BlockTable.hdrAt (t : BlockTable) (id : Nat) : Word := addrAdd t.hdr (64 * id : Nat)
def BlockTable.rowAt (t : BlockTable) (id slot : Nat) : Word := addrAdd t.data (8192 * id + 512 * slot : Nat)

/-- Fields of a page header (R245). -/
def pageRefs (h : Nat) : Nat := bitsOf h 31 0
def pageFill (h : Nat) : Nat := bitsOf h 36 32
def slotState (h t : Nat) : Nat := h / 2 ^ (64 + 2 * t) % 4
def pageInvalid (h : Nat) : Bool :=
  pageRefs h == 0 || decide (16 < pageFill h) || (List.range 16).any fun t => slotState h t == 3
/-- The state field with slot t in state v. -/
def setSlot (states t v : Nat) : Nat := setBits states (2 * t + 1) (2 * t) v

/-! Accesses of the units. -/

/-- n bytes read with given tables: none where a granule or a table fails (R86, R97). -/
def readUnit (s : State) (tables : List Host.Cell) (w : Who) (a : Word) (n : Nat) (acc : Acc := .read) :
    Except MFault (Option (List Byte)) :=
  match translateWith s tables w a n acc with
  | .error f => if f.cond = 0x11 then .ok none else .error f
  | .ok ks => .ok (if ks.any (keyBad s) then none else some (memGetAll s.mem ks))

/-- A page identifier as a gather reads it: as its block table stood when the command issued, but for what the append
unit has rewritten since (R249, R278, log 9). -/
def readId (s : State) (tables : List Host.Cell) (w : Who) (a : Word) : Except MFault (Option Nat) :=
  match translateWith s tables w a 4 .read with
  | .error f => if f.cond = 0x11 then .ok none else .error f
  | .ok ks => .ok (if ks.any (keyBad s) then none else some (ofBytes (memGetAll tables ks)))

/-- An identifier rewritten by the append unit leaves every cache of the team (R249). -/
def State.renew (s : State) (team : Nat) (ks : List Nat) (bs : List Byte) : State :=
  { s with ctxs := s.ctxs.map fun (p : Nat × Ctx) =>
      if p.2.bind.who.team = team then
        (p.1, { p.2 with eng := { p.2.eng with queues := p.2.eng.queues.map fun q => q.map fun k =>
          if k.kind = .kvgath then { k with tables := memPutAll k.tables ks bs } else k } })
      else p }

/-- Writes one after another; rows are charged in beats to the context that the unit acts for (log 18). -/
def writeUnit (s : State) (g : Agent) (tables : List Host.Cell) (w : Who) :
    List (Word × List Byte) → Except MFault State
  | [] => .ok s
  | (a, bs) :: r => match translateWith s tables w a bs.length .write with
    | .error f => .error f
    | .ok ks =>
      if !keysReady s ks then .error ⟨0x11, a, 0⟩
      else
      let s := storeKeys s g w a ks bs
      writeUnit (if 256 ≤ bs.length then s.chargeKeys g.ctx (spaceUnit w.tile) ks else s)
        g tables w r

/-! The append unit's action (R255). -/

/-- How an action ends early: with a fault of `Translate` or a status, and the machine as it then stands, which
differs from the machine before by pops alone (R256). -/
inductive AppendEnd where
  | fault (s : State) (f : MFault)
  | status (s : State) (v : Nat)

/-- A read of an action: a fault, or status 0x01 where a granule fails. -/
def AppendEnd.read {α : Type} (s : State) (r : Except MFault (Option α)) : Except AppendEnd α :=
  match r with
  | .error f => .error (.fault s f)
  | .ok none => .error (.status s 1)
  | .ok (some v) => .ok v

/-- The action ends with a status when a condition holds. -/
def AppendEnd.when (bad : Prop) [Decidable bad] (s : State) (v : Nat) : Except AppendEnd Unit :=
  if bad then .error (.status s v) else .ok ()

/-- What an action appends: the slot and the 512 bytes of its two rows. -/
structure Append where
  layer : Nat
  head  : Nat
  pos   : Nat
  final : Bool
  rows  : List Byte

/-- `alloc` (R248, R255): the free list popped and the identifier checked. -/
def allocPage (s : State) (g : Agent) (tables : List Host.Cell) (w : Who) (t : BlockTable) :
    Except AppendEnd (State × Nat) := do
  let cb ← AppendEnd.read s (readUnit s tables w t.free 8 .atomic)
  let n := ofBytes cb
  AppendEnd.when (n = 0) s 0x14
  let ib ← AppendEnd.read s (readUnit s tables w (addrAdd t.free (8 + 4 * (n - 1) : Nat)) 4)
  let id := ofBytes ib
  match writeUnit s g tables w [(t.free, toBytes 8 (n - 1))] with
  | .error f => .error (.fault s f)
  | .ok u =>
    AppendEnd.when (t.pages ≤ id) u 0x17
    .ok (u, id)

/-- The page that an action appends to: its identifier, its header, and whether it is new (R255). -/
def findPage (s : State) (g : Agent) (tables : List Host.Cell) (w : Who) (t : BlockTable) (a : Append) :
    Except AppendEnd (State × Nat × Nat × Bool) := do
  let ib ← AppendEnd.read s (readUnit s tables w (t.idAt a.layer a.head (a.pos / 16)) 4 .atomic)
  let id := ofBytes ib
  if id = 0xFFFFFFFF then
    AppendEnd.when (a.pos % 16 ≠ 0) s 0x16
    let (u, n) ← allocPage s g tables w t
    .ok (u, n, 1, true)
  else
    AppendEnd.when (t.pages ≤ id) s 0x17
    let hb ← AppendEnd.read s (readUnit s tables w (t.hdrAt id) 64)
    AppendEnd.when (pageInvalid (ofBytes hb) = true) s 0x17
    .ok (s, id, ofBytes hb, false)

/-- The writes of an action, which land together or, at a fault, not at all. -/
def AppendEnd.writes (s : State) (g : Agent) (tables : List Host.Cell) (w : Who) (ws : List (Word × List Byte))
    (v : Nat) : Except AppendEnd (State × Nat) :=
  match writeUnit s g tables w ws with
  | .error f => if f.cond = 0x11 then .error (.status s 1) else .error (.fault s f)
  | .ok u => .ok (u, v)

/-- The identifier word of an action's page leaves the caches once it is written (R249). -/
def State.renewId (s : State) (tables : List Host.Cell) (w : Who) (ida : Word) (id : Nat) : State :=
  match translateWith s tables w ida 4 .write with
  | .ok ks => s.renew w.team ks (toBytes 4 id)
  | .error _ => s

/-- The action of R255: the machine after it and status 0x00 or 0x18. -/
def appendAct (s : State) (g : Agent) (tables : List Host.Cell) (w : Who) (t : BlockTable) (a : Append) :
    Except AppendEnd (State × Nat) := do
  let slot := a.pos % 16
  let ida := t.idAt a.layer a.head (a.pos / 16)
  let mark := if a.final then 2 else 1
  let (s, id, h, isNew) ← findPage s g tables w t a
  let st := slotState h slot
  let states := bitsOf h 95 64
  if st = 0 then
    AppendEnd.when (slot ≠ pageFill h) s 0x16
    if 2 ≤ pageRefs h then
      let (s, new) ← allocPage s g tables w t
      let old ← AppendEnd.read s (readUnit s tables w (t.rowAt id 0) (512 * slot))
      let (u, v) ← AppendEnd.writes s g tables w
        [(t.rowAt new slot, a.rows), (t.rowAt new 0, old), (ida, toBytes 4 new),
         (t.hdrAt id, toBytes 4 (pageRefs h - 1)),
         (t.hdrAt new, toBytes 64 (1 + (slot + 1) * 2 ^ 32 + setSlot (states % 2 ^ (2 * slot)) slot mark * 2 ^ 64))]
        0x18
      .ok (u.renewId tables w ida new, v)
    else
      let (u, v) ← AppendEnd.writes s g tables w
        ([(t.rowAt id slot, a.rows)] ++
         (if isNew then [(ida, toBytes 4 id),
            (t.hdrAt id, toBytes 64 (1 + 2 ^ 32 + setSlot 0 slot mark * 2 ^ 64))]
          else [(addrAdd (t.hdrAt id) 8, toBytes 4 (setSlot states slot mark)),
            (addrAdd (t.hdrAt id) 4, toBytes 4 (slot + 1))])) 0
      .ok (if isNew then u.renewId tables w ida id else u, v)
  else if st = 1 ∧ a.final then
    AppendEnd.writes s g tables w
      [(t.rowAt id slot, a.rows), (addrAdd (t.hdrAt id) 8, toBytes 4 (setSlot states slot mark))] 0
  else .error (.status s 0x15)

/-- The append unit as an agent (R343). -/
def appendAgent (c grp : Nat) : Agent := ⟨agentId 5 c grp 0, 5, c, false⟩

/-! KVGATH and KVAPP. -/

/-- KVGATH (R250): checks and issue. -/
def execKvgath (st : SReg) (ad ab : AReg) (sp : SReg) (q : Queue) (cls : Class) (sl : SReg) (v : BitVec 1)
    (pol : BitVec 2) (s : State) : Out :=
  s.finish do
    s.roomFor q.toNat cls.toNat
    let p := (s.rs sp).toNat
    let l := (s.rs sl).toNat
    let n := bitsOf p 47 32
    check (bitsOf p 63 48 ≠ 0 ∨ bitsOf l 63 32 ≠ 0 ∨ 1024 < n) (s.fault 0x16)
    let t ← readTable s (s.ra ab) 0x16
    check (t.layers ≤ bitsOf l 31 16 ∨ t.heads ≤ bitsOf l 15 0 ∨ 16 * t.perList < bitsOf p 31 0 + n) (s.fault 0x16)
    s.tokenPort st.toNat
    s.range (s.ra ad) (257 * n) .write
    ownWatch s (s.ra ad) (257 * n) false true
    .ok (s.issueCmd q.toNat
      { kind := .kvgath, token := st.toNat, cls := cls.toNat, dst := s.ra ad, src := s.ra ab, count := n,
        esz := 4 * v.toNat + pol.toNat, aux := s.rs sl, index := [bitsOf p 31 0], layout := t.words })

/-- KVAPP (R254): checks and issue. -/
def execKvapp (st : SReg) (ab as : AReg) (sp : SReg) (q : Queue) (cls : Class) (sl : SReg) (mode : BitVec 1)
    (s : State) : Out :=
  s.finish do
    s.roomFor q.toNat cls.toNat
    let p := (s.rs sp).toNat
    let l := (s.rs sl).toNat
    let src := s.ra as
    check (bitsOf p 63 32 ≠ 0 ∨ bitsOf l 63 32 ≠ 0 ∨ bufOff src % 64 ≠ 0) (s.fault 0x16)
    let t ← readTable s (s.ra ab) 0x16
    check (t.layers ≤ bitsOf l 31 16 ∨ t.heads ≤ bitsOf l 15 0 ∨ 16 * t.perList ≤ p) (s.fault 0x16)
    let ida := t.idAt (bitsOf l 31 16) (bitsOf l 15 0) (p / 16)
    s.tokenPort st.toNat
    s.range src 512 .read
    s.range ida 4 .atomic
    s.range t.free 8 .atomic
    ownWatch s src 512 true false
    ownWatch s ida 4 true true
    ownWatch s t.free 8 true true
    .ok (s.issueCmd q.toNat
      { kind := .kvapp, token := st.toNat, cls := cls.toNat, src := src, dst := s.ra ab, count := 1,
        esz := mode.toNat, aux := s.rs sl, index := [p], layout := t.words })

/-- The status of a gather from its state bytes (R251, R252). -/
def gatherStatus (met : Nat) (map : List Nat) : Nat :=
  let unwritten := map.any fun b => bitOf b 7 || bitOf b 5
  let prov := map.any (· == 1)
  if map.any (bitOf · 4) then 1
  else max met (if map.any (bitOf · 5) then 0x17
    else if unwritten then (if prov then 0x13 else 0x12) else if prov then 0x11 else 0)

/-- The state bytes of a gather in beats, then its status (R90, R251). -/
def gatherMap (s : State) (c q : Nat) (k : Cmd) : Beat :=
  let bs := k.map.map (BitVec.ofNat 8)
  let close (k : Cmd) : Cmd := { k with status := gatherStatus k.status k.map, ended := true }
  if k.count = 0 then .ok (some (s, close k))
  else match putPart s c q k (addrAdd k.dst (256 * k.count : Nat)) bs with
    | .error f => .error f
    | .ok (u, k') => .ok (some (u, if k'.pos = k.pos then k' else { close k' with pos := k.pos }))

/-- One position of a gather, or the state bytes after the last (R251). A position is one step of the beat order; one
that waits looks at its slot alone, in the page found before the wait. -/
def gatherStep (s : State) (c q : Nat) (k : Cmd) : Beat :=
  let w := (s.ctx c).bind.who
  let t := BlockTable.ofWords k.layout
  if k.count ≤ k.pos then gatherMap s c q k
  else
    let p := k.index.headD 0 + k.pos
    let slot := p % 16
    let next (r : State × Cmd) (b : Nat) : Beat :=
      .ok (some (r.1, { r.2 with pos := k.pos + 1, stage := 0, map := k.map ++ [b] }))
    let waits : Bool := k.stage == 1
    match (if waits then .ok (some k.page)
           else readId s k.tables w (t.idAt (bitsOf k.aux.toNat 31 16) (bitsOf k.aux.toNat 15 0) (p / 16))) with
    | .error f => .error f
    | .ok none => next (s, k) 0x90
    | .ok (some id) =>
    if waits = false ∧ id = 0xFFFFFFFF then next (s, k) 0xC0
    else if waits = false ∧ t.pages ≤ id then next (s, k) 0xA0
    else match readUnit s k.tables w (t.hdrAt id) 64 with
    | .error f => .error f
    | .ok none => next (s, k) 0x90
    | .ok (some hb) =>
    let h := ofBytes hb
    let st := slotState h slot
    let row : Beat := match getBytes s c k (addrAdd (t.rowAt id slot) (if bitOf k.esz 2 then 256 else 0)) 256 with
      | .error f => .error f
      | .ok (ks, bs) => match putBytes s c q k (addrAdd k.dst (256 * k.pos : Nat)) bs (ks.head?.map keySpace) with
        | .error f => .error f
        | .ok r => next r (if bs.any (·.isNone) then st + 0x90 else st)
    if !waits && pageInvalid h then next (s, k) 0xA0
    else if st = 2 then row
    else if st = 0 then next (s, k) 0x80
    else match k.esz % 4 with
      | 0 => row
      | 2 => next (s, k) 0x81
      | _ => .ok (some (s, { k with stage := 1, page := id }))

/-- KVGATH_SLOT_WAKE (R251): a gather that waits for a final row looks at the slot again. -/
def execKvgathSlotWake (c : Nat) (q : Queue) (s : State) : Out :=
  .next (s.stepHead c q.toNat fun k => if k.kind = .kvgath ∧ k.stage = 1 then gatherStep s c q.toNat k else .ok none)

/-- One step of KVAPP: source rows and the whole action (R255). An action that stops at a fault keeps the page it has
popped off the list (R256). -/
def appendStep (s : State) (c q : Nat) (k : Cmd) : Beat :=
  let w := (s.ctx c).bind.who
  let t := BlockTable.ofWords k.layout
  match getBytes s c k k.src 512 with
  | .error f => .error f
  | .ok (ks, bs) =>
    if bs.any (·.isNone) then .ok (some (s, { k with status := 1, ended := true }))
    else
      let a : Append := { layer := bitsOf k.aux.toNat 31 16, head := bitsOf k.aux.toNat 15 0, pos := k.index.headD 0,
                          final := bitOf k.esz 0, rows := bs.map (·.getD 0) }
      match appendAct s (appendAgent c k.group) k.tables w t a with
      | .ok (u, v) =>
        .ok (some (u.chargeKeys c (spaceUnit w.tile) ks,
                   { k with status := v, ended := true }))
      | .error (.status u v) => .ok (some (u, { k with status := v, ended := true }))
      | .error (.fault u f) => .ok (some (u, k.stop q f))

/-- APPEND_ACTION (R255). -/
def execAppendAction (c : Nat) (q : Queue) (s : State) : Out :=
  .next (s.stepHead c q.toNat fun k => if k.kind = .kvapp then appendStep s c q.toNat k else .ok none)

end Sys2Proof.Machine
end

