-- ==== Sys2Proof/Machine/Copy.lean ====
section
/-!
DEFINITION. The copy space (spec/05): CPY, CPYL with its layout record, GATH, SCAT, TMOV, RWR, PREF, EVICT,
CRED and its rounds, TLGET, the engines' beats and the traps they raise.
-/

namespace Sys2Proof.Machine

/-! CPY, TMOV, RWR, PREF, EVICT. -/

/-- A plain copy's command. -/
def plainCmd (s : State) (kind : CopyKind) (st : SReg) (ad as : AReg) (sn : SReg) (cls : Class) : Cmd :=
  { kind := kind, token := st.toNat, cls := cls.toNat, dst := s.ra ad, src := s.ra as, count := (s.rs sn).toNat }

/-- Watches over the two ranges of a copy (R340). -/
def watchCopy (s : State) (k : Cmd) : Except Stop Unit := do
  ownWatch s k.src k.count true false
  ownWatch s k.dst k.count false true

/-- CPY (R109). -/
def execCpy (st : SReg) (ad as : AReg) (sn : SReg) (q : Queue) (cls : Class) (sf : SReg) (s : State) : Out :=
  s.finish do
    s.roomFor q.toNat cls.toNat
    let k := plainCmd s .cpy st ad as sn cls
    s.tokenPort st.toNat
    s.range k.src k.count .read
    let ch ← s.destRange k.dst k.count
    s.atomicTarget (s.target sf)
    watchCopy s k
    s.watchTarget (s.target sf)
    .ok (s.issueCmd q.toNat { k with future := s.target sf, aux := word ch })

/-- The scratchpad that an index of R83 names for the issuer. -/
def State.scratch (s : State) (a : Word) : Option Nat := scratchSpace s.tile (bufIdx a)

/-- TMOV (R109). The host aperture, which is no scratchpad, faults with its rights instead (R358). -/
def execTmov (st : SReg) (ad as : AReg) (sn : SReg) (q : Queue) (cls : Class) (sf : SReg) (s : State) : Out :=
  s.finish do
    s.roomFor q.toNat cls.toNat
    let k := plainCmd s .tmov st ad as sn cls
    let ok := match s.scratch k.dst, s.scratch k.src with
      | some x, some y => spaceDieOf x == spaceDieOf y
      | some _, none => bufIdx k.src == 0xFE80
      | none, some _ => bufIdx k.dst == 0xFE80
      | none, none => bufIdx k.dst == 0xFE80 && bufIdx k.src == 0xFE80
    check (ok = false ∨ bufOff k.dst % 256 ≠ 0 ∨ bufOff k.src % 256 ≠ 0 ∨ k.count % 256 ≠ 0) (s.fault 0x16)
    s.tokenPort st.toNat
    s.range k.src k.count .read
    s.range k.dst k.count .write
    s.atomicTarget (s.target sf)
    watchCopy s k
    s.watchTarget (s.target sf)
    .ok (s.issueCmd q.toNat { k with future := s.target sf })

/-- RWR (R112). A flag offset beyond 48 bits is out of bounds, unless it is misaligned, which comes first (log 47). -/
def execRwr (st : SReg) (ad as : AReg) (sn : SReg) (q : Queue) (cls : Class) (sf : SReg) (s : State) : Out :=
  s.finish do
    s.roomFor q.toNat cls.toNat
    let k := plainCmd s .rwr st ad as sn cls
    check (bufIdx k.dst < 0xFE00 ∨ 0xFE80 < bufIdx k.dst) (s.fault 0x16)
    let flag := if sf = 0 then none else some (addrOf (bufIdx k.dst) (s.rs sf).toNat)
    s.tokenPort st.toNat
    s.range k.src k.count .read
    s.range k.dst k.count .write
    check (sf ≠ 0 ∧ 2 ^ 48 ≤ (s.rs sf).toNat) (s.fault (if (s.rs sf).toNat % 8 = 0 then 0x0C else 0x0D) k.dst)
    s.atomicTarget flag
    watchCopy s k
    s.watchTarget flag
    .ok (s.issueCmd q.toNat { k with aux := flag.getD 0 })

/-- Whether an address that PREF or EVICT names is of another tier, or of a scratchpad (R113). An address without a
descriptor that can be read has no tier: the range checks say why (R94). -/
def wrongTier (s : State) (a : Word) (tier : Nat) : Bool :=
  if (s.scratch a).isSome then true
  else if 0xFE00 ≤ bufIdx a ∨ s.who.btCount ≤ bufIdx a then false
  else match readEntry s s.mem s.who a with
    | .error _ => false
    | .ok e => entryTier e != tier

/-- PREF and EVICT (R113): source tier and destination tier are given. -/
def moveTier (s : State) (kind : CopyKind) (from_ to_ : Nat) (st : SReg) (ad as : AReg) (sn : SReg) (q : Queue)
    (cls : Class) (sb : SReg) : Out :=
  s.finish do
    s.roomFor q.toNat cls.toNat
    let k := plainCmd s kind st ad as sn cls
    check (wrongTier s k.src from_ = true ∨ wrongTier s k.dst to_ = true) (s.fault 0x16)
    s.tokenPort st.toNat
    s.range k.src k.count .read
    s.range k.dst k.count .write
    s.range (s.rs sb) 8 .atomic
    watchCopy s k
    ownWatch s (s.rs sb) 8 true true
    .ok (s.issueCmd q.toNat { k with aux := s.rs sb })

/-- PREF (R113). -/
def execPref (st : SReg) (ad as : AReg) (sn : SReg) (q : Queue) (cls : Class) (sb : SReg) (s : State) : Out :=
  moveTier s .pref 1 0 st ad as sn q cls sb
/-- EVICT (R113). -/
def execEvict (st : SReg) (ad as : AReg) (sn : SReg) (q : Queue) (cls : Class) (sb : SReg) (s : State) : Out :=
  moveTier s .evict 0 1 st ad as sn q cls sb

/-! CPYL. -/

/-- A layout record (R104-R106); dimensions at or above the rank are one element wide. -/
structure Layout where
  tag    : Tag
  rank   : Nat
  policy : Nat
  plane  : Bool
  put    : Bool
  fill   : Nat
  bank   : Nat
  shift  : Nat
  width  : Nat
  pitch  : Nat
  win    : List Nat
  org    : List Int
  size   : List Nat
  stride : List Int
  deriving DecidableEq, Repr

/-- The fields of the twelve words. -/
def Layout.of (ws : List Word) : Layout :=
  let w (i : Nat) : Nat := (ws.getD i 0).toNat
  let rank := bitsOf (w 0) 35 33
  let dims := List.range 6
  { tag := Tag.ofCode (bitsOf (w 0) 39 36), rank := rank, policy := bitsOf (w 0) 32 31, plane := bitOf (w 0) 30,
    put := bitOf (w 0) 29, fill := bitsOf (w 1) 31 0, bank := bitsOf (w 2) 39 38, shift := bitsOf (w 2) 37 35,
    width := bitsOf (w 2) 34 32, pitch := bitsOf (w 2) 31 0,
    win := dims.map fun i => if i < rank then bitsOf (w (3 + i)) 63 48 else 1,
    org := dims.map fun i => if i < rank then signed (bitsOf (w (3 + i)) 47 24) 24 else 0,
    size := dims.map fun i => if i < rank then bitsOf (w (3 + i)) 23 0 else 1,
    stride := dims.map fun i => if i < rank then signed (w (9 + i / 2) / 2 ^ (32 * (i % 2))) 32 else 0 }

/-- Element bytes, window width, number of runs and pitch (R108). -/
def Layout.eb (l : Layout) : Nat := l.tag.laneBytes
def Layout.w0 (l : Layout) : Nat := l.win.headD 0
def Layout.runs (l : Layout) : Nat := if l.w0 = 0 then 0 else l.win.tail.foldl (· * ·) 1
def Layout.step (l : Layout) : Nat := if l.pitch = 0 then l.w0 * l.eb else l.pitch

/-- Digits of a window position, dimension 0 fastest. -/
def digits : List Nat → Nat → List Nat
  | [], _ => []
  | w :: ws, e => e % w :: digits ws (e / w)

/-- Where an element of the window comes from (R108). -/
inductive Cell where
  | at_ (off : Int)
  | fill
  | skip
  deriving DecidableEq, Repr

/-- The sum of products of coordinates and strides. -/
def dot (cs ds : List Int) : Int := (cs.zipWith (· * ·) ds).foldl (· + ·) 0

/-- The element at window position e. -/
def Layout.cell (l : Layout) (e : Nat) : Cell :=
  let cs := (digits l.win e).zipWith (fun (j : Nat) o => o + (j : Int)) l.org
  let inside := (cs.zip l.size).all fun (c, n) => decide (0 ≤ c) && decide (c < (n : Int))
  if inside then .at_ (dot cs l.stride)
  else if l.put || l.policy == 2 then .skip
  else if l.policy = 1 ∧ l.size.all (· != 0) then
    .at_ (dot ((cs.zip l.size).map fun (c, n) => max 0 (min c ((n : Int) - 1))) l.stride)
  else .fill

/-- The dense address of window position e from base a, swizzled under bank mode 1 (R108). -/
def Layout.dense (l : Layout) (a : Word) (e : Nat) : Word :=
  let r := e / l.w0
  let p := addrAdd a (r * l.step + e % l.w0 * l.eb : Nat)
  if l.bank = 1 then p ^^^ word (r / 2 ^ l.shift % 2 ^ l.width % 32 * 64) else p

/-- The bytes of the dense window and, for a plane, of its groups (R108). -/
def Layout.denseBytes (l : Layout) : Nat :=
  if l.runs = 0 then 0
  else if l.plane then ceilDiv l.runs 64 * ceilDiv l.w0 32 * 256 * partsOf l.tag
  else (l.runs - 1) * l.step + l.w0 * l.eb

/-- The dense range that is checked: base and size (R108). -/
def Layout.denseRange (l : Layout) (a : Word) : Word × Nat :=
  let n := l.denseBytes
  if l.bank = 1 ∧ n ≠ 0 then
    let lo := bufOff a / 2048 * 2048
    (addrOf (bufIdx a) lo, ceilDiv (bufOff a + n) 2048 * 2048 - lo)
  else (a, n)

/-- Lowest and highest coordinate of dimension i that is read or written, none if there is none (R108). -/
def Layout.span (l : Layout) (i : Nat) : Option (Int × Int) :=
  let w := l.win.getD i 1
  let o := l.org.getD i 0
  let n := l.size.getD i 1
  let top : Int := (n : Int) - 1
  if !l.put && l.policy == 1 && l.size.all (· != 0) then
    some (max 0 (min o top), max 0 (min (o + (w : Int) - 1) top))
  else
    let lo := max o 0
    let hi := min (o + (w : Int) - 1) top
    if lo ≤ hi then some (lo, hi) else none

/-- The tensor range that is checked: its first byte's offset from the base, and its size (R108). -/
def Layout.tensorRange (l : Layout) : Option (Int × Nat) :=
  if l.runs = 0 then none
  else
    (List.range 6).foldl (fun (acc : Option (Int × Nat)) i =>
      match acc, l.span i with
      | some (lo, n), some (a, b) =>
        let d := l.stride.getD i 0
        some (lo + l.eb * min (a * d) (b * d), n + ((l.eb * (max (a * d) (b * d) - min (a * d) (b * d))).toNat))
      | _, _ => none) (some (0, l.eb))

/-- The conditions of "layout record invalid" (R107); `dense` and `dst` are buffer indices. -/
def Layout.invalid (l : Layout) (typeCode dense dst : Nat) : Bool :=
  l.rank == 0 || l.rank == 7 || l.policy == 3 || !(decide (1 ≤ typeCode) && decide (typeCode ≤ 7)) ||
  decide (2 ≤ l.bank) || decide (5 < l.width) || (l.pitch != 0 && decide (l.pitch < l.w0 * l.eb)) ||
  (l.bank != 0 && !(decide (0xFFFD ≤ dense) || (decide (0xFE00 ≤ dense) && decide (dense < 0xFE80)))) ||
  (l.plane && (l.put || l.tag == .fp32 || l.tag == .int32 || dst != 0xFFFF || l.pitch != 0 || l.bank != 0))

/-- The lowest reserved field of a layout record that is not zero, by bit number from word 0 (R102, R104, R105). -/
def layoutReserved (ws : List Word) : Option Nat :=
  match reservedField (ws.getD 0 0).toNat [(28, 0), (63, 56)] with
  | some lo => some lo
  | none => (reservedField (ws.getD 2 0).toNat [(63, 40)]).map (128 + ·)

/-- CPYL (R103-R108, R110). -/
def execCpyl (ad as : AReg) (sb : SReg) (q : Queue) (s : State) : Out :=
  s.finish do
    let ws := (List.range 12).map fun i => s.cx.s (sb.toNat + i)
    let w0 := (ws.headD 0).toNat
    let cls := bitsOf w0 49 46
    s.roomFor q.toNat cls
    let l := Layout.of ws
    let dst := s.ra ad
    let src := s.ra as
    let dense := if l.put then src else dst
    match layoutReserved ws with
    | some lo => .error (s.fault 0x05 (word sb.toNat) (word lo))
    | none =>
    check (l.invalid (bitsOf w0 39 36) (bufIdx dense) (bufIdx dst) = true) (s.fault 0x17)
    let (da, dn) := l.denseRange dense
    let (ta, tn) := match l.tensorRange with
      | none => (if l.put then dst else src, 0)
      | some (lo, n) => (addrAdd (if l.put then dst else src) lo, n)
    s.tokenPort (bitsOf w0 55 50)
    s.range (if l.put then da else ta) (if l.put then dn else tn) .read
    let ch ← s.destRange (if l.put then ta else da) (if l.put then tn else dn)
    let fut := s.target (BitVec.ofNat 6 (bitsOf w0 45 40))
    s.atomicTarget fut
    ownWatch s (if l.put then da else ta) (if l.put then dn else tn) true false
    ownWatch s (if l.put then ta else da) (if l.put then tn else dn) false true
    s.watchTarget fut
    .ok (s.issueCmd q.toNat { kind := .cpyl, token := bitsOf w0 55 50, cls := cls, dst := dst, src := src,
                              layout := ws, future := fut, aux := word ch })

/-- The place in the tensor of the present element of a plane-layout copy's group: row by row of 32 (R108). -/
def planeCell (k : Cmd) (l : Layout) : Cell :=
  let per := ceilDiv l.w0 32
  let i := k.data.length / l.eb
  let r := 64 * (k.pos / per) + i / 32
  let j := 32 * (k.pos % per) + i % 32
  if l.runs ≤ r ∨ l.w0 ≤ j then .skip else l.cell (r * l.w0 + j)

/-- The next beat of the reading of a group: bytes of one element (R90). Elements outside the tensor are +0. -/
def planeRead (s : State) (c : Nat) (k : Cmd) (l : Layout) : Except MFault Cmd :=
  let o := k.data.length % l.eb
  match planeCell k l with
  | .skip => .ok { k with data := k.data ++ List.replicate l.eb 0 }
  | .fill => .ok { k with data := k.data ++ toBytes l.eb l.fill }
  | .at_ off =>
    let a := addrAdd k.src (l.eb * off + o)
    let m := min (l.eb - o) (toBoundary a)
    match getBytes s c k a m with
    | .error f => .error f
    | .ok (_, bs) =>
      if bs.any (·.isNone) then .ok { k.meet 1 with data := k.data.take (k.data.length - o) ++ List.replicate l.eb 0 }
      else .ok { k with data := k.data ++ bs.map (·.getD 0) }

/-- The bytes of a group that has been read whole. -/
def planeBytes (k : Cmd) (l : Layout) : List Byte :=
  groupBytes l.tag ((List.range 2048).map fun i => splitElem l.tag (ofBytes ((k.data.drop (l.eb * i)).take l.eb)) 0) []

/-- One beat of a plane-layout copy (R90, R108): a group's elements are read, then the group is written. -/
def planeBeat (s : State) (c q : Nat) (k : Cmd) (l : Layout) : Beat :=
  if ceilDiv l.runs 64 * ceilDiv l.w0 32 ≤ k.pos then .ok (some (s, { k with ended := true }))
  else if k.data.length < 2048 * l.eb then (planeRead s c k l).map fun k => some (s, k)
  else
    let bytes := planeBytes k l
    (putPart s c q k (addrAdd k.dst (k.pos * bytes.length : Nat)) bytes).map fun r =>
      some (r.1, if r.2.pos = k.pos then r.2 else { r.2 with data := [] })

/-- Steps of a copy by elements: the command has ended with the last of n. -/
def Cmd.closing (k : Cmd) (n : Nat) : Cmd := { k with ended := decide (n ≤ k.pos) }

/-- One beat of a strided copy (R90, R108). -/
def stridedBeat (s : State) (c q : Nat) (k : Cmd) (l : Layout) : Beat :=
  let n := l.runs * l.w0
  if n ≤ k.pos then .ok (some (s, { k with ended := true }))
  else
    let r : Except MFault (State × Cmd) := match l.cell k.pos with
      | .skip => .ok (s, { k with pos := k.pos + 1 })
      | .fill => putPart s c q k (l.dense k.dst k.pos) (toBytes l.eb l.fill)
      | .at_ off =>
        if l.put then movePart s c q k (l.dense k.src k.pos) (addrAdd k.dst (l.eb * off)) l.eb
        else movePart s c q k (addrAdd k.src (l.eb * off)) (l.dense k.dst k.pos) l.eb
    r.map fun r => some (r.1, r.2.closing n)

/-! GATH and SCAT. -/

/-- Exposed results in flight to rows, as a bundle of group g finds them: its own results are none, since its reads come
before them (R37, R111, R212, R222). -/
def Ctx.landsIn (x : Ctx) (g now : Nat) (f : Nat → Bool) : Bool :=
  x.pend.any fun e => match e.dest with
    | .row r => f r && !(e.issued == now && e.group == g)
    | _ => false

/-- The indices of a list (R111): n lanes from row i of the row window, unrotated. -/
def indexRows (s : State) (i : Nat) : Nat → Nat → Except Stop (List Nat)
  | 0, _ => .ok []
  | fuel + 1, n =>
    if n = 0 then .ok []
    else
      let r := 256 * s.cx.regs.rowwin + i
      if 256 ≤ i ∨ s.cx.rowCount ≤ r then .error (s.fault 0x12)
      else if s.cx.landsIn s.grp s.cycle (· == r) then .error (.hold .scoreboard)
      else do
        rowCheck s (s.cx.row r) .int32
        let rest ← indexRows s (i + 1) fuel (n - 64)
        .ok ((lanesOf 64 32 (s.cx.row r).data.toNat).take n ++ rest)

/-- GATH and SCAT (R111). -/
def byIndex (s : State) (kind : CopyKind) (st : SReg) (ad as : AReg) (sn : SReg) (q : Queue) (cls : Class)
    (esz : BitVec 2) : Out :=
  s.finish do
    s.roomFor q.toNat cls.toNat
    let v := (s.rs sn).toNat
    let n := bitsOf v 31 16
    let e := 2 ^ esz.toNat
    check (1024 < n ∨ bitsOf v 63 32 ≠ 0 ∨ bitsOf v 15 13 ≠ 0 ∨ bitsOf v 4 0 ≠ 0) (s.fault 0x16)
    let is ← indexRows s (bitsOf v 12 5) 16 n
    let top := (is.filter (· != 0xFFFFFFFF)).foldl (fun m i => max m (i * e + e)) 0
    let gather := kind = .gath
    let rn := if gather then top else n * e
    let wn := if gather then n * e else top
    s.tokenPort st.toNat
    s.range (s.ra as) rn .read
    s.range (s.ra ad) wn .write
    ownWatch s (s.ra as) rn true false
    ownWatch s (s.ra ad) wn false true
    .ok (s.issueCmd q.toNat { kind := kind, token := st.toNat, cls := cls.toNat, dst := s.ra ad, src := s.ra as,
                              count := n, esz := e, index := is })

/-- GATH (R111). -/
def execGath (st : SReg) (ad as : AReg) (sn : SReg) (q : Queue) (cls : Class) (esz : BitVec 2) (s : State) : Out :=
  byIndex s .gath st ad as sn q cls esz
/-- SCAT (R111). -/
def execScat (st : SReg) (ad as : AReg) (sn : SReg) (q : Queue) (cls : Class) (esz : BitVec 2) (s : State) : Out :=
  byIndex s .scat st ad as sn q cls esz

/-- One beat of GATH or SCAT (R90, R111). -/
def indexBeat (s : State) (c q : Nat) (k : Cmd) : Beat :=
  if k.count ≤ k.pos then .ok (some (s, { k with ended := true }))
  else
    let i := k.index.getD k.pos 0
    let e := k.esz
    let r : Except MFault (State × Cmd) :=
      if k.kind = .gath then
        let d := addrAdd k.dst (k.pos * e : Nat)
        if i = 0xFFFFFFFF then putPart s c q k d (List.replicate e 0)
        else movePart s c q k (addrAdd k.src (i * e : Nat)) d e
      else if i = 0xFFFFFFFF then .ok (s, { k with pos := k.pos + 1 })
      else movePart s c q k (addrAdd k.src (k.pos * e : Nat)) (addrAdd k.dst (i * e : Nat)) e
    r.map fun r => some (r.1, r.2.closing k.count)

/-! CRED (R114, R115). -/

/-- A crew identifier that R293 refuses. -/
def crewInvalid (id : Word) : Bool :=
  decide (1 < id.toNat / 2 ^ 56) || (id.toNat / 2 ^ 56 == 0 && id.toNat / 2 ^ 48 % 256 != 0)

/-- The membership entry of a context in a crew (R293). -/
def Ctx.member? (x : Ctx) (id : Word) : Option Member := x.eng.crews.find? (·.crew == id)
/-- A membership entry changed. -/
def Ctx.onMember (x : Ctx) (id : Word) (f : Member → Member) : Ctx :=
  { x with eng := { x.eng with crews := x.eng.crews.map fun m => if m.crew = id then f m else m } }

/-- The crew that a syllable names, of which its strand must be a member (R293, R295). -/
def State.crewOf (s : State) (sc : SReg) : Except Stop Member :=
  let id := s.rs sc
  if crewInvalid id then .error (s.fault 0x21)
  else match s.cx.member? id with
    | none => .error (s.fault 0x22)
    | some m => .ok m

/-- CRED of an operator: 0 SUM, 1 MAX, 2 SMERGE (R114). -/
def issueCred (s : State) (op : Nat) (st : SReg) (ad as : AReg) (sn : SReg) (q : Queue) (cls : Class) (sc : SReg)
    (ty : BitVec 2) : Out :=
  s.finish do
    s.roomFor q.toNat cls.toNat
    let n := (s.rs sn).toNat
    check (2 ^ 24 < n ∨ (op = 2 ∧ (ty ≠ 0 ∨ n < 3))) (s.fault 0x16)
    let m ← s.crewOf sc
    let bytes := n * credBytes ty.toNat
    s.tokenPort st.toNat
    s.range (s.ra as) bytes .read
    s.range (s.ra ad) bytes .write
    ownWatch s (s.ra as) bytes true false
    ownWatch s (s.ra ad) bytes false true
    let t := s.issueCmd q.toNat
      { kind := .cred, token := st.toNat, cls := cls.toNat, dst := s.ra ad, src := s.ra as, count := n,
        esz := ty.toNat, aux := m.crew, layout := [word op], index := [m.creds] }
    .ok (t.up (·.onMember m.crew fun m => { m with creds := m.creds + 1 }))

/-- CRED.SUM (R114, R115). -/
def execCredSum (st : SReg) (ad as : AReg) (sn : SReg) (q : Queue) (cls : Class) (sc : SReg) (ty : BitVec 2)
    (s : State) : Out := issueCred s 0 st ad as sn q cls sc ty
/-- CRED.MAX (R114, R115). -/
def execCredMax (st : SReg) (ad as : AReg) (sn : SReg) (q : Queue) (cls : Class) (sc : SReg) (ty : BitVec 2)
    (s : State) : Out := issueCred s 1 st ad as sn q cls sc ty
/-- CRED.SMERGE (R114, R115). -/
def execCredSmerge (st : SReg) (ad as : AReg) (sn : SReg) (q : Queue) (cls : Class) (sc : SReg) (ty : BitVec 2)
    (s : State) : Out := issueCred s 2 st ad as sn q cls sc ty

/-- A contribution joins its member's round: the oldest that counts the member and lacks its contribution, or a
new one of the crew's members (R114, log 29). A piece goes to the contribution that it continues. -/
def Crew.contribute (c : Crew) (k : Contrib) : Crew :=
  let takes (r : Round) : Bool := r.members.any (·.1 == k.rank) && !r.contribs.any (·.rank == k.rank)
  let open_ (r : Round) : Bool := r.contribs.any fun d => d.rank == k.rank && !d.whole
  match c.rounds.find? open_ with
  | some r => { c with rounds := c.rounds.map fun (d : Round) =>
      if d.index = r.index then
        { d with contribs := d.contribs.map fun (e : Contrib) =>
            if e.rank = k.rank ∧ e.whole = false then { e with data := e.data ++ k.data } else e }
      else d }
  | none =>
  match c.rounds.find? takes with
  | some r => { c with rounds := c.rounds.map fun (d : Round) =>
      if d.index = r.index then { d with contribs := d.contribs ++ [k] } else d }
  | none =>
    let r : Round := { index := c.begun + 1, members := c.members, contribs := [k] }
    { c with rounds := c.rounds ++ [r], begun := c.begun + 1 }

/-- A contribution reaches its crew's home here. -/
def State.contribute (s : State) (id : Word) (k : Contrib) : State :=
  match s.crew? id with
  | some c => s.setCrew (c.contribute k)
  | none => s

/-- Missing bytes replaced by free values (log 14): a contribution with bytes in a failing granule. -/
def fillBytes (fresh : Nat) : List (Option Byte) → List Byte
  | [] => []
  | some b :: r => b :: fillBytes (fresh + 1) r
  | none :: r => Config.freeByte fresh :: fillBytes (fresh + 1) r

/-- The next beat of the reading of a CRED's contribution (R90, R114). Its data gathers in the command, and the places
of bytes that cannot be read in `map`. -/
def credRead (s : State) (c : Nat) (k : Cmd) : Beat :=
  let at_ := k.data.length
  let a := addrAdd k.src at_
  let n := min (k.count * credBytes k.esz - at_) (toBoundary a)
  match getBytes s c k a n with
  | .error f => .error f
  | .ok (ks, bs) =>
    let bad := (bs.zipIdx.filter (·.1.isNone)).map fun p => at_ + p.2
    let k := if bad.isEmpty then k else k.meet 1
    let t := { s with fresh := if bad.isEmpty then s.fresh else s.fresh + bs.length }
    .ok (some (t.chargeKeys c (spaceUnit (c / 16)) ks,
               { k with data := k.data ++ fillBytes s.fresh bs, map := k.map ++ bad }))

/-- One step of a CRED: its contribution, once those issued before on the crew are made; then, when the round
has ended, the result in beats (R114). -/
def credBeat (s : State) (c q : Nat) (k : Cmd) : Beat :=
  let x := s.ctx c
  match k.stage with
  | 0 =>
    let earlier := x.eng.queues.any fun l => l.any fun h =>
      h.kind == .cred && h.aux == k.aux && h.stage == 0 && decide (h.index.headD 0 < k.index.headD 0)
    if earlier then .ok none
    else match x.member? k.aux with
    | none => .ok (some (s, { k.meet 3 with ended := true }))
    | some m =>
    if k.data.length < k.count * credBytes k.esz then credRead s c k
    else
      let r : Contrib := { rank := m.rank, op := (k.layout.headD 0).toNat, ty := k.esz, nver := k.nver,
                           count := k.count, data := k.data }
      let k := { k with stage := 1, data := [] }
      if s.crewLocal k.aux then .ok (some (s.contribute k.aux r, k))
      else match s.peer? (s.crewHome k.aux) with
        | none => .ok (some (s, { k.meet 4 with ended := true }))
        | some _ =>
          .ok (some (s.toHome k.aux [6, x.bind.uid, r.op, r.ty, r.nver, r.count] r.data, k))
  | 1 =>
    if s.crewLocal k.aux || (s.peer? (s.crewHome k.aux)).isSome then .ok none
    else .ok (some (s, { k.meet 4 with ended := true }))
  | _ =>
    if k.data.length ≤ k.pos then .ok (some (s, { k with ended := true }))
    else
      let n := min (k.data.length - k.pos) (64 - (bufOff k.dst + k.pos) % 64)
      let bs := (List.range n).map fun i =>
        if k.map.contains (k.pos + i) then none else k.data[k.pos + i]?
      match putBytes s c q k (addrAdd k.dst k.pos) bs none with
      | .error f => .error f
      | .ok (s, k') => .ok (some (s, { k' with pos := k.pos + n, ended := decide (k.data.length ≤ k.pos + n) }))

/-- CRED_ROUND_COMPLETION (R114, R115): a round whose members have all contributed, or one of whose devices cannot be
reached (R360). -/
def execCredRoundCompletion (crew : Word) (s : State) : Out :=
  .next <| match s.crew? crew with
    | none => s
    | some c => match c.rounds.find? fun r => r.ready || s.roundDead r with
      | none => s
      | some r => (s.setCrew { c with rounds := c.rounds.filter (·.index != r.index) }).endRound crew r

/-! The engines. -/

/-- TLGET (R101). -/
def execTlget (sd : SReg) (tl : BitVec 6) (s : State) : Out :=
  .next (s.promise 1 (.scalar sd.toNat) (s.cx.timeline tl.toNat).completed)

/-- The next step of a command, KVAPP's action and a gather's wait apart (R90). -/
def beat (s : State) (c q : Nat) (k : Cmd) : Beat :=
  if bufIdx k.dst = 0xFE80 ∧ (k.kind = .cpy ∨ k.kind = .cpyl) ∧ !apertureFree s c q k then .ok none
  else match k.kind with
  | .cpy | .tmov | .rwr | .pref | .evict => plainBeat s c q k
  | .cpyl =>
    let l := Layout.of k.layout
    if l.plane then planeBeat s c q k l else stridedBeat s c q k l
  | .gath | .scat => indexBeat s c q k
  | .cred => credBeat s c q k
  | .kvgath => if k.stage = 1 then .ok none else gatherStep s c q k
  | .kvapp => .ok none

/-- COPY_BEAT (R90, R91, R97). -/
def execCopyBeat (c : Nat) (q : Queue) (s : State) : Out := .next (s.stepHead c q.toNat (beat s c q.toNat))

/-- An engine trap that waits (R97, R218): the trap and the group of its issuer. -/
def Ctx.engineTrap? (x : Ctx) : Option (Trap × Nat) :=
  match x.eng.queues.findSome? fun q => q.findSome? fun k => k.trap.map fun t => (t, k.group) with
  | some r => some r
  | none => x.eng.ops.findSome? fun o => o.trap.map fun t => (t, o.group)

/-- The first waiting engine trap is no longer waiting. -/
def Ctx.dropEngineTrap (x : Ctx) : Ctx :=
  let rec cmds : List Cmd → List Cmd
    | [] => []
    | k :: r => if k.trap.isSome then { k with trap := none } :: r else k :: cmds r
  let rec queues : List (List Cmd) → List (List Cmd)
    | [] => []
    | q :: r => if q.any (·.trap.isSome) then cmds q :: r else q :: queues r
  let rec ops : List MatOp → List MatOp
    | [] => []
    | o :: r => if o.trap.isSome then { o with trap := none } :: r else o :: ops r
  if x.eng.queues.any (·.any (·.trap.isSome)) then { x with eng := { x.eng with queues := queues x.eng.queues } }
  else { x with eng := { x.eng with ops := ops x.eng.ops } }

/-- ENGINE_TRAP (R97, R218, R323): at the bundle boundary of the issuing stream, or of the lockstep stream that
it has joined into. -/
def execEngineTrap (c : Nat) (s : State) : Out :=
  .next <|
    let x := s.ctx c
    match x.engineTrap? with
    | none => s
    | some (t, g) =>
      if x.mayTrap then (s.setCtx c x.dropEngineTrap).trapTo c (if g < x.streams.length then g else 0) t else s

end Sys2Proof.Machine
end

