-- ==== Sys2Proof/Machine/Crew.lean ====
section
/-!
DEFINITION. Crews (spec/14, R293-R296): CREWJOIN, CREWLEAVE, CBAR and the completion of a barrier generation.
-/

namespace Sys2Proof.Machine

/-- The result word of a join (R294). -/
def joinResult (status rank : Nat) : Word := word (status * 2 ^ 60 + rank)
/-- The result of a strand that has not joined. -/
def notJoined (status : Nat) : Word := joinResult status (2 ^ 32 - 1)

/-- A join at a crew's home (R294): the home after it, the status and the rank. -/
def State.joinHome (s : State) (id : Word) (team peer member : Nat) : State × Nat × Nat :=
  match s.crew? id with
  | none =>
    if 4096 ≤ s.crews.length then (s, 2, 2 ^ 32 - 1)
    else
      ({ s with crews := s.crews ++ [{ id := id, team := team, peer := peer, members := [(0, member)], nextRank := 1 }] },
        0, 0)
  | some c =>
    match c.members.find? (·.2 == member) with
    | some m => (s, 1, m.1)
    | none =>
    if team ≠ c.team ∧ team ≠ c.peer then (s, 5, 2 ^ 32 - 1)
    else if 2 ^ 32 ≤ c.nextRank then (s, 2, 2 ^ 32 - 1)
    else (s.setCrew { c with members := c.members ++ [(c.nextRank, member)], nextRank := c.nextRank + 1 }, 0, c.nextRank)

/-- A membership entry taken (R293). -/
def Ctx.join (x : Ctx) (id : Word) (rank : Nat) : Ctx :=
  { x with eng := { x.eng with crews := x.eng.crews ++ [{ crew := id, rank := rank }] } }

/-- The answer to a CREWJOIN (R294): the scalar, and the membership entry where the strand joined. -/
def Ctx.joined (x : Ctx) (id : Word) (result : Word) (now : Nat) : Ctx :=
  match x.eng.joins.find? (·.1 == id) with
  | none => x
  | some (_, sd) =>
    let x := { x with eng := { x.eng with joins := x.eng.joins.erase (id, sd) } }
    let x := if result.toNat / 2 ^ 60 = 0 then x.join id (result.toNat % 2 ^ 32) else x
    x.answer (.scalar sd) result.toNat now

/-- The joins under way whose crews satisfy a test get status 4: no answer can come any more (R294, R359). -/
def State.loseJoins (s : State) (f : Word → Bool) : State :=
  s.bound.foldl (fun s (p : Nat × Ctx) =>
    p.2.eng.joins.foldl (fun s (j : Word × Nat) =>
      if f j.1 then s.onCtx p.1 (·.joined j.1 (notJoined 4) s.cycle) else s) s) s

/-- Entry d of the peer table after a write: joins under way to a device whose entry is no longer what it was have
status 4, since no answer to them can come (R359, log 16). -/
def State.setPeers (s : State) (d : Nat) (peers : List (Nat × Word)) : State :=
  let t := { s with peers := peers }
  if (List.range 3).all fun i => Tab.get 0 s.peers (4 * d + i) == Tab.get 0 peers (4 * d + i) then t
  else t.loseJoins fun id => s.crewHome id == d && !s.crewLocal id

/-- Crews other than `id` that a context is in or on its way into. -/
def Ctx.otherCrews (x : Ctx) (id : Word) : Nat :=
  x.eng.crews.length + ((x.eng.joins.map (·.1)).eraseDups.filter (· != id)).length

/-- CREWJOIN (R294). A join under way to another home counts as one of the four; a second one of the same crew finds
its strand at the home. -/
def execCrewjoin (sd sc : SReg) (s : State) : Out :=
  s.finish do
    let id := s.rs sc
    check (crewInvalid id = true) (s.fault 0x21)
    let give (t : State) (v : Word) : State := t.promise 1 (.scalar sd.toNat) v.toNat
    match s.cx.member? id with
    | some m => .ok (give s (joinResult 1 m.rank))
    | none =>
      if 4 ≤ s.cx.otherCrews id then .ok (give s (notJoined 3))
      else if s.crewLocal id then
        let (t, status, rank) := s.joinHome id s.who.team s.who.peer s.cx.bind.uid
        .ok (give (if status = 0 then t.up (·.join id rank) else t) (joinResult status rank))
      else if (s.peer? (s.crewHome id)).isNone then .ok (give s (notJoined 4))
      else
        let t := s.up fun x => { x with eng := { x.eng with joins := x.eng.joins ++ [(id, sd.toNat)] } }
        .ok ((t.toHome id [1, s.cx.bind.uid, s.who.team] []).await (.scalar sd.toNat))

/-- CREWLEAVE (R295). -/
def execCrewleave (sc : SReg) (s : State) : Out :=
  s.finish do
    let m ← s.crewOf sc
    let t := s.leaveCrew m.crew s.cx.bind.uid s.agent.id
    .ok (t.up fun x => { x with eng := { x.eng with crews := x.eng.crews.filter fun (n : Member) => n.crew != m.crew } })

/-- CBAR (R295): the arrival, and the hold of the stream's later bundles. A release of the stream's stores. -/
def execCbar (sc : SReg) (s : State) : Out :=
  s.finish do
    let m ← s.crewOf sc
    s.afterStores 0xFFFF
    let t := (s.up (·.onMember m.crew fun (n : Member) => { n with pending := true, bars := n.bars + 1 })).upStream fun t =>
      { t with barrier := some (m.crew, m.rank), arrival := m.bars + 1 }
    if t.crewLocal m.crew then
      match t.crew? m.crew with
      | some c => .ok (t.setCrew (c.arrive (m.rank, t.cx.bind.uid) t.agent.id))
      | none => .ok t
    else .ok (t.toHome m.crew [4, t.cx.bind.uid, m.rank] [])

/-- CREW_GENERATION_COMPLETION (R295): every member has arrived or left. -/
def execCrewGenerationCompletion (crew : Word) (s : State) : Out :=
  .next <| match s.crew? crew with
    | none => s
    | some c =>
      if c.isOpen ∧ c.awaited.isEmpty then
        c.arrived.foldl (fun s m => s.tellBarrier crew c.by_ c.heard m) (s.setCrew c.nextGen)
      else s

end Sys2Proof.Machine
end

