-- ==== Sys2Proof/Machine/Exit.lean ====
section
/-!
DEFINITION. Early exit (spec/12, R257-R260): the confidence tests, the provisional copies, and Chervil.
-/

namespace Sys2Proof.Machine

/-! Confidence (R258): bounds with w fraction bits, refined until both round to the same code (log 6). -/

/-- ln of v/2^w, which lies from 1 to 2, in units of 2^-w. -/
def lnFixed (w v : Nat) : Nat :=
  let one := 2 ^ w
  let z := (v - one) * one / (v + one)
  let z2 := z * z / one
  let r := (List.range (w / 3 + 10)).foldl (fun (a : Nat × Nat) i => (a.1 * z2 / one, a.2 + a.1 / (2 * i + 1))) (z, 0)
  2 * r.2

/-- What any of these functions is off by at most, in units of 2^-w. -/
def fixedSlack (w : Nat) : Nat := 64 * w

/-- Bounds of 2^-(k + 1) to 2^-k, as 2^(f/2^n - k - 1) or 2^-k: in units of 2^-w. -/
def exp2Bounds (w k f n : Nat) : Nat × Nat :=
  let v := if f = 0 then 2 ^ w else
    let y := f * lnFixed w (2 ^ (w + 1)) / 2 ^ n
    ((List.range (w / 3 + 10)).foldl (fun (a : Nat × Nat) i =>
      let term := a.1 * y / 2 ^ w / (i + 1)
      (term, a.2 + term)) (2 ^ w, 2 ^ w)).2
  let k := if f = 0 then k else k + 1
  if w < k then (0, 1)
  else if f = 0 then (v / 2 ^ k, v / 2 ^ k)
  else ((v - fixedSlack w) / 2 ^ k, (v + fixedSlack w) / 2 ^ k + 1)

/-- Bounds of 2^d and of |d|·2^d for a d that is not above 0, in units of 2^-w. -/
def termBounds (w : Nat) (d : Val) : (Nat × Nat) × (Nat × Nat) :=
  match d with
  | .fin _ mag exp _ =>
    if 0 ≤ exp then
      if 2 * w < mag ∨ exp > 2 * w then ((0, 1), (0, 1))
      else
        let v := mag * 2 ^ exp.toNat
        let e := exp2Bounds w v 0 0
        (e, (e.1 * v, e.2 * v))
    else
      let n := (-exp).toNat
      let k := mag / 2 ^ n
      let f := (2 ^ n - mag % 2 ^ n) % 2 ^ n
      if 2 * w < k then ((0, 1), (0, 1))
      else
        let e := exp2Bounds w k f n
        (e, (e.1 * mag / 2 ^ n, ceilDiv (e.2 * mag) (2 ^ n)))
  | _ => ((2 ^ w, 2 ^ w), (0, 0))

/-- Bounds of log2 of v/2^w, at least 1, in units of 2^-w. -/
def log2Bounds (w v : Nat) : Nat × Nat :=
  let l := Nat.log2 v
  let e := (l - w) * 2 ^ w
  if v = 2 ^ l then (e, e)
  else
    let r := lnFixed w (v * 2 ^ w / 2 ^ l) * 2 ^ w / lnFixed w (2 ^ (w + 1))
    (e + (r - fixedSlack w), e + r + fixedSlack w)

/-- The greatest of some values, none a NaN. -/
def maxVal : List Val → Val
  | [] => .inf true
  | z :: r => let m := maxVal r
    if z.lt m then m else z

/-- The sums of lower and of upper bounds. -/
def sumBounds (bs : List (Nat × Nat)) : Nat × Nat := bs.foldl (fun a b => (a.1 + b.1, a.2 + b.2)) (0, 0)

/-- Bounds of the confidence over the differences z_j - m, in units of 2^-w (R258): MAXP 1/S, and ENT the entropy
log2 S - (Σ 2^d·d)/S. One difference is 0, so S is at least 1. -/
def confidenceBounds (ent : Bool) (ds : List Val) (w : Nat) : Nat × Nat :=
  let ts := ds.map (termBounds w)
  let s := sumBounds (ts.map (·.1))
  let u := sumBounds (ts.map (·.2))
  if ent then
    ((log2Bounds w s.1).1 + u.1 * 2 ^ w / s.2, (log2Bounds w s.2).2 + ceilDiv (u.2 * 2 ^ w) s.1)
  else (2 ^ (2 * w) / s.2, ceilDiv (2 ^ (2 * w)) s.1)

/-- A magnitude in units of 2^-w as a value. -/
def ofFixed (w v : Nat) : Val := if v = 0 then .zero false else .fin false v (-w) false

/-- The confidence as an FP32 code: exact, then rounded once. Both bounds round alike at some precision, since a
confidence that is a rational number has equal bounds at one, and any other keeps a distance from every point at
which rounding changes (log 6). -/
def confidence (ent : Bool) (nver : Nat) (ds : List Val) : Nat → Nat → Nat
  | 0, w => toFp32 nver (ofFixed w (confidenceBounds ent ds w).1)
  | n + 1, w =>
    let b := confidenceBounds ent ds w
    let lo := toFp32 nver (ofFixed w b.1)
    if lo = toFp32 nver (ofFixed w b.2) then lo else confidence ent nver ds n (2 * w)

/-- Whether a token exits (R258): logits and threshold as FP32 codes read under the numeric version. -/
def exits (ent : Bool) (nver : Nat) (logits : List Nat) (threshold : Nat) : Bool :=
  let rd (b : Nat) : Val := decodeFloat .fp32 (flushSource nver .fp32 b)
  let zs := logits.map rd
  let t := rd threshold
  let live := zs.filter fun z => z != .inf true
  if zs.any (fun z => z.isNan || z == .inf false) || live.isEmpty || t.isNan then false
  else
    let m := (maxVal live).negate
    let ds := live.map fun z => (z.add m).1
    let c := decodeFloat .fp32 (confidence ent nver ds 1200 320)
    if ent then !t.lt c else !c.lt t

/-! The checks at issue (R257). -/

/-- The page of each 64-byte piece of a buffer walked, once for a run of pieces on one page. -/
def walkPieces (s : State) (e : Nat) (a : Word) : List Nat → Option Nat → Except MFault Unit
  | [], _ => .ok ()
  | off :: r, last =>
    let pg := (interleave e off).2 / 2 ^ entryPage e
    if last = some pg then walkPieces s e a r last
    else match walk s s.mem e (addrOf (bufIdx a) off) pg with
      | .error f => .error f
      | .ok _ => walkPieces s e a r (some pg)

/-- `Translate` of a whole 64-byte aligned area of n pieces of 64 bytes. -/
def translateArea (s : State) (w : Who) (a : Word) (n : Nat) (acc : Acc) : Except MFault Unit :=
  match checkAccess s s.mem w a (64 * n) acc with
  | .error f => .error f
  | .ok (.scratch _) => .ok ()
  | .ok (.buffer e) => walkPieces s e a ((List.range n).map fun i => bufOff a + 64 * i) none

/-- A job card read with its reserved fields checked (R257, R302). -/
def readCard (s : State) (w : Who) (a : Word) : Except MFault Nat :=
  match readNum s w a 128 with
  | .error f => .error f
  | .ok c => match reservedField c cardReserved with
    | some lo => .error ⟨0x05, a, lo⟩
    | none => .ok c

/-- What CONFT works on (R257). -/
structure ExitOp where
  table  : BlockTable
  layer  : Nat
  pos    : Nat
  hidden : Word
  template : Word
  args   : Word
  deriving DecidableEq, Repr

/-- One state of position P at layer e read (R253, R259 step 1). -/
def sourceHere (s : State) (w : Who) (t : BlockTable) (e h pos : Nat) : Option Nat :=
  match readUnit s s.mem w (t.idAt e h (pos / 16)) 4 with
  | .ok (some ib) =>
    let id := ofBytes ib
    if t.pages ≤ id then none
    else match readUnit s s.mem w (t.hdrAt id) 64 with
      | .ok (some hb) =>
        let hd := ofBytes hb
        if pageInvalid hd || slotState hd (pos % 16) == 0 then none else some id
      | _ => none
  | _ => none

/-- One provisional copy of R259 step 3. -/
def provisional (s : State) (o : ExitOp) (l h : Nat) : State :=
  let w := s.who
  match sourceHere s w o.table o.layer h o.pos with
  | none => s
  | some id =>
    match translate s w (o.table.rowAt id (o.pos % 16)) 512 .read with
    | .error _ => s
    | .ok ks =>
      if ks.any (keyBad s) then s
      else
        let a : Append := { layer := l, head := h, pos := o.pos, final := false, rows := memGetAll s.mem ks }
        match appendAct s (appendAgent s.me s.grp) s.mem w o.table a with
        | .ok (u, _) => u.chargeKeys s.me (spaceUnit w.tile) ks
        | .error (.status u _) => u
        | .error (.fault u _) => u

/-- The copies of R259 step 3, layer by layer and head group by head group. -/
def provisionals (s : State) (o : ExitOp) : State :=
  (List.range (o.table.layers - o.layer - 1)).foldl (fun s i =>
    (List.range o.table.heads).foldl (fun s h => provisional s o (o.layer + 1 + i) h) s) s

/-- The exit record (R259). -/
def exitBytes (o : ExitOp) (c num : Nat) : List Byte :=
  toBytes 8 o.table.at_.toNat ++ toBytes 4 o.pos ++ toBytes 2 o.layer ++ toBytes 2 o.table.layers ++
  toBytes 2 o.table.heads ++ toBytes 6 0 ++ toBytes 8 o.hidden.toNat ++ toBytes 8 (c * 2 ^ 52 + num % 2 ^ 52) ++
  toBytes 24 0

/-- Chervil of a die changed. -/
def State.onChervil (s : State) (die : Nat) (f : Chervil → Chervil) : State :=
  { s with chervil := s.chervil.set die (f (s.chervil.getD die {})) }

/-- An exit record posted by the issuer (R259 step 4); pd stays pending. -/
def State.postExit (s : State) (o : ExitOp) (pd : Nat) : State :=
  let s := s.up (·.onTimeline 6 Timeline.next)
  let num := (s.cx.timeline 6).issued
  let rec_ : ExitRec := { bytes := exitBytes o s.me num, ctx := s.me, uid := s.cx.bind.uid, num := num, grp := s.grp }
  let p : Posting := { exit := rec_, who := s.who, template := o.template, args := o.args, pd := pd }
  let s := s.up fun x => { x with eng := { x.eng with exits := x.eng.exits + 1 } }
  (s.onChervil (dieOf s.tile) fun v => { v with postings := v.postings ++ [p] }).await (.pred pd)

/-- The checks and reads of R257: what CONFT works on, and the logits. -/
def readExit (s : State) (al : AReg) (sx : SReg) : Except Stop (ExitOp × List Byte) := do
  let at_ := s.rs sx
  let d ← s.mem? (readNum s s.who at_ 64)
  match reservedField d [(319, 240), (511, 333)] with
  | some lo => .error (s.fault 0x05 at_ (word lo))
  | none =>
    let c := bitsOf d 332 320
    let t ← readTable s (word (bitsOf d 63 0)) 0x1B
    let card ← s.mem? (readCard s s.who (word (bitsOf d 191 128)))
    let o : ExitOp := { table := t, layer := bitsOf d 239 224, pos := bitsOf d 223 192, hidden := word (bitsOf d 127 64),
                        template := word (bitsOf d 191 128), args := cardArgs card }
    check (c = 0 ∨ 4096 < c ∨ t.layers ≤ o.layer ∨ 16 * t.perList ≤ o.pos ∨ (s.ra al).toNat % 4 ≠ 0 ∨
      o.args.toNat % 64 ≠ 0) (s.fault 0x1B)
    s.mem? (translateArea s s.who o.args 8192 .write)
    let bs ← s.mem? (readMem s s.who (s.ra al) (4 * c))
    .ok (o, bs)

/-- The FP32 codes of a byte list. -/
def codes32 (bs : List Byte) : List Nat := (List.range (bs.length / 4)).map fun i => ofBytes ((bs.drop (4 * i)).take 4)

/-- CONFT (R257-R259). -/
def testExit (ent : Bool) (pd : PReg) (al : AReg) (sh sx : SReg) (s : State) : Out :=
  s.finish do
    s.afterStores 0xFFFF
    let (o, bs) ← readExit s al sx
    let there := (List.range o.table.heads).all fun h => (sourceHere s s.who o.table o.layer h o.pos).isSome
    if !exits ent s.cx.regs.nver (codes32 bs) ((s.rs sh).toNat % 2 ^ 32) || !there then
      .ok (s.promise 1 (.pred pd.toNat) 0)
    else if o.layer + 1 = o.table.layers then .ok (s.promise 1 (.pred pd.toNat) 1)
    else .ok ((provisionals s o).postExit o pd.toNat)

def execConftMaxp (pd : PReg) (al : AReg) (sh sx : SReg) (s : State) : Out := testExit false pd al sh sx s
def execConftEnt (pd : PReg) (al : AReg) (sh sx : SReg) (s : State) : Out := testExit true pd al sh sx s

/-! Chervil (R260). -/

/-- Chervil as the agent of a record (R343). -/
def chervilAgent (e : ExitRec) : Agent := ⟨agentId 6 e.ctx e.grp (e.num % 2 ^ 40), 5, e.ctx, false⟩

/-- The index of the group of a team and template. -/
def Chervil.group? (v : Chervil) (team : Nat) (template : Word) : Option Nat :=
  v.groups.findIdx? fun g => g.who.team == team && g.template == template

/-- Waiting records that one card may hold: at most 64, in consecutive slots (R260). -/
def cardRun : Nat → List ExitRec → List ExitRec
  | 0, _ => []
  | _, [] => []
  | _, [e] => [e]
  | n + 1, e :: f :: r =>
    if f.slot = e.slot + 1 ∧ f.slot % 4096 ≠ 0 ∧ f.at_ = addrAdd e.at_ 64 then e :: cardRun n (f :: r) else [e]

/-- A card formed from the oldest waiting records of group i, or the failure noted (R260). -/
def formCard (s : State) (die i : Nat) : State :=
  match (s.chervil.getD die {}).groups[i]? with
  | none => s
  | some g =>
    match readCard s g.who g.template with
    | .error f =>
      { s.onChervil die (fun v => { v with groups := v.groups.set i { g with retry := s.ticks + 4000 } }) with
        told := s.told ++ [.chervil g.who.team g.template f.cond] }
    | .ok c =>
      let run := cardRun 64 g.wait
      let c := setBits (setBits c 511 448 ((run.head?.map fun (e : ExitRec) => e.at_).getD 0).toNat) 383 352 run.length
      let q : Queued := { pos := 0, card := toBytes 128 c, team := g.who.team, peer := g.who.peer,
                          recs := run.map fun e => ⟨i * 2 ^ 64 + e.slot, e.uid, e.grp, e.num⟩ }
      s.onChervil die fun v => { v with
        groups := v.groups.set i { g with wait := g.wait.drop run.length, retry := 0 },
        formed := v.formed ++ [q] }

/-- Cards formed while 64 records of a group wait (R260). -/
def formFull (die i : Nat) : Nat → State → State
  | 0, s => s
  | n + 1, s => match (s.chervil.getD die {}).groups[i]? with
    | none => s
    | some g => if 64 ≤ g.wait.length ∧ g.retry = 0 then formFull die i n (formCard s die i) else s

/-- The issuer of a posted record learns it: pd lands (R259 step 5). -/
def State.exitPosted (s : State) (p : Posting) : State :=
  let x := s.ctx p.exit.ctx
  if x.bound ∧ x.bind.uid = p.exit.uid then
    s.onCtx p.exit.ctx fun x =>
      ({ x with eng := { x.eng with exits := x.eng.exits - 1 } }).answer (.pred p.pd) 1 s.cycle
  else s

/-- The places of a record slot, which a write with an uncorrectable error does not reach (R260). -/
def exitKeys (s : State) (w : Who) (a : Word) : Except MFault (List Nat) :=
  match translate s w a 64 .write with
  | .error f => .error f
  | .ok ks => if ks.any (keyBad s) then .error ⟨0x11, a, 0⟩ else .ok ks

/-- A posting's record written into the next slot, or the failure noted (R259, R260). -/
def writeExit (s : State) (die k : Nat) (p : Posting) : State :=
  let v := s.chervil.getD die {}
  let v := if (v.group? p.who.team p.template).isSome then v
    else { v with groups := v.groups ++ [{ who := p.who, template := p.template }] }
  let i := (v.group? p.who.team p.template).getD 0
  let g := v.groups.getD i { who := p.who, template := p.template }
  let at_ := addrAdd p.args (262144 * die + 64 * (g.count % 4096) : Nat)
  match exitKeys s p.who at_ with
  | .error f =>
    { s.onChervil die (fun v => { v with postings := v.postings.set k { p with retry := s.ticks + 4000 } }) with
      told := s.told ++ [.chervil p.who.team p.template f.cond] }
  | .ok ks =>
    let s := storeKeys s (chervilAgent p.exit) p.who at_ ks p.exit.bytes
    let e := { p.exit with slot := g.count, at_ := at_, tick := s.ticks }
    let g := { g with who := p.who, count := g.count + 1, wait := g.wait ++ [e], inUse := g.count :: g.inUse }
    let s := s.onChervil die fun w => { w with groups := v.groups.set i g, postings := w.postings.eraseIdx k }
    formFull die i 64 (s.exitPosted p)

/-- Whether the next record slot of a posting's group is free (R259). -/
def Chervil.slotFree (v : Chervil) (p : Posting) : Bool :=
  match v.group? p.who.team p.template with
  | none => true
  | some i => match v.groups[i]? with
    | none => true
    | some g => !g.inUse.any fun n => n % 4096 == g.count % 4096

/-- The first posting, none of its group before it, that a test allows and whose slot is free. -/
def Chervil.nextPosting (v : Chervil) (f : Posting → Bool) : Option (Nat × Posting) :=
  (v.postings.zipIdx.find? fun (p, k) => f p && v.slotFree p &&
    !((v.postings.take k).any fun q => q.who.team == p.who.team && q.template == p.template)).map fun (p, k) => (k, p)

/-- EXIT_RECORD_POSTING (R259). -/
def execExitRecordPosting (die : Nat) (s : State) : Out :=
  .next <| match (s.chervil.getD die {}).nextPosting (·.retry == 0) with
    | some (k, p) => writeExit s die k p
    | none => s

/-- CHERVIL_AGE_TIMEOUT (R260). -/
def execChervilAgeTimeout (die : Nat) (s : State) : Out :=
  .next <| match (s.chervil.getD die {}).groups.findIdx? fun g => g.retry == 0 && (match g.wait with
      | [] => false
      | e :: _ => decide (e.tick + 4000 ≤ s.ticks)) with
    | some i => formCard s die i
    | none => s

/-- CHERVIL_CARD_SUBMISSION (R260, R301). -/
def execChervilCardSubmission (die : Nat) (s : State) : Out :=
  .next <| match (s.chervil.getD die {}).formed with
    | [] => s
    | c :: r =>
      let k := die * 16 + 14
      let q := Tab.get ({} : LaunchQ) s.launch k
      if 4096 ≤ q.cards.length then s
      else
        { s.onChervil die (fun v => { v with formed := r }) with
          launch := Tab.set s.launch k { tail := q.tail + 1, cards := q.cards ++ [{ c with pos := q.tail }],
                                                since := Tab.set q.since q.tail s.ticks } }

/-- CHERVIL_RETRY (R260): a record write or a card that failed 4,000 ticks ago is tried again. -/
def execChervilRetry (die : Nat) (s : State) : Out :=
  .next <|
    let v := s.chervil.getD die {}
    match v.nextPosting fun p => p.retry != 0 && decide (p.retry ≤ s.ticks) with
    | some (k, p) => writeExit s die k { p with retry := 0 }
    | none => match v.groups.findIdx? fun g => g.retry != 0 && decide (g.retry ≤ s.ticks) with
      | some i => formFull die i 64 (formCard s die i)
      | none => s

end Sys2Proof.Machine
end

