-- ==== Sys2Proof/Machine/Host.lean ====
section
/-!
DEFINITION. The host and the fabric (spec/18): QFT connections, messages and their effects, the host window, the
answers of GET and TRACE, collectives across devices, resends and port status.
-/

namespace Sys2Proof.Machine

/-! Port status (R349, R354). -/

/-- A datagram dropped at a port, which counts it (R349, R359). The count stops at its largest value (log 39). -/
def State.dropAt (s : State) (port : Nat) : State :=
  let v := (Tab.get 0 s.portstat port).toNat
  { s with portstat := Tab.set s.portstat port (word (setBits v 63 32 (min (bitsOf v 63 32 + 1) (2 ^ 32 - 1)))) }

/-- NON_QFT_DATAGRAM (R349); a port that is not ready drops without counting (R362, log 39). -/
def execNonQftDatagram (port : Nat) (s : State) : Out := .next (if s.portReady port then s.dropAt port else s)

/-- PORT_LINK_CHANGE (R354). -/
def execPortLinkChange (port : Nat) (up : Bool) (s : State) : Out :=
  let v := (Tab.get 0 s.portstat port).toNat
  .next { s with portstat := Tab.set s.portstat port (word (setBits v 0 0 (if up then 1 else 0))) }

/-! Connections (R352). -/

/-- A message that answers another, on the reverse channel of its connection. -/
def State.reply (s : State) (m : Msg) (type : Nat) (target : Word) (body : List Byte) : State :=
  s.send m.port m.src m.chan type target body
/-- NAK with a reason (R351). -/
def State.nak (s : State) (m : Msg) (reason : Nat) : State := s.reply m 0x0A 0 (toBytes 8 reason)
/-- DONE with a status (R351). -/
def State.done (s : State) (m : Msg) (status : Nat) : State := s.reply m 0x06 0 (toBytes 8 status)

/-- The connection of a message. -/
def State.conn (s : State) (m : Msg) : Conn := Tab.get {} s.conns (s.linkKey m.port m.src m.chan)
/-- The connection of a message changed. -/
def State.onConn (s : State) (m : Msg) (f : Conn → Conn) : State :=
  { s with conns := Tab.set s.conns (s.linkKey m.port m.src m.chan) (f (s.conn m)) }

/-- The sender of a connection learns what has been received (R350, R352). -/
def Conn.acked (c : Conn) (ack now : Nat) : Conn :=
  let left := c.unacked.filter fun (p : Nat × Msg) => decide (ack < p.2.seq.toNat)
  if left.length < c.unacked.length then { c with unacked := left, resends := 0, timer := now } else c

/-- An acknowledgement of what a connection has performed; the manual gives it no message type (log 35). -/
def State.acknowledge (s : State) (m : Msg) : State :=
  let a : Msg := { port := m.port, src := s.addressOf m.port, version := 1, chan := m.chan, seq := 0,
                   ack := word ((s.conn m).expect - 1), target := 0, body := [] }
  { s with sent := s.sent ++ [(m.port, m.src, 0, a)] }

/-- A message taken in the order of its connection (R350, R352, R362): dropped, held, discarded or performed. -/
def State.receive (s : State) (m : Msg) (self : Arrival) (perform : State → State) : State :=
  if !s.portReady m.port || m.version != 1 || decide (1024 ≤ m.chan) || decide (8192 < m.body.length) then s
  else
    let s := s.onConn m (·.acked m.ack.toNat s.time)
    let c := s.conn m
    if m.seq.toNat < c.expect then s.acknowledge m
    else if c.expect < m.seq.toNat then
      (s.onConn m fun c => if c.held.any (·.1 == m.seq.toNat) then c
        else { c with held := c.held ++ [(m.seq.toNat, self)] }).nak m 4
    else
      let s := s.onConn m fun c => { c with expect := c.expect + 1 }
      let s := (perform s).acknowledge m
      let c := s.conn m
      match c.held.find? fun (p : Nat × Arrival) => p.1 == c.expect with
      | none => s
      | some (n, e) =>
        let s := s.onConn m fun c => { c with held := c.held.filter (·.1 != n) }
        match e with
        | .listed i => { s with agenda := i :: s.agenda }
        | .unlisted u => { s with fw := .unlisted u :: s.fw }

/-- A message of a type that R351 does not list is answered with NAK reason 1. -/
def State.unlisted (s : State) (m : Msg) : State := s.receive m (.unlisted m) (·.nak m 1)

/-! The window (R354, R355, R357, R359, R361). -/

/-- QSTAT as it reads (R355). -/
def JobQ.stat (j : JobQ) : Nat :=
  (if j.error then 4 else 0) + (if j.shadow.isSome then 2 else 0) + (if j.isIn then 1 else 0)

/-- A window register read: offsets not listed read 0 (R354, R361). -/
def State.window (s : State) (off : Nat) : Nat :=
  if off = 0x00 then s.devnum.toNat
  else if off = 0x08 then s.time
  else if off = 0x10 then s.hostLo.toNat
  else if off = 0x18 then s.hostHi.toNat
  else if off % 8 ≠ 0 then 0
  else if 0x100 ≤ off ∧ off ≤ 0x140 then (Tab.get 0 s.portstat ((off - 0x100) / 8)).toNat
  else if off = 0x200 then s.readyT.toNat % 2 ^ 64
  else if off = 0x208 then s.readyT.toNat / 2 ^ 64
  else if off = 0x210 then s.readyM.toNat
  else if off = 0x218 then s.fwstat.toNat
  else if off = 0x220 then s.pwrstat.toNat
  else if 0x100000 ≤ off ∧ off < 0x104000 then
    let j := Tab.get ({} : JobQ) s.jobqs ((off - 0x100000) / 64)
    match off % 64 with | 0 => j.tail | 8 => j.head | 16 => j.stat | _ => 0
  else if 0x200000 ≤ off ∧ off < 0x204000 then
    let c := (off - 0x200000) / 16
    if off % 16 = 0 then (Tab.get 0 s.chteam c).toNat else (Tab.get 0 s.chtab c).toNat
  else if 0x300000 ≤ off ∧ off < 0x302000 ∧ off % 32 < 24 then
    (Tab.get 0 s.peers (4 * ((off - 0x300000) / 32) + off % 32 / 8)).toNat
  else 0

/-- A job queue changed. -/
def State.onQueue (s : State) (q : Nat) (f : JobQ → JobQ) : State :=
  { s with jobqs := Tab.set s.jobqs q (f (Tab.get {} s.jobqs q)) }

/-- A window register written: others ignore writes (R354). -/
def State.setWindow (s : State) (off v : Nat) : State :=
  if off = 0x00 then { s with devnum := word (v % 256) }
  else if off = 0x10 then { s with hostLo := word v, hostSet := true }
  else if off = 0x18 then { s with hostHi := word v, hostHiSet := true }
  else if off % 8 ≠ 0 then s
  else if 0x100000 ≤ off ∧ off < 0x104000 then
    let q := (off - 0x100000) / 64
    match off % 64 with
    | 0 => s.onQueue q (·.writeTail v s.ticks)
    | 16 => if bitOf v 2 then s.onQueue q fun j => { j with error := false } else s
    | _ => s
  else if 0x200000 ≤ off ∧ off < 0x204000 then
    let c := (off - 0x200000) / 16
    if off % 16 = 0 then { s with chteam := Tab.set s.chteam c (word (v % 2 ^ 17)) }
    else { s with chtab := Tab.set s.chtab c (word v) }
  else if 0x300000 ≤ off ∧ off < 0x302000 ∧ off % 32 < 24 then
    let w := word (if off % 32 = 16 then v % 16 else v)
    let d := (off - 0x300000) / 32
    s.setPeers d (Tab.set s.peers (4 * d + off % 32 / 8) w)
  else s

/-- Whether an offset is a queue's QTAIL (R354). -/
def isTail (off : Nat) : Bool := decide (0x100000 ≤ off) && decide (off < 0x104000) && off % 64 == 0

/-- Work comes over the host port alone (R2): what a peer port would supply is refused with NAK reason 2 (log 35). -/
def State.fromHost (s : State) (m : Msg) (work : Bool) (perform : State → State) : State :=
  if work && m.port != 8 then s.nak m 2 else perform s

/-- QFT_WRITE (R351, R2). A body of another length than 8 B writes nothing (log 35). -/
def execQftWrite (m : Msg) (s : State) : Out :=
  .next <| s.receive m (.listed (.qftWrite m)) fun s => s.fromHost m (isTail m.target.toNat) fun s =>
    if m.body.length = 8 then s.setWindow m.target.toNat (ofBytes m.body) else s

/-- QFT_READ (R351). -/
def execQftRead (m : Msg) (s : State) : Out :=
  .next <| s.receive m (.listed (.qftRead m)) fun s => s.reply m 0x03 m.target (toBytes 8 (s.window m.target.toNat))

/-- QFT_READDATA (R351): the device asks for none, and takes it in its order. -/
def execQftReaddata (m : Msg) (s : State) : Out := .next (s.receive m (.listed (.qftReaddata m)) id)

/-- QFT_DONE (R351): likewise. The device asks for no GET and no LOAD, and its collective steps end by COLL messages (log
16). -/
def execQftDone (m : Msg) (s : State) : Out := .next (s.receive m (.listed (.qftDone m)) id)

/-! PUT and GET (R351, R357). -/

/-- The requester of a channel's team binding: none when it is not valid. -/
def State.channelWho (s : State) (chan : Nat) : Option Who :=
  let v := (Tab.get 0 s.chteam chan).toNat
  let t := (Tab.get 0 s.chtab chan).toNat
  if bitOf v 16 then
    some { ctx := 4096, team := v % 2 ^ 16, peer := v % 2 ^ 16, tile := 128, btChan := bitsOf t 63 56,
           btAddr := bitsOf t 55 16 * 4096, btCount := t % 2 ^ 16 + 1 }
  else none

/-- The reason of a refused access: 3 for bounds, 2 else (R351). -/
def nakReason (f : MFault) : Nat := if f.cond = 0x0C then 3 else 2

/-- The host or a peer as an agent (R341, R343). -/
def portAgent (port : Nat) : Agent :=
  if port = 8 then ⟨agentId 8 0 0 0, 2, 4096, false⟩ else ⟨agentId 7 0 0 (port % 16), 2, 4096, false⟩

/-- QFT_PUT (R351, R357). -/
def execQftPut (m : Msg) (s : State) : Out :=
  .next <| s.receive m (.listed (.qftPut m)) fun s =>
    match s.channelWho m.chan with
    | none => s.nak m 2
    | some w => match writeMem s (portAgent m.port) w m.target m.body with
      | .ok t => t
      | .error f => s.nak m (nakReason f)

/-- The PUT messages of a GET's answer (R351): bytes in pieces of 8,192. -/
def putPieces (s : State) (m : Msg) (target : Word) : Nat → List Byte → Nat → State
  | 0, _, _ => s
  | n + 1, bs, j =>
    if bs.isEmpty then s
    else putPieces (s.reply m 0x04 (target + word (8192 * j)) (bs.take 8192)) m target n (bs.drop 8192) (j + 1)

/-- QFT_GET (R351, R357). A byte that meets an uncorrectable error is refused like a failed check (log 35). -/
def execQftGet (m : Msg) (s : State) : Out :=
  .next <| s.receive m (.listed (.qftGet m)) fun s =>
    match s.channelWho m.chan with
    | none => s.nak m 2
    | some w => match readMem s w m.target (fieldAt m.body 0 8 % 2 ^ 32) with
      | .error f => s.nak m (nakReason f)
      | .ok bs => (putPieces s m (word (fieldAt m.body 8 8)) (bs.length / 8192 + 1) bs 0).done m 0

/-! LOAD (R351, R363, R65). -/

/-- The first LOAD gives each half of the host's address its reset value, unless a WRITE has set it (R354). -/
def State.firstLoad (s : State) (src : BitVec 128) : State :=
  let s := if s.hostSet then s else { s with hostLo := src.setWidth 64, hostSet := true }
  if s.hostHiSet then s else { s with hostHi := (src >>> 64).setWidth 64, hostHiSet := true }

/-- The bytes of a LOAD taken, with the last of them checked: an image by the boot ROM until one runs, on channel 0
alone, and a container by steward firmware then. -/
def State.takeLoad (s : State) (m : Msg) (last : Bool) : State :=
  if bitOf s.fwstat.toNat 0 then
    let bs := s.container ++ m.body
    if last || containerWhole bs then
      let (t, v) := ({ s with container := [] }).loadContainer bs
      t.done m v
    else { s with container := bs }
  else if m.chan ≠ 0 then s
  else
    let bs := s.image ++ m.body
    if last || imageWhole bs then
      let (t, v) := s.checkImage bs
      t.done m v
    else { s with image := bs }

/-- QFT_LOAD (R2, R351, R363). -/
def execQftLoad (m : Msg) (s : State) : Out :=
  .next <| s.receive m (.listed (.qftLoad m)) fun s => s.fromHost m true fun s =>
    (s.firstLoad m.src).takeLoad m false

/-- No LOAD follows a message's: what has been received is whole as it stands (R351, R364, log 38). -/
def State.loadEnds (s : State) (m : Msg) : State :=
  if s.container.isEmpty && s.image.isEmpty then s else s.takeLoad { m with body := [] } true

/-! TRACE (R344, R351). -/

/-- The bytes of a frame: nine words. -/
def frameBytes (ws : List Word) : List Byte := (ws.map (·.toNat)).flatMap (toBytes 8)

/-- PUT messages of frames, 113 whole ones to a message; `i` is the first frame's distance from f. -/
def sendFrames (s : State) (m : Msg) (target : Word) : Nat → Nat → List (List Word) → State
  | 0, _, _ => s
  | n + 1, i, fs =>
    if fs.isEmpty then s
    else sendFrames (s.reply m 0x04 (target + word (72 * i)) ((fs.take 113).flatMap frameBytes)) m target n (i + 113) (fs.drop 113)

/-- QFT_TRACE (R351): those of frames f to f + 1,023 that the ring still holds. -/
def execQftTrace (m : Msg) (s : State) : Out :=
  .next <| s.receive m (.listed (.qftTrace m)) fun s =>
    let t := Tab.get ({} : Trace) s.trace (fieldAt m.body 0 8 % 16)
    let f := fieldAt m.body 8 8
    let held := t.frames.filter fun (p : Nat × List Word) => decide (f ≤ p.1) && decide (p.1 < f + 1024)
    let first := (held.head?.map fun (p : Nat × List Word) => p.1 - f).getD 0
    (sendFrames s m (word (fieldAt m.body 16 8)) 10 first (held.map (·.2))).done m held.length

/-! Collectives (R359, R360). -/

/-- The device whose peer entry a message's source address matches (R359). -/
def State.peerOf (s : State) (m : Msg) : Option Nat :=
  (List.range 256).find? fun d =>
    let ctl := (Tab.get 0 s.peers (4 * d + 2)).toNat
    bitOf ctl 3 && d != s.devnum.toNat &&
    (Tab.get 0 s.peers (4 * d)).toNat + 2 ^ 64 * (Tab.get 0 s.peers (4 * d + 1)).toNat == m.src.toNat

/-- A member of another device at a crew homed here. -/
def State.rankOf (s : State) (id : Word) (member : Nat) : Option (Nat × Nat) :=
  (s.crew? id).bind fun c => c.members.find? (·.2 == member)

/-- What a COLL message does (R360, log 16). -/
def State.coll (s : State) (id : Word) (d port : Nat) (c : Coll) : State :=
  let member (who : Nat) : Nat := 2 ^ 64 * (d + 1) + who % 2 ^ 64
  let by_ := agentId 7 0 0 (port % 16)
  match c with
  | .join who team =>
    let peer := (Tab.get ({ who := { peer := team.toNat } } : TeamRec) s.teams team.toNat).who.peer
    let (t, status, rank) := s.joinHome id team.toNat peer (member who)
    t.sendColl d id [2, who, (joinResult status rank).toNat] []
  | .joined who result => match s.byUid who with
    | some c => s.onCtx c (·.joined id result s.cycle)
    | none => if result.toNat / 2 ^ 60 = 0 then s.toHome id [3, who] [] else s
  | .leave who => s.leaveHome id (member who) by_
  | .arrive who => match s.crew? id, s.rankOf id (member who) with
    | some c, some m => s.setCrew (c.arrive m by_)
    | _, _ => s
  | .release who rank upto => s.onStrand who (·.endBarrier id rank upto by_)
  | .contribute who op ty nver count data => match s.rankOf id (member who) with
    | some m => s.contribute id { rank := m.1, op := op, ty := ty, nver := nver, count := count, data := data }
    | none => s
  | .result who status data => match s.byUid who with
    | some c => s.onCtx c (·.giveRound id status data)
    | none => s

/-- QFT_COLL (R359, R360): from a device of the peer table only. -/
def execQftColl (m : Msg) (c : Coll) (s : State) : Out :=
  .next <|
    if !s.portReady m.port then s
    else match s.peerOf m with
    | none => s.dropAt m.port
    | some d => s.receive m (.listed (.qftColl m c)) fun s => s.coll m.target d m.port c

/-! NAK and resends (R352). -/

/-- Unacknowledged messages sent again. -/
def State.resend (s : State) (port : Nat) (addr : BitVec 128) (ms : List (Nat × Msg)) : State :=
  if s.portReady port then { s with sent := s.sent ++ ms.map fun (p : Nat × Msg) => (port, addr, p.1, p.2) } else s

/-- QFT_NAK (R352): a sequence gap makes the sender resend; other reasons report a refusal. -/
def execQftNak (m : Msg) (s : State) : Out :=
  .next <| s.receive m (.listed (.qftNak m)) fun s =>
    if ofBytes m.body = 4 then s.resend m.port m.src (s.conn m).unacked else s

/-- Devices reached through a port at an address. -/
def State.devicesAt (s : State) (port : Nat) (addr : BitVec 128) : List Nat :=
  (List.range 256).filter fun d =>
    let ctl := (Tab.get 0 s.peers (4 * d + 2)).toNat
    bitOf ctl 3 && ctl % 8 == port &&
    (Tab.get 0 s.peers (4 * d)).toNat + 2 ^ 64 * (Tab.get 0 s.peers (4 * d + 1)).toNat == addr.toNat

/-- A device has become unreachable: rounds with its members end, and joins toward it have status 4 (R294, R360). -/
def State.lostDevice (s : State) (d : Nat) : State :=
  let dead (r : Round) : Round :=
    if r.members.any fun m => decide (2 ^ 64 ≤ m.2) && memberDevice m.2 == d then { r with dead := true } else r
  let s := { s with crews := s.crews.map fun (c : Crew) => { c with rounds := c.rounds.map dead } }
  s.loseJoins fun id => s.crewHome id == d && !s.crewLocal id

/-- A connection's acknowledgement that may be late (R352): 20 µs without one make the sender resend; after 16 resends
the far end is unreachable. -/
def State.timeout (s : State) (k port : Nat) (peer : BitVec 128) (chan : Nat) : State :=
  let c : Conn := Tab.get {} s.conns k
  if c.unacked.isEmpty ∨ c.dead ∨ s.time < c.timer + 20000 then s
  else if c.resends < 16 then
    ({ s with conns := Tab.set s.conns k { c with resends := c.resends + 1, timer := s.time } }).resend port peer c.unacked
  else
    let s := { s with conns := Tab.set s.conns k { c with dead := true, unacked := [] } }
    if chan = 0 then (s.devicesAt port peer).foldl (fun s d => s.lostDevice d) s else s

/-- QFT_RESEND_TIMEOUT (R352): of the connections of a port to a peer's channel, under each address that the port has
had (R348). -/
def execQftResendTimeout (port : Nat) (peer : BitVec 128) (chan : Nat) (s : State) : Out :=
  .next <| ((s.conns.map (·.1)).filter fun k => k % 2 ^ 142 == connEnd port peer chan).foldl
    (fun s k => s.timeout k port peer chan) s

end Sys2Proof.Machine
end

