-- ==== Sys2Proof/Machine/Matrix.lean ====
section
/-!
DEFINITION. The matrix engine (spec/10): the loop-nest table, MGO and its checks, steps and their sums, MCLR,
MPLANE, MSNAP, MCFG, MSTOP, MWAIT and provenance. A step performs at one instant (log 4).
-/

namespace Sys2Proof.Machine

/-! The loop-nest table (R208-R211). -/

/-- Field `f` of level l (R208). -/
def Nest.level (n : Nest) (l f : Nat) : Int := (n.levels.getD l []).getD f 0
/-- Global field of code f (R209). -/
def Nest.global (n : Nest) (f : Nat) : Int := n.fields.getD (f - 8) 0
/-- A global field that is never negative. -/
def Nest.nat (n : Nest) (f : Nat) : Nat := (n.global f).toNat
/-- The bound of a level. -/
def Nest.bound (n : Nest) (l : Nat) : Nat := (n.level l 0).toNat

/-- The range of a field (R208, R209). -/
def fieldRange (f : Nat) : Int × Int :=
  match f with
  | 0 => (0, 2 ^ 32 - 1) | 1 | 2 => (-(2 ^ 31), 2 ^ 31 - 1) | 3 => (-15, 15) | 4 => (0, 15)
  | 8 | 9 | 10 => (0, 2 ^ 21 - 1) | 11 => (0, 15) | 12 => (3, 8) | 13 => (3, 7) | 14 => (0, 11)
  | 15 | 16 | 18 | 19 => (0, 64) | 17 | 20 => (0, 32) | _ => (0, 63)

/-- A field written. -/
def Nest.set (n : Nest) (l f : Nat) (v : Int) : Nest :=
  if f < 8 then { n with levels := n.levels.set l ((n.levels.getD l []).set f v) }
  else { n with fields := n.fields.set (f - 8) v }

/-- MSET and MSET.I (R211). The field holds its value from the next bundle of any stream that may start an
operation: the matrix slot issues once a cycle. -/
def writeNest (s : State) (level field : BitVec 6) (v : Int) : Out :=
  s.finish do
    let r := fieldRange field.toNat
    check (v < r.1 ∨ r.2 < v) (s.fault 0x18)
    .ok (s.up fun x => { x with eng := { x.eng with nest := x.eng.nest.set level.toNat field.toNat v } })

/-- MSET (R211). -/
def execMset (level field : BitVec 6) (sa : SReg) (s : State) : Out := writeNest s level field (s.rs sa).toInt
/-- MSET.I (R211). -/
def execMsetI (level field : BitVec 6) (imm : BitVec 13) (s : State) : Out := writeNest s level field imm.toInt

/-! What an operation reaches (R210, R212). -/

/-- Lowest and highest sum of base and strides of field f; a bound of 0 counts as 1 (R212). -/
def Nest.reach (n : Nest) (f : Nat) (base : Int) : Int × Int :=
  (List.range 6).foldl (fun (p : Int × Int) l =>
    let d := (max (n.bound l) 1 - 1 : Nat) * n.level l f
    (p.1 + min d 0, p.2 + max d 0)) (base, base)

/-- The tiles reached, as integers; levels of more than 32 tiles leave every pool. -/
def Nest.tiles (n : Nest) : List Int :=
  (List.range 6).foldl (fun ts l =>
    let d := n.level l 3
    if d = 0 then ts
    else (ts.flatMap fun (t : Int) => (List.range (min (max (n.bound l) 1) 32)).map fun (i : Nat) => t + (i : Int) * d).eraseDups)
    [n.global 11]

/-- Steps of an operation (R210). -/
def Nest.steps (n : Nest) : Nat := (List.range 6).foldl (fun p l => p * n.bound l) 1

/-- Tiles that steps reach, each with whether an M edge and an N edge hold there. -/
def Nest.regions (n : Nest) : List (Int × Bool × Bool) :=
  (List.range 6).foldl (fun ts l =>
    let b := n.bound l
    let d := n.level l 3
    let fl := (n.level l 4).toNat
    let is := if d = 0 then (if b = 0 then [] else if b = 1 then [0] else [0, b - 1]) else List.range (min b 32)
    (ts.flatMap fun (t, m, e) => is.map fun i =>
      let last := i + 1 == b
      (t + (i : Int) * d, m || (bitOf fl 1 && last), e || (bitOf fl 2 && last))).eraseDups)
    [(n.global 11, false, false)]

/-- The rows of a tile, from row 0, that the steps of a nest write (R210, R212). -/
def Nest.rowsOf (n : Nest) (t : Nat) : Nat :=
  n.regions.foldl (fun m (u, me, ne) =>
    if u = (t : Int) ∧ n.nat (if ne then 19 else 16) ≠ 0 then max m (n.nat (if me then 18 else 15)) else m) 0

/-- The rows of a tile, from row 0, that an operation will have written when it completes (R210, R212). One that MSTOP
has ended writes no more (R221). -/
def MatOp.covers (o : MatOp) (t : Nat) : Nat :=
  if o.stop then 0 else match o.kind with
  | .mclr => if o.tile = t then 64 else 0
  | .mplane => 0
  | .mgo => o.nest.rowsOf t

/-- Exposed results in flight to rows of tiles (R212, R222). -/
def Ctx.landingIn (x : Ctx) (g now : Nat) (ts : List Nat) : Bool := x.landsIn g now fun r => ts.contains (r / 64)

/-- At most four operations (R203). -/
def State.matRoom (s : State) : Except Stop Unit := check (4 ≤ s.cx.eng.ops.length) (.hold .full)

/-- An operation takes its number (R203). -/
def State.issueOp (s : State) (o : MatOp) : State :=
  let s := s.up (·.onTimeline 4 Timeline.next)
  let o := { o with num := (s.cx.timeline 4).issued, group := s.grp, nver := s.cx.regs.nver }
  s.up fun x => { x with eng := { x.eng with ops := x.eng.ops ++ [o] } }

/-- The address of an offset in the own unit scratchpad. -/
def ownUnit (off : Int) : Word := addrAdd (addrOf 0xFFFF 0) off

/-- Bytes lo to hi lie in the context's share (R83). -/
def State.inShare (s : State) (lo hi : Int) : Except Stop Unit :=
  let w := s.who
  if lo < (w.usBase : Int) then .error (s.fault 0x0C (ownUnit lo))
  else if (w.usBase + w.usSize : Int) < hi then .error (s.fault 0x0C (ownUnit (hi - 1)))
  else .ok ()

/-- B element bytes and K-row pitch (R207). -/
def Nest.bTag (n : Nest) : Tag := Tag.ofCode (n.nat 13)
def Nest.aTag (n : Nest) : Tag := Tag.ofCode (n.nat 12)
def Nest.pitch (n : Nest) : Nat := if n.nat 10 = 0 then 64 * n.bTag.laneBytes else n.nat 10
/-- The B source is the load-data queue. -/
def Nest.fromQueue (n : Nest) : Bool := bitOf (n.nat 21) 1
/-- The effective plane count p′ (R205, R209). -/
def Nest.planes (n : Nest) : Nat := if n.nat 14 = 0 then planesOf n.aTag else n.nat 14

/-- MGO (R212). The checks run even where a bound is 0. What no step writes, as where a bound or a limit is 0, it does
not own, and waits for no landing and no port there. -/
def execMgo (s : State) : Out :=
  s.finish do
    s.matRoom
    let x := s.cx
    let n := x.eng.nest
    let ts := n.tiles
    let here := ts.filterMap fun t => if 0 ≤ t ∧ t < (x.tileCount : Int) then some t.toNat else none
    let writes := here.filter fun t => n.rowsOf t != 0
    check (x.landingIn s.grp s.cycle writes = true) (.hold .scoreboard)
    let want : Tag := if n.aTag = .int8 ∧ n.bTag = .int8 then .int32
      else if n.aTag ≠ .int8 ∧ n.bTag ≠ .int8 then .fp32 else .empty
    check (want = .empty ∨ here.any (fun t => x.tileType t != want)) (s.fault 0x13)
    check (planesOf n.aTag < n.nat 14) (s.fault 0x18)
    check (n.nat 8 % 256 ≠ 0 ∨ (List.range 6).any (fun l => n.level l 1 % 256 != 0)) (s.fault 0x18)
    let (a0, a1) := n.reach 1 (n.global 8)
    s.inShare a0 (a1 + 256 * partsOf n.aTag)
    if n.fromQueue then .ok ()
    else do
      let eb := n.bTag.laneBytes
      check (n.nat 9 % 64 ≠ 0 ∨ n.nat 10 % 64 ≠ 0 ∨ (n.nat 10 ≠ 0 ∧ n.nat 10 < 64 * eb)) (s.fault 0x18)
      let (b0, b1) := n.reach 2 (n.global 9)
      s.inShare b0 (b1 + (31 * n.pitch + 64 * eb : Nat))
    check (here.length ≠ ts.length) (s.fault 0x12)
    if bitOf (n.nat 21) 0 then
      here.foldl (fun r t => match r with
        | .error e => .error e
        | .ok () =>
          let done := x.eng.ops.foldl (fun m o => max m (o.covers t)) 0
          ((List.range 64).drop done).foldl (fun r i => match r with
            | .error e => .error e
            | .ok () => rowCheck s (x.row (64 * t + i)) (x.tileType t)) (.ok ())) (.ok ())
    else .ok ()
    check (mayWrite x s.grp (writes.flatMap tileRows) = false) (s.fault 0x06)
    let mask := 2 ^ (n.nat 21 / 4)
    s.afterStores mask
    .ok (s.issueOp { kind := .mgo, nest := n, steps := n.steps, ctype := want.code,
                     tiles := writes, after := x.placedNow s.grp mask s.cycle })

/-- A tile that a matrix syllable names (R158, R212 step 5). -/
def State.tileHere (s : State) (t : Nat) : Except Stop Unit := check (s.cx.tileCount ≤ t) (s.fault 0x12)
/-- A syllable that changes an owned tile waits (R216, R222, R224). -/
def State.tileFree (s : State) (t : Nat) : Except Stop Unit := check (s.cx.owned.contains t = true) (.hold .owned)

/-- MCLR (R223). -/
def execMclr (t : TReg) (s : State) : Out :=
  s.finish do
    s.tileHere t.toNat
    s.tileFree t.toNat
    s.matRoom
    .ok (s.issueOp { kind := .mclr, steps := 1, tile := t.toNat, tiles := [t.toNat],
                     ctype := (s.cx.tileType t.toNat).code })

/-- MCFG (R222): the type governs bundles from the next cycle. -/
def execMcfg (t : TReg) (fmt : BitVec 4) (s : State) : Out :=
  s.finish do
    s.tileHere t.toNat
    s.tileFree t.toNat
    check (s.cx.landingIn s.grp s.cycle [t.toNat] = true) (.hold .scoreboard)
    .ok (s.expose 1 (.tileType t.toNat) fmt.toNat)

/-- MWAIT (R220). -/
def execMwait (s : State) : Out :=
  let t := s.cx.timeline 4
  s.finish (if t.completed < t.issued then .error (.hold (.steps t.issued)) else .ok s)

/-- MSTOP (R221). -/
def execMstop (s : State) : Out :=
  .next (s.up fun x => { x with eng := { x.eng with ops := x.eng.ops.map fun (o : MatOp) => { o with stop := true } } })

/-- MSNAP (R224, R326). -/
def execMsnap (td ts : TReg) (sd : SReg) (s : State) : Out :=
  s.finish do
    let x := s.cx
    s.tileHere td.toNat
    s.tileHere ts.toNat
    check (x.tileType td.toNat ≠ x.tileType ts.toNat) (s.fault 0x13)
    s.tileFree td.toNat
    check (x.pend.any (fun e => e.slot == 6 && !e.dest.isType) = true) (.hold .scoreboard)
    let v : Nat := match x.eng.ops.find? (·.tiles.contains ts.toNat) with
      | some o => o.num % 2 ^ 24 * 2 ^ 40 + o.step % 2 ^ 40
      | none => 2 ^ 64 - 1
    let t := (List.range 64).foldl (fun (s : State) i =>
      let r := x.row (64 * ts.toNat + i)
      s.expose 12 (.row (64 * td.toNat + i)) r.data.toNat r.tag) s
    .ok (t.exposeS 12 sd (word v))

/-- MPLANE (R225). -/
def execMplane (ad as : AReg) (sn : SReg) (fmt : BitVec 4) (s : State) : Out :=
  s.finish do
    let t := Tag.ofCode fmt.toNat
    let v := (s.rs sn).toNat
    let m := bitsOf v 6 0
    let g := bitsOf v 31 16
    let dst := s.ra ad
    let src := s.ra as
    let unit := if t = .nq4 then 16 else t.laneBytes
    check (bufIdx dst ≠ 0xFFFF ∨ bufIdx src ≠ 0xFFFF ∨ bufOff dst % 256 ≠ 0 ∨ bufOff src % unit ≠ 0 ∨
      bitsOf v 15 7 ≠ 0 ∨ bitsOf v 63 32 ≠ 0 ∨ 64 < m) (s.fault 0x18)
    if m = 0 ∨ g = 0 then .ok ()
    else do
      s.inShare (bufOff src) (bufOff src + (if t = .nq4 then 17 * m * g else 32 * m * g * t.laneBytes) : Nat)
      s.inShare (bufOff dst) (bufOff dst + 256 * partsOf t * g : Nat)
    s.matRoom
    s.afterStores 1
    .ok (s.issueOp { kind := .mplane, steps := if m = 0 then 0 else g, fmt := fmt.toNat, dst := dst, src := src,
                     rows := m, ctype := 0, after := s.cx.placedNow s.grp 1 s.cycle })

/-- MPROV (R227). -/
def execMprov (sd : SReg) (w : BitVec 3) (s : State) : Out :=
  .next (s.promise 1 (.scalar sd.toNat) (s.cx.eng.prov.getD w.toNat 0).toNat)

/-! Summation (R213-R215). -/

/-- K-group size and discard depth of a version (R213, R214). -/
def groupSize (nver : Nat) : Nat := match nver with | 1 => 8 | 2 => 16 | _ => 32
def groupDepth (nver : Nat) : Int := if nver = 1 then 26 else 47

/-- The first event, by k and then kind, among the operands of a K-group (R226): a NaN in B, 0·∞, or an
infinity in B. A second infinity's sign comes after the event of the first. -/
def operandEvent : List (Nat × Val × Val) → Option (Nat × Nat)
  | [] => none
  | (k, a, b) :: r => match b with
    | .nan => some (k, 2)
    | .inf _ => some (k, if a.isZero then 1 else 3)
    | _ => operandEvent r

/-- A finite product truncated to a multiple of 2^u, in units of 2^u, and whether a nonzero bit is discarded. -/
def truncTo (u : Int) (v : Val) : Int × Bool :=
  match v with
  | .fin n m e _ =>
    if u ≤ e then (signInt n (m * 2 ^ (e - u).toNat), false)
    else
      let d := 2 ^ (u - e).toNat
      (signInt n (m / d), m % d != 0)
  | _ => (0, false)

/-- GroupSum of a float K-group (R213, R214): the FP32 code and the indications. -/
def groupSum (nver : Nat) (ps : List (Val × Val)) : Nat × Ind :=
  let prods := ps.map fun (a, b) => a.mul b
  let vals := prods.map (·.1)
  let pos := vals.any (· == .inf false)
  let neg := vals.any (· == .inf true)
  let bad := prods.any (·.2) || (pos && neg)
  if vals.any (·.isNan) || (pos && neg) then (Tag.fp32.nan, indIf bad Ind.invalid)
  else if pos || neg then ((if neg then Tag.fp32.signBit else 0) + Tag.fp32.infCode, 0)
  else
    let fins := vals.filter fun v => !v.isZero
    if fins.isEmpty then (if vals.all (·.neg?) then Tag.fp32.signBit else 0, 0)
    else
      let tops := fins.map fun v => match v with
        | .fin _ m e _ => e + (Nat.log2 m : Int)
        | _ => 0
      let u := tops.tail.foldl max (tops.headD 0) - groupDepth nver
      let ts := fins.map (truncTo u)
      let t := (ts.map (·.1)).foldl (· + ·) 0
      let lost := indIf (ts.any (·.2)) Ind.inexact
      if t = 0 then (0, lost)
      else
        let (c, i) := roundFloat (nver == 1) nver (Val.ofMag (decide (t < 0)) t.natAbs u) .fp32
        (c, i ||| lost)

/-- AddGroup of floats (R213): the code, the indications, and whether it is ∞ + (−∞). -/
def addGroup (nver acc t : Nat) : Nat × Ind × Bool :=
  let (v, bad) := (readFp32 nver acc).add (readFp32 nver t)
  let (c, i) := roundFloat false nver v .fp32
  (c, i ||| indIf bad Ind.invalid, bad)

/-- The lesser of two events, by k and kind. -/
def firstEvent (a b : Option (Nat × Nat)) : Option (Nat × Nat) :=
  match a, b with
  | some (k, e), some (l, f) => if l < k ∨ (l = k ∧ f < e) then some (l, f) else some (k, e)
  | none, b => b
  | a, none => a

/-- One K-group added to a float cell: code, indications, event (R213, R226). `k0` is the group's first K index. -/
def floatCell (nver acc k0 : Nat) (ps : List (Nat × Val × Val)) : Nat × Ind × Option (Nat × Nat) :=
  let (t, i) := groupSum nver (ps.map (·.2))
  let (c, j, bad) := addGroup nver acc t
  let excess (d : Ind) : Bool := d &&& Ind.overflow != 0
  (c, i ||| j, firstEvent (operandEvent ps)
    (if bad then some (k0, 1) else if excess i || excess j then some (k0, 4) else none))

/-- One K-group added to an INT32 cell (R215). -/
def intCell (acc k0 : Nat) (ps : List (Int × Int)) : Nat × Ind × Option (Nat × Nat) :=
  let v := ps.foldl (fun a (x, y) => a + x * y) (signed acc 32)
  (wrapBits v 32, 0, if v < -(2 ^ 31) ∨ 2 ^ 31 ≤ v then some (k0, 5) else none)

/-! Steps. -/

/-- The indices of a step (R210). -/
def Nest.indices (n : Nest) (step : Nat) : List Nat := digits ((List.range 6).map n.bound) step

/-- Base and Σ index·stride of field f. -/
def Nest.at_ (n : Nest) (is : List Nat) (f : Nat) (base : Int) : Int :=
  base + dot (is.map fun (i : Nat) => (i : Int)) ((List.range 6).map fun l => n.level l f)

/-- Whether an edge flag's level stands at its last index (R210). -/
def Nest.edge (n : Nest) (is : List Nat) (bit : Nat) : Bool :=
  (List.range 6).any fun l => bitOf (n.level l 4).toNat bit && is.getD l 0 + 1 == n.bound l

/-- Whether a step initialises its tile (R210). -/
def Nest.initial (n : Nest) (is : List Nat) : Bool :=
  !bitOf (n.nat 21) 0 && (List.range 6).all fun l => !bitOf (n.level l 4).toNat 0 || is.getD l 0 == 0

/-- Bytes of the own unit scratchpad, or the address of a failing granule (R218). -/
def unitBytes (s : State) (tile off n : Nat) : Except Word (List Byte) :=
  let ks := keysFrom (keyOf (spaceUnit tile) off) n
  match ks.find? (keyBad s) with
  | some k => .error (addrOf 0xFFFF (keyOff k))
  | none => .ok (memGetAll s.mem ks)

/-- What a step of an operation comes to. -/
inductive StepEnd where
  | done (s : State) (o : MatOp)
  | wait
  | stop (t : Trap)

/-- An uncorrectable error of a step (R218). -/
def badGranule (a : Word) : Trap := { origin := 4, cond := 0x11, addr := a }

/-- A cell after a K-group: code, indications, event. -/
abbrev CellEnd := Nat × Ind × Option (Nat × Nat)

/-- One K-group added to a cell. -/
def cellStep (ints : Bool) (nver c k0 : Nat) (ps : List (Nat × Val × Val)) : CellEnd :=
  if ints then intCell c k0 (ps.map fun p => (p.2.1.scaled 0, p.2.2.scaled 0)) else floatCell nver c k0 ps

/-- The event of a step: kind, k, column, row. -/
abbrev StepEvent := Option (Nat × Nat × Nat × Nat)

/-- The first event among cells, by row and then column (R226). -/
def cellEvent (rows : List (List CellEnd)) : StepEvent :=
  rows.zipIdx.findSome? fun (row, m) => row.zipIdx.findSome? fun (c, n) =>
    c.2.2.map fun (e : Nat × Nat) => (e.2, e.1, n, m)

/-- The cells of a step over its K-groups in order: accumulators by row, indications, first event (R213). -/
def sumStep (ints : Bool) (nver kl : Nat) (a b : List (List Val)) (acc : List (List Nat)) :
    List (List Nat) × Ind × StepEvent :=
  let g := groupSize nver
  (List.range (ceilDiv kl g)).foldl (fun (st : List (List Nat) × Ind × StepEvent) i =>
    let k0 := i * g
    let ks := (List.range (min g (kl - k0))).map (k0 + ·)
    let rows : List (List CellEnd) := (st.1.zip a).map fun (row, am) => row.zipIdx.map fun (c, n) =>
      cellStep ints nver c k0 (ks.map fun k => (k, am.getD k (.zero false), (b.getD k []).getD n (.zero false)))
    (rows.map fun row => row.map (·.1),
     rows.foldl (fun i row => row.foldl (fun i c => i ||| c.2.1) i) st.2.1,
     match st.2.2 with
     | some e => some e
     | none => cellEvent rows)) (acc, 0, none)

/-- Results over a list, or the first error. -/
def mapAll {α β ε : Type} (f : α → Except ε β) : List α → Except ε (List β)
  | [] => .ok []
  | a :: r => match f a with
    | .error e => .error e
    | .ok b => match mapAll f r with
      | .error e => .error e
      | .ok bs => .ok (b :: bs)

/-- B rows of a step as codes: K-rows by columns, and the machine with the popped rows gone (R207, R218). -/
def wordOperand (s : State) (c : Nat) (n : Nest) (is : List Nat) (tile : Nat) : Except StepEnd (State × List (List Nat)) :=
  let t := n.bTag
  let eb := t.laneBytes
  if n.fromQueue then
    let x := s.ctx c
    let rows := x.eng.ldRows.take (8 * eb)
    if rows.length < 8 * eb then .error .wait
    else match rows.find? fun r => r.tag != t with
    | some r =>
      if r.tag = .deferred then
        match deferredTrap r with
        | .trap e => .error (.stop e)
        | .hold _ => .error .wait
      else .error (.stop { origin := 4, cond := if r.tag = .empty then 0x14 else 0x13 })
    | none =>
      let codes := rows.flatMap fun r => lanesOf t.lanes t.laneBits r.data.toNat
      .ok (s.onCtx c fun x => { x with eng := { x.eng with ldRows := x.eng.ldRows.drop (8 * eb) } },
        (List.range 32).map fun k => (codes.drop (64 * k)).take 64)
  else
    let b0 := (n.at_ is 2 (n.global 9)).toNat
    match mapAll (fun k => (unitBytes s tile (b0 + k * n.pitch) (64 * eb)).map (elemCodes eb 64)) (List.range 32) with
    | .error a => .error (.stop (badGranule a))
    | .ok rs => .ok (s, rs)

/-- The parts of an A group that a step reads, as numbers (R204, R205); planes below the declared ones read 0. -/
def planeParts (s : State) (tile a0 pp : Nat) (t : Tag) : Except Word (List Nat) :=
  mapAll (fun j =>
    if pp < j ∧ j ≤ planesOf t then .ok 0 else (unitBytes s tile (a0 + 256 * j) 256).map ofBytes) (List.range (partsOf t))

/-- One step of MGO (R210-R215). -/
def mgoStep (s : State) (c : Nat) (o : MatOp) : StepEnd :=
  let n := o.nest
  let w := (s.ctx c).bind.who
  let is := n.indices o.step
  let mr := n.nat (if n.edge is 1 then 18 else 15)
  let nc := n.nat (if n.edge is 2 then 19 else 16)
  let kl := n.nat (if n.edge is 3 then 20 else 17)
  let tile := (n.at_ is 3 (n.global 11)).toNat
  match planeParts s w.tile (n.at_ is 1 (n.global 8)).toNat n.planes n.aTag with
  | .error a => .stop (badGranule a)
  | .ok parts =>
  match wordOperand s c n is w.tile with
  | .error e => e
  | .ok (s, codes) =>
    let x := s.ctx c
    let ints := n.aTag = .int8
    let b := (codes.take kl).map fun row => (row.take nc).map fun v =>
      decodeElem n.bTag (flushSource o.nver n.bTag v)
    let a := (List.range mr).map fun m => (List.range kl).map fun k => planeVal n.aTag o.nver n.planes parts m k
    let old := (List.range mr).map fun m => lanesOf 64 32 (x.row (64 * tile + m)).data.toNat
    let acc := old.map fun row => if n.initial is then List.replicate nc 0 else row.take nc
    let (out, ind, ev) := sumStep ints o.nver kl a b acc
    let tag := x.tileType tile
    let x := if nc = 0 then x else (out.zip old).zipIdx.foldl (fun (x : Ctx) p =>
      x.setRow (64 * tile + p.2) ⟨tag, BitVec.ofNat 2048 (ofLanes 32 (p.1.1 ++ p.1.2.drop nc))⟩) x
    .done ((s.setCtx c x).charge c 2 n.planes)
      { o with step := o.step + 1, ind := o.ind ||| ind,
               event := match o.event with
                 | some e => some e
                 | none => ev.map fun (kind, k, col, row) =>
                     { kind := kind, step := o.step, k := k, col := col, row := row, tile := tile } }

/-- The step of MCLR (R223). -/
def mclrStep (s : State) (c : Nat) (o : MatOp) : StepEnd :=
  .done (s.onCtx c fun x => (List.range 64).foldl (fun (x : Ctx) i =>
    x.setRow (64 * o.tile + i) ⟨x.tileType o.tile, 0⟩) x) { o with step := o.step + 1 }

/-- One step of MPLANE (R225): a group. -/
def mplaneStep (s : State) (c : Nat) (o : MatOp) : StepEnd :=
  let w := (s.ctx c).bind.who
  let t := Tag.ofCode o.fmt
  let g := o.step
  let per := o.steps
  let src := bufOff o.src
  let row (m : Nat) : Except Word (List Nat × Nat) :=
    if t = .nq4 then
      match unitBytes s w.tile (src + 16 * (m * per + g)) 16 with
      | .error a => .error a
      | .ok bs => match unitBytes s w.tile (src + 16 * o.rows * per + m * per + g) 1 with
        | .error a => .error a
        | .ok sb => .ok (lanesOf 32 4 (ofBytes bs), ofBytes sb)
    else match unitBytes s w.tile (src + (m * 32 * per + 32 * g) * t.laneBytes) (32 * t.laneBytes) with
      | .error a => .error a
      | .ok bs => .ok (elemCodes t.laneBytes 32 bs, 0)
  match mapAll row (List.range o.rows) with
  | .error a => .stop (badGranule a)
  | .ok rows =>
    let es := rows.flatMap fun (cs, sb) => cs.map fun v => splitElem t v sb
    let bytes := groupBytes t (es ++ List.replicate (2048 - es.length) Elem.zero) (rows.map (·.2))
    let dst := addrAdd o.dst (g * 256 * partsOf t : Nat)
    let agent : Agent := ⟨agentId 3 c o.group (o.num % 2 ^ 40), 4, c, false⟩
    let t' : State := match writeMem s agent w dst bytes with
      | .ok u => u
      | .error _ => s
    let gone := es.findIdx? (·.gone != 0)
    .done t' { o with step := g + 1,
                      ind := o.ind ||| indIf (es.any (·.gone == 2)) Ind.saturation,
                      event := match o.event, gone with
                        | some e, _ => some e
                        | none, some i => some { kind := 6, step := g, k := i % 32, col := 0, row := i / 32, tile := 0 }
                        | none, none => none }

/-- The provenance record of an operation (R226). -/
def MatOp.record (o : MatOp) : List Word :=
  let ev := o.event.getD ⟨0, 0, 0, 0, 0, 0⟩
  let n := o.nest
  let g := o.kind = .mgo
  [word o.num,
   word ((if o.stop then 1 else 0) * 2 ^ 12 + ev.kind * 2 ^ 8 + o.ind.toNat),
   word (ev.step % 2 ^ 40 * 2 ^ 24 + ev.k % 64 * 2 ^ 18 + ev.col % 64 * 2 ^ 12 + ev.row % 64 * 2 ^ 6 + ev.tile % 16),
   word (o.step % 2 ^ 40),
   word (o.nver * 2 ^ 18 + o.ctype * 2 ^ 14 + (if g then n.nat 13 * 2 ^ 10 + n.nat 12 * 2 ^ 6 + n.planes * 4 +
      n.nat 21 % 4 else if o.kind = .mplane then o.fmt * 2 ^ 6 else 0)),
   0, 0, 0]

/-- An operation completes: number, tiles, record (R203, R217, R226). -/
def State.endOp (s : State) (c : Nat) (o : MatOp) : State :=
  s.onCtx c fun x =>
    let x := { x with eng := { x.eng with ops := x.eng.ops.drop 1, prov := o.record } }
    x.complete 4 o.num (agentId 3 c o.group (o.num % 2 ^ 40))

/-- The operation at the head replaced, or completed when no step remains (R203). -/
def State.setOp (s : State) (c : Nat) (o : MatOp) : State :=
  if o.steps ≤ o.step then s.endOp c o
  else s.onCtx c fun x => { x with eng := { x.eng with ops := o :: x.eng.ops.drop 1 } }

/-- MATRIX_STEP (R203, R213, R218, R221): one step of the oldest operation, once the rows of its class that
its own bundle has stored are written (R264). An operation stopped by MSTOP completes once the trap that it may have raised is taken. -/
def execMatrixStep (c : Nat) (s : State) : Out :=
  .next <|
    let x := s.ctx c
    match x.eng.ops with
    | [] => s
    | o :: _ =>
      if !x.bound || o.trap.isSome then s
      else if o.stop ∨ o.steps ≤ o.step then s.endOp c o
      else if o.stopped || !x.writtenTo o.after then s
      else match (match o.kind with
        | .mgo => mgoStep s c o
        | .mclr => mclrStep s c o
        | .mplane => mplaneStep s c o) with
      | .done t o => t.setOp c o
      | .wait => s
      | .stop t =>
        let t := { t with engine := true, info := word (o.num % 2 ^ 24 * 2 ^ 40 + o.step % 2 ^ 40) }
        s.onCtx c fun x => { x with eng := { x.eng with
          ops := { o with stopped := true, trap := some t } :: x.eng.ops.drop 1 } }

end Sys2Proof.Machine
end

