-- ==== Sys2Proof/Machine/Power.lean ====
section
/-!
DEFINITION. Bring-up, power and heat (R361, R365, R366).
-/

namespace Sys2Proof.Machine

/-- Bits 7:0 of READYM are stacks, 9:8 halves, 18:10 ports, 26:19 steward cores (R361). -/
def readyBit : Function → Option Nat
  | .tile _ => none
  | .fast n => if n < 8 then some n else none
  | .capacity n => if n < 2 then some (8 + n) else none
  | .port n => if n < 9 then some (10 + n) else none
  | .steward n => if n < 8 then some (19 + n) else none

/-- FUNCTION_READY (R361). -/
def execFunctionReady (f : Function) (s : State) : Out :=
  .next <| match f with
    | .tile n => { s with readyT := s.readyT ||| (1 <<< n) }
    | f => match readyBit f with
      | some b => { s with readyM := s.readyM ||| (1 <<< b) }
      | none => s

/-- MODULE_RESET (R361): device registers take their reset values; contexts and memory stay as they are, since the
contexts of a module that stopped for heat resume unchanged (a join under way gets status 4, R359), once the tiles and the memory that were ready are ready
again (R366, log 37). The boot ROM brings up the host port (R363). -/
def execModuleReset (s : State) : Out :=
  let held := !s.bound.isEmpty
  let s := s.loseJoins fun _ => true
  .next { s with
    epoch := s.epoch + s.time, owedT := if held then s.owedT ||| s.readyT else 0,
    owedM := if held then s.owedM ||| s.readyM &&& 0x3FF else 0, clocks := [], portAddr := [],
    time := 0, phase := 0, trip := false, eccCnt := 0, slotTab := [], jobqs := [], devnum := 0, hostLo := 0, hostHi := 0,
    hostSet := false, hostHiSet := false, portstat := [], chteam := [], chtab := [], peers := [], conns := [], readyT := 0, readyM := 0,
    fwstat := 0, pwrstat := 0, hot := [], image := [], container := [], firmware := [], trace := [],
    fw := [], agenda := [.functionReady (.port 8)], again := [], turn := [] }

/-- The clocks of some clusters change or stop: the frame of the first cycle from the next one on is a sync frame
(R346, R365). -/
def State.syncClusters (s : State) (f : Nat → Bool) : State :=
  { s with trace := ((List.range 16).filter f).foldl (fun l k =>
      Tab.set l k { Tab.get ({} : Trace) l k with resync := some (s.cycle + 1) }) s.trace }

/-- The setting of a cluster's arithmetic clock, 0 for full (R365). -/
def State.clockOf (s : State) (k : Nat) : Nat := Tab.get 0 s.clocks k

/-- A cluster's clock set for power, from the next cycle on: a change inserts a sync frame, and PWRSTAT says whether any clock is lowered
(R346, R365, R366). -/
def State.setClock (s : State) (k level : Nat) : State :=
  let t := if s.clockOf k = level then s else s.syncClusters (· == k)
  let clocks := Tab.set s.clocks k level
  { t with clocks := clocks, pwrstat := word (setBits s.pwrstat.toNat 0 0 (if clocks.all (·.2 == 0) then 0 else 1)) }

/-- POWER_WINDOW (R365, R366): the window's average, and the clocks of the clusters as steward firmware then sets them
(log 14). -/
def execPowerWindow (watts : Nat) (s : State) : Out :=
  .next ((List.range 16).foldl (fun s k => s.setClock k (Config.powerClock watts k))
    { s with pwrstat := word (setBits s.pwrstat.toNat 63 48 watts) })

/-- The hottest sensor of a die in °C, with what follows from it (R366). -/
def State.sense (s : State) (die temp : Nat) : State :=
  if 2 ≤ die then s
  else
    let hot := if 105 ≤ temp then die :: s.hot.filter (· != die)
      else if temp < 100 then s.hot.filter (· != die) else s.hot
    let s := if hot.contains die = s.hot.contains die then s else s.syncClusters fun k => k / 8 == die
    let trip := bitOf s.pwrstat.toNat 2 || decide (115 ≤ temp)
    let s := if decide (115 ≤ temp) && !s.trip then s.syncClusters fun _ => true else s
    let v := setBits s.pwrstat.toNat (23 + 8 * die) (16 + 8 * die) (min temp 255)
    let v := setBits (setBits v 1 1 (if hot.isEmpty then 0 else 1)) 2 2 (if trip then 1 else 0)
    { s with hot := hot, pwrstat := word v, trip := s.trip || decide (115 ≤ temp) }

/-- THERMAL_THROTTLE (R366): a die at 105 °C. -/
def execThermalThrottle (die temp : Nat) (s : State) : Out := .next (s.sense die temp)
/-- THERMAL_TRIP (R366): a die at 115 °C. -/
def execThermalTrip (die temp : Nat) (s : State) : Out := .next (s.sense die temp)
/-- THERMAL_COOL_BELOW_100 (R366). -/
def execThermalCoolBelow100 (die temp : Nat) (s : State) : Out := .next (s.sense die temp)

end Sys2Proof.Machine
end

