-- ==== Sys2Proof/Machine/Route.lean ====
section
/-!
DEFINITION. Routing (spec/11): ROUTE with its checks and allocation, the heddle's deliveries, RRET and the reed's
acceptance, completion with the weighted sums, deadlines, RWAIT and RSTAT.
-/

namespace Sys2Proof.Machine

/-! Identifiers and entries. -/

/-- The identifier of a route: the tag word with bits 11:0 zero (R231, R234). -/
def routeId (c num : Nat) : Word := word (c % 4096 * 2 ^ 52 + num % 2 ^ 40 * 2 ^ 12)

/-- A route of a context by number. -/
def Ctx.route? (x : Ctx) (num : Nat) : Option Route := x.eng.routes.find? (·.num == num)
/-- A route replaced. -/
def Ctx.setRoute (x : Ctx) (r : Route) : Ctx :=
  { x with eng := { x.eng with routes := x.eng.routes.map fun t => if t.num = r.num then r else t } }

/-- The heddle or the reed as an agent of a route (R341, R343). -/
def routeAgent (c grp num : Nat) : Agent := ⟨agentId 4 c grp (num % 2 ^ 40), 5, c, false⟩

/-! Completion (R240). -/

/-- One output element from the products of the arrived slots (R240): its code and the indications. -/
def routeElem (nver : Nat) (t : Tag) (ps : List (Val × Bool)) : Nat × Ind :=
  let vs := ps.map (·.1)
  let pos := vs.any (· == .inf false)
  let neg := vs.any (· == .inf true)
  let bad := ps.any (·.2) || (pos && neg)
  if vs.any (·.isNan) || (pos && neg) then (t.nan, indIf bad Ind.invalid)
  else if pos || neg then ((if neg then t.signBit else 0) + t.infCode, 0)
  else
    let fins := vs.filter fun v => !v.isZero
    if fins.isEmpty then (if !vs.isEmpty && vs.all (·.neg?) then t.signBit else 0, 0)
    else
      let sum := fins.foldl (fun (a : Val) v => (a.add v).1) (.zero false)
      match sum with
      | .zero _ => (0, 0)
      | v => roundFloat false nver v t

/-- An output row (R240): the arrived slots of row i, weighted. -/
def Route.output (r : Route) (i : Nat) : RowBits × Ind :=
  let t := r.fmt
  let terms := (r.slots.filter fun v => v.row == i && v.state == 2).map fun (v : RSlot) =>
    (lanesOf t.lanes t.laneBits v.data.toNat, readFp32 r.nver v.weight)
  let cells := (List.range t.lanes).map fun j => routeElem r.nver t
    (terms.map fun p => (decodeFloat t (flushSource r.nver t (p.1.getD j 0))).mul p.2)
  (BitVec.ofNat 2048 (ofLanes t.laneBits (cells.map (·.1))), cells.foldl (fun i c => i ||| c.2) 0)

/-- Whether every expected contribution has arrived, been dropped or timed out. -/
def Route.full (r : Route) : Bool := r.slots.all fun v => decide (2 ≤ v.state)

/-- The route as changed; when it is full, its output rows are written, the `reed` timeline advances and its
waiters learn of it (R240, R342). -/
def State.settleRoute (s : State) (c : Nat) (r : Route) : State :=
  if !r.full || r.done then s.onCtx c (·.setRoute r)
  else
    let w := (s.ctx c).bind.who
    let rows := (List.range r.rows).map r.output
    let g := routeAgent c r.group r.num
    let s : State := rows.zipIdx.foldl (fun s (o, i) =>
      match writeMem s g w (addrAdd r.at_ (256 * i : Nat)) (toBytes 256 o.1.toNat) with
      | .ok t => t
      | .error _ => s) s
    let r := { r with done := true, ind := rows.foldl (fun i o => i ||| o.2) r.ind }
    s.onCtx c fun x => ((x.setRoute r).complete 5 r.num g.id).wake
      (fun h => h == .route (routeId c r.num)) g.id

/-! ROUTE (R233-R235). -/

/-- A destination entry (R229). -/
structure Dealt where
  spill    : Nat
  capacity : Nat
  tile     : Nat
  queue    : Nat
  deriving DecidableEq, Repr

/-- A destination entry read and checked at issue (R229, R234). -/
def readDest (s : State) (table : Word) (count d : Nat) : Except Stop Dealt := do
  check (count ≤ d) (s.fault 0x19)
  let a := addrAdd table (64 + 32 * d : Nat)
  let bs ← s.mem? (readMem s s.who a 32)
  let e := ofBytes bs
  match reservedField e [(111, 85), (175, 119), (255, 208)] with
  | some lo => .error (s.fault 0x05 a (word lo))
  | none =>
    let v : Dealt := { spill := bitsOf e 207 192, capacity := bitsOf e 183 176, tile := bitsOf e 118 112,
                       queue := bitsOf e 84 64 }
    check ((count ≤ v.spill ∧ v.spill ≠ 0xFFFF) ∨ 64 < v.capacity ∨ v.queue % 64 ≠ 0) (s.fault 0x19)
    .ok v

/-- The entries that the records name, each before its spill's, in the order of R234. -/
def readDests (s : State) (table : Word) (count : Nat) :
    List Nat → List (Nat × Dealt) → Except Stop (List (Nat × Dealt))
  | [], ds => .ok ds
  | d :: r, ds => do
    let ds ← if Tab.has ds d then .ok ds else do
      let v ← readDest s table count d
      .ok (Tab.set ds d v)
    let sp := (Tab.get ⟨0xFFFF, 0, 0, 0⟩ ds d).spill
    let ds ← if sp = 0xFFFF ∨ Tab.has ds sp = true then .ok ds else do
      let v ← readDest s table count sp
      .ok (Tab.set ds sp v)
    readDests s table count r ds

/-- Allocation (R235) of (row, slot, destination, weight) in order; `used` counts by destination. -/
def allocate (ds : List (Nat × Dealt)) : List (Nat × Nat × Nat × Nat) → List (Nat × Nat) → List RSlot
  | [], _ => []
  | (i, k, d, w) :: r, used =>
    let e := Tab.get ⟨0xFFFF, 0, 0, 0⟩ ds d
    let f := Tab.get ⟨0xFFFF, 0, 0, 0⟩ ds e.spill
    if Tab.get 0 used d < e.capacity then
      { row := i, k := k, dest := d, tile := e.tile, queue := e.queue, weight := w } ::
        allocate ds r (Tab.set used d (Tab.get 0 used d + 1))
    else if e.spill ≠ 0xFFFF ∧ Tab.get 0 used e.spill < f.capacity then
      { row := i, k := k, dest := e.spill, tile := f.tile, queue := f.queue, weight := w, spill := true } ::
        allocate ds r (Tab.set used e.spill (Tab.get 0 used e.spill + 1))
    else { row := i, k := k, dest := d, weight := w, state := 3 } :: allocate ds r used

/-- Whether TIME has reached a route's deadline (R237). -/
def Route.late (r : Route) (time : Nat) : Bool := r.deadline != 0 && decide (r.deadline ≤ time)

/-- The slots that a deadline ends (R237). -/
def Route.expire (r : Route) : Route :=
  { r with slots := r.slots.map fun (v : RSlot) => if v.state < 2 then { v with state := 4 } else v }

/-- The first reserved field that is not zero in the routing records: record and bit (R232, R234). -/
def recordsReserved (rec_ : Nat) (rows : Nat) : Option (Nat × Nat) :=
  (List.range rows).findSome? fun i =>
    (reservedField (rec_ / 2 ^ (256 * i) % 2 ^ 256) [(31, 16), (95, 80), (159, 144), (223, 208)]).map fun lo => (i, lo)

/-- ROUTE (R233-R235). -/
def execRoute (sd : SReg) (atile ar : AReg) (st sl : SReg) (rows : BitVec 6) (s : State) : Out :=
  s.finish do
    let x := s.cx
    let num := (x.timeline 5).issued + 1
    check (x.eng.routes.any (fun r => r.num + 4 == num && !r.done) = true) (.hold .full)
    s.tokenPort sd.toNat
    s.afterStores 0xFFFF
    let n := rows.toNat + 1
    let at_ := s.ra atile
    check (bufIdx at_ ≠ 0xFFFF ∨ bufOff at_ % 256 ≠ 0) (s.fault 0x19)
    s.range at_ (256 * n) .read
    let ra := s.ra ar
    check (bufOff ra % 8 ≠ 0) (s.fault 0x19)
    let rb ← s.mem? (readMem s s.who ra (32 * n))
    let rec_ := ofBytes rb
    match recordsReserved rec_ n with
    | some (i, lo) => .error (s.fault 0x05 (addrAdd ra (32 * i : Nat)) (word lo))
    | none =>
    let table := s.rs st
    check (bufOff table % 8 ≠ 0) (s.fault 0x19)
    let hb ← s.mem? (readMem s s.who table 64)
    let h := ofBytes hb
    match reservedField h [(511, 16)] with
    | some lo => .error (s.fault 0x05 table (word lo))
    | none =>
    let count := bitsOf h 10 0
    let fmt := bitsOf h 15 12
    check ((fmt ≠ 1 ∧ fmt ≠ 3) ∨ count = 0 ∨ 1024 < count) (s.fault 0x19)
    let named := (List.range 4).flatMap fun k => (List.range n).filterMap fun i =>
      let p := rec_ / 2 ^ (256 * i + 64 * k) % 2 ^ 64
      if p % 65536 = 0xFFFF then none else some (i, k, p % 65536, p / 2 ^ 32)
    let ds ← readDests s table count (named.map (·.2.2.1)) []
    let deadline := (s.rs sl).toNat
    let r : Route := { num := num, group := s.grp, at_ := at_, rows := n, fmt := Tag.ofCode fmt, nver := x.regs.nver,
                       deadline := deadline, born := s.cycle, slots := allocate ds named [],
                       after := x.placedNow s.grp 0xFFFF s.cycle }
    let r := if r.late s.time then r.expire else r
    let s := s.up (·.onTimeline 5 Timeline.next)
    let s := s.up fun x => { x with eng := { x.eng with
      routes := x.eng.routes.filter (fun t => t.num + 4 != num) ++ [r] } }
    .ok ((s.promise 1 (.scalar sd.toNat) (routeId s.me num).toNat).settleRoute s.me r)

/-! Deliveries (R236). -/

/-- Whether a slot waits at its queue behind another: an earlier one of its route, or one of a route dealt
before (R236). -/
def State.behind (s : State) (c : Nat) (r : Route) (v : RSlot) : Bool :=
  let same (u : RSlot) : Bool := u.state == 0 && u.tile == v.tile && u.queue == v.queue
  (r.slots.takeWhile (· != v)).any same ||
  s.ctxs.any fun p => p.2.eng.routes.any fun t =>
    (decide (t.born < r.born) || (t.born == r.born && decide (p.1 < c)) ||
      (p.1 == c && decide (t.num < r.num))) && t.slots.any same

/-- The descriptor of a receive queue, when the heddle accepts it, and its head (R230, R236). -/
def openQueue (s : State) (w : Who) (tile queue : Nat) : Option (QueueRing × Nat) :=
  match readMem s w (addrOf (0xFE00 + tile) queue) 64 with
  | .error _ => none
  | .ok bs =>
    let d := ofBytes bs
    let l := bitsOf d 155 152
    let data := bitsOf d 148 128
    let tags := bitsOf d 212 192
    let sh := shareSize (s.poolOf tile)
    let within (off n : Nat) : Bool := off / sh == queue / sh && decide (off % sh + n ≤ sh)
    if l ≤ 10 ∧ data % 256 = 0 ∧ tags % 16 = 0 ∧ within data (256 * 2 ^ l) = true ∧ within tags (16 * 2 ^ l) = true then
      some (⟨bitsOf d 63 0, l, data, tags⟩, bitsOf d 127 64)
    else none

/-- The tag record of a delivery (R231). -/
def tagRecord (c num : Nat) (v : RSlot) : List Byte :=
  toBytes 8 ((routeId c num).toNat + v.row % 64 * 4 + v.k % 4) ++ toBytes 4 v.weight ++ toBytes 2 v.dest ++
  toBytes 2 (if v.spill then 1 else 0)

/-- A slot of a route with a new state. -/
def Route.mark (r : Route) (v : RSlot) (state : Nat) : Route :=
  { r with slots := r.slots.map fun u => if u.row = v.row ∧ u.k = v.k then { u with state := state } else u }

/-- Whether a ring has room for a row, at a head (R230). -/
def QueueRing.room (q : QueueRing) (head : Nat) : Bool := decide ((q.tail + 2 ^ 64 - head) % 2 ^ 64 < 2 ^ q.size)

/-- How the delivery of a slot stands (R236): refused, waiting on a full queue, or about to write. -/
inductive Dealing where
  | refused
  | waits (q : QueueRing)
  | goes (q : QueueRing)
  deriving DecidableEq, Repr

/-- The delivery of a slot: its descriptor is read and judged once; a slot that waits rereads the head alone, and waits
on while the queue's share is not to be had (R236, R243). -/
def dealing (s : State) (w : Who) (v : RSlot) : Dealing :=
  match v.ring with
  | some q => match readNum s w (addrOf (0xFE00 + v.tile) (v.queue + 8)) 8 with
    | .ok head => if q.room head then .goes q else .waits q
    | .error _ => .waits q
  | none => match openQueue s w v.tile v.queue with
    | none => .refused
    | some (q, head) => if q.room head then .goes q else .waits q

/-- A slot of a route that waits on a queue. -/
def Route.waitsOn (r : Route) (v : RSlot) (q : QueueRing) : Route :=
  { r with slots := r.slots.map fun u => if u.row = v.row ∧ u.k = v.k then { u with ring := some q } else u }

/-- The delivery of one slot (R236): the machine and the route's slot as they then are. A token row that meets
an uncorrectable error, like a refused slot, is dropped (log 32). -/
def deliver (s : State) (c : Nat) (r : Route) (v : RSlot) : State :=
  let w := (s.ctx c).bind.who
  let base := addrOf (0xFE00 + v.tile) 0
  match dealing s w v with
  | .refused => s.settleRoute c (r.mark v 3)
  | .waits q => s.onCtx c (·.setRoute (r.waitsOn v q))
  | .goes q => match readMem s w (addrAdd r.at_ (256 * v.row : Nat)) 256 with
    | .error _ => s.settleRoute c (r.mark v 3)
    | .ok row =>
      let slot := q.tail % 2 ^ q.size
      match writeUnit s (routeAgent c r.group r.num) s.mem w
          [(addrAdd base (q.data + 256 * slot : Nat), row), (addrAdd base (q.tags + 16 * slot : Nat), tagRecord c r.num v),
           (addrAdd base v.queue, toBytes 8 (q.tail + 1))] with
      | .ok t => t.settleRoute c (r.mark v 1)
      | .error _ => s.settleRoute c (r.mark v 3)

/-- Whether a slot's delivery can take a step: it is not delivered, nothing is before it at its queue, and it does not
wait on. -/
def State.deliverable (s : State) (c : Nat) (r : Route) (v : RSlot) : Bool :=
  v.state == 0 && !s.behind c r v && (v.ring.isNone || (match dealing s (s.ctx c).bind.who v with
    | .waits _ => false
    | _ => true))

/-- HEDDLE_DELIVERY (R236): the next slot in allocation order whose queue is not held back; none from the deadline on
(R237), and none before the rows that its ROUTE's own bundle has stored are written (R234, R264). -/
def execHeddleDelivery (c num : Nat) (s : State) : Out :=
  .next <|
    let x := s.ctx c
    match x.route? num with
    | none => s
    | some r =>
      if !x.bound || r.done || r.late s.time || !x.writtenTo r.after then s
      else match r.slots.find? (s.deliverable c r) with
      | none => s
      | some v => deliver s c r v

/-- ROUTE_DEADLINE (R237). -/
def execRouteDeadline (c num : Nat) (s : State) : Out :=
  .next <|
    let x := s.ctx c
    match x.route? num with
    | none => s
    | some r =>
      if x.bound && !r.done && r.late s.time then s.settleRoute c r.expire else s

/-! Returns (R238, R239). -/

/-- RRET (R238). -/
def execRret (st : SReg) (ar : AReg) (s : State) : Out :=
  s.finish do
    let tag := s.rs st
    check (bitsOf tag.toNat 11 8 ≠ 0) (s.fault 0x1A)
    let a := s.ra ar
    check (bufOff a % 64 ≠ 0) (s.fault 0x0E a)
    s.afterStores 0xFFFF
    let ks ← s.mem? (translate s s.who a 256 .read)
    check (ks.any (keyBad s) = true) (s.fault 0x11 a)
    let row := ofBytes (memGetAll s.mem ks)
    let s := s.chargeKeys s.me (spaceUnit (tag.toNat / 2 ^ 56 % 128)) ks
    .ok { s with returns := s.returns ++ [⟨tag, s.who.team, s.tile, BitVec.ofNat 2048 row⟩] }

/-- A returned row at the reed (R239). -/
def State.takeReturn (s : State) (t : Return) : State :=
  let tag := t.tag.toNat
  let c := tag / 2 ^ 52
  let x := s.ctx c
  match x.eng.routes.find? fun r => r.num % 2 ^ 40 == bitsOf tag 51 12 with
  | none => s
  | some r =>
    if !x.bound then s
    else
      let w := x.bind.who
      let slot := r.slots.find? fun v => v.row == bitsOf tag 7 2 && v.k == tag % 4
      match slot with
      | some v =>
        if (t.team = w.team ∨ t.team = w.peer) ∧ !r.done ∧ v.state = 1 ∧ r.late s.time = false then
          s.settleRoute c { r with slots := r.slots.map fun u =>
            if u.row = v.row ∧ u.k = v.k then { u with state := 2, data := t.data } else u }
        else s.onCtx c (·.setRoute { r with stale := min (r.stale + 1) 255 })
      | none => s.onCtx c (·.setRoute { r with stale := min (r.stale + 1) 255 })

/-- REED_RETURN_ARRIVAL (R239): the i-th row on its way. -/
def execReedReturnArrival (i : Nat) (s : State) : Out :=
  .next <| match s.returns[i]? with
    | none => s
    | some t => ({ s with returns := s.returns.eraseIdx i }).takeReturn t

/-! RWAIT and RSTAT (R241, R242). -/

/-- The number in a route identifier of the issuer, once it passes the checks of R242. -/
def State.routeNum (s : State) (si : SReg) : Except Stop Nat :=
  let v := (s.rs si).toNat
  let n := bitsOf v 51 12
  if v / 2 ^ 52 ≠ s.me ∨ v % 4096 ≠ 0 ∨ n = 0 ∨ (s.cx.timeline 5).issued < n then .error (s.fault 0x1A) else .ok n

/-- RWAIT (R242). -/
def execRwait (si : SReg) (s : State) : Out :=
  s.finish do
    let n ← s.routeNum si
    match s.cx.route? n with
    | some r => check (r.done = false) (.hold (.route (s.rs si)))
    | none => .ok ()
    .ok s

/-- Bit i for each row with a slot that satisfies a test. -/
def Route.rowMask (r : Route) (f : RSlot → Bool) : Nat :=
  (List.range 64).foldl (fun m i => if r.slots.any fun v => v.row == i && f v then m + 2 ^ i else m) 0

/-- Slots of a state. -/
def Route.count (r : Route) (state : Nat) : Nat := (r.slots.filter (·.state == state)).length

/-- A word of the route's status (R241). -/
def Route.word (r : Route) (w : Nat) : Nat :=
  match w with
  | 0 => (if r.done then (if r.count 4 = 0 then 1 else 2) else 0) * 2 ^ 62 + (r.rows - 1) * 2 ^ 56 +
      r.slots.length * 2 ^ 47 + r.count 2 * 2 ^ 38 + r.count 3 * 2 ^ 29 + r.count 4 * 2 ^ 20 + r.stale * 2 ^ 12 +
      r.ind.toNat
  | 1 => r.rowMask (·.state == 3)
  | 2 => r.rowMask (·.state == 4)
  | 3 => r.rowMask (·.spill)
  | w => (List.range 16).foldl (fun m j =>
      m + 16 ^ j * (r.slots.filter fun v => v.row == 16 * (w - 4) + j && v.state == 2).length) 0

/-- RSTAT (R241, R242). -/
def execRstat (sd si : SReg) (w : BitVec 3) (s : State) : Out :=
  s.finish do
    let n ← s.routeNum si
    match s.cx.route? n with
    | none => .error (s.fault 0x1A)
    | some r => .ok (s.promise 1 (.scalar sd.toNat) (r.word w.toNat))

end Sys2Proof.Machine
end

