-- ==== Sys2Proof/Machine/Scalar.lean ====
section
/-!
DEFINITION. The scalar instructions (R170-R179), NOP and RDSP, WRSP with their checks (R156).
-/

namespace Sys2Proof.Machine

/-- Leading zeros (R171). -/
def clzWord (a : Word) : Word := word (if a = 0 then 64 else 63 - Nat.log2 a.toNat)
/-- Trailing zeros (R171). -/
def ctzWord (a : Word) : Word :=
  word (((List.range 64).find? fun i => a.getLsbD i).getD 64)
/-- Ones (R171). -/
def popcWord (a : Word) : Word := word ((List.range 64).filter fun i => a.getLsbD i).length

/-- DIV truncates toward zero; by 0 all ones (R172). -/
def divWord (a b : Word) : Word := if b = 0 then BitVec.allOnes 64 else BitVec.ofInt 64 (a.toInt.tdiv b.toInt)
/-- REM has the sign of the dividend; by 0 the dividend (R172). -/
def remWord (a b : Word) : Word := if b = 0 then a else BitVec.ofInt 64 (a.toInt.tmod b.toInt)
/-- DIVU (R172). -/
def divuWord (a b : Word) : Word := if b = 0 then BitVec.allOnes 64 else word (a.toNat / b.toNat)
/-- REMU (R172). -/
def remuWord (a b : Word) : Word := if b = 0 then a else word (a.toNat % b.toNat)

/-- A bit field taken out (R175): len - 1 is encoded. -/
def extrWord (a : Word) (pos len : Nat) : Word := word (bitsOf a.toNat (pos + len) pos)
/-- A bit field put in (R175). -/
def insWord (d a : Word) (pos len : Nat) : Word := word (setBits d.toNat (pos + len) pos a.toNat)

/-- The value of the low 32 bits as FP32, read under the context's NVER (R147, R178). -/
def State.fp (s : State) (r : SReg) : Val :=
  decodeFloat .fp32 (flushSource s.cx.regs.nver .fp32 ((s.rs r).toNat % 2 ^ 32))

/-- A float result of latency 4 with its indications (R178, R145). -/
def State.exposeFp (s : State) (sd : SReg) (t : Tag) (v : Val) (invalid : Bool) : State :=
  let (c, i) := roundFmt s.cx.regs.nver v t
  s.exposeS 4 sd (word c) (i ||| indIf invalid Ind.invalid)

/-- x·y + z exactly, and whether 0·∞ or ∞ − ∞ arises, NaN elsewhere or not (R178). -/
def fmaVal (x y z : Val) : Val × Bool :=
  let (p, i) := x.mul y
  let (v, j) := p.add z
  (v, i || j)

/-- SFCVT by kind (R179). -/
def sfcvtWord (nver kind : Nat) (a : Word) : Word × Ind :=
  let f (t : Tag) : Val := decodeFloat t (flushSource nver t (a.toNat % 2 ^ t.laneBits))
  match kind with
  | 0 => let (c, i) := roundFmt nver (f .fp32) .int32; (BitVec.ofInt 64 (signed c 32), i)
  | 1 => let (c, i) := roundFmt nver (Val.ofInt (signed a.toNat 32)) .fp32; (word c, i)
  | 2 => let (c, i) := roundFmt nver (f .fp32) .bf16; (word c, i)
  | 3 => (word (roundFmt 3 (f .bf16) .fp32).1, 0)
  | 4 => let (c, i) := roundFmt nver (f .fp32) .fp16; (word c, i)
  | _ => (word (roundFmt 3 (f .fp16) .fp32).1, 0)

/-- NOP does nothing (R286). -/
def execNop (s : State) : Out := .next s

/-- ADD (R171). -/
def execAdd (sd sa sb : SReg) (s : State) : Out :=
  let a := s.rs sa
  let b := s.rs sb
  .next (s.exposeS 1 sd (a + b))

/-- SUB (R171). -/
def execSub (sd sa sb : SReg) (s : State) : Out :=
  let a := s.rs sa
  let b := s.rs sb
  .next (s.exposeS 1 sd (a - b))

/-- MUL (R171). -/
def execMul (sd sa sb : SReg) (s : State) : Out :=
  let a := s.rs sa
  let b := s.rs sb
  .next (s.exposeS 3 sd (a * b))

/-- MULH (R171). -/
def execMulh (sd sa sb : SReg) (s : State) : Out :=
  let a := s.rs sa
  let b := s.rs sb
  .next (s.exposeS 3 sd (BitVec.ofInt 64 (a.toInt * b.toInt / (2 : Int) ^ 64)))

/-- MULHU (R171). -/
def execMulhu (sd sa sb : SReg) (s : State) : Out :=
  let a := s.rs sa
  let b := s.rs sb
  .next (s.exposeS 3 sd (word (a.toNat * b.toNat / 2 ^ 64)))

/-- DIV (R172). -/
def execDiv (sd sa sb : SReg) (s : State) : Out :=
  let a := s.rs sa
  let b := s.rs sb
  .next (s.exposeS 20 sd (divWord a b))

/-- DIVU (R172). -/
def execDivu (sd sa sb : SReg) (s : State) : Out :=
  let a := s.rs sa
  let b := s.rs sb
  .next (s.exposeS 20 sd (divuWord a b))

/-- REM (R172). -/
def execRem (sd sa sb : SReg) (s : State) : Out :=
  let a := s.rs sa
  let b := s.rs sb
  .next (s.exposeS 20 sd (remWord a b))

/-- REMU (R172). -/
def execRemu (sd sa sb : SReg) (s : State) : Out :=
  let a := s.rs sa
  let b := s.rs sb
  .next (s.exposeS 20 sd (remuWord a b))

/-- AND (R171). -/
def execAnd (sd sa sb : SReg) (s : State) : Out :=
  let a := s.rs sa
  let b := s.rs sb
  .next (s.exposeS 1 sd (a &&& b))

/-- OR (R171). -/
def execOr (sd sa sb : SReg) (s : State) : Out :=
  let a := s.rs sa
  let b := s.rs sb
  .next (s.exposeS 1 sd (a ||| b))

/-- XOR (R171). -/
def execXor (sd sa sb : SReg) (s : State) : Out :=
  let a := s.rs sa
  let b := s.rs sb
  .next (s.exposeS 1 sd (a ^^^ b))

/-- SHL (R171). -/
def execShl (sd sa sb : SReg) (s : State) : Out :=
  let a := s.rs sa
  let b := s.rs sb
  .next (s.exposeS 1 sd (a <<< (b.toNat % 64)))

/-- SHR (R171). -/
def execShr (sd sa sb : SReg) (s : State) : Out :=
  let a := s.rs sa
  let b := s.rs sb
  .next (s.exposeS 1 sd (a >>> (b.toNat % 64)))

/-- SAR (R171). -/
def execSar (sd sa sb : SReg) (s : State) : Out :=
  let a := s.rs sa
  let b := s.rs sb
  .next (s.exposeS 1 sd (a.sshiftRight (b.toNat % 64)))

/-- ROTR (R171). -/
def execRotr (sd sa sb : SReg) (s : State) : Out :=
  let a := s.rs sa
  let b := s.rs sb
  .next (s.exposeS 1 sd (a.rotateRight (b.toNat % 64)))

/-- MIN (R171). -/
def execMin (sd sa sb : SReg) (s : State) : Out :=
  let a := s.rs sa
  let b := s.rs sb
  .next (s.exposeS 1 sd (if cmpLess b a then b else a))

/-- MAX (R171). -/
def execMax (sd sa sb : SReg) (s : State) : Out :=
  let a := s.rs sa
  let b := s.rs sb
  .next (s.exposeS 1 sd (if cmpLess a b then b else a))

/-- MINU (R171). -/
def execMinu (sd sa sb : SReg) (s : State) : Out :=
  let a := s.rs sa
  let b := s.rs sb
  .next (s.exposeS 1 sd (if cmpLessU b a then b else a))

/-- MAXU (R171). -/
def execMaxu (sd sa sb : SReg) (s : State) : Out :=
  let a := s.rs sa
  let b := s.rs sb
  .next (s.exposeS 1 sd (if cmpLessU a b then b else a))

/-- CLZ (R171). -/
def execClz (sd sa : SReg) (s : State) : Out := .next (s.exposeS 1 sd (clzWord (s.rs sa)))

/-- CTZ (R171). -/
def execCtz (sd sa : SReg) (s : State) : Out := .next (s.exposeS 1 sd (ctzWord (s.rs sa)))

/-- POPC (R171). -/
def execPopc (sd sa : SReg) (s : State) : Out := .next (s.exposeS 1 sd (popcWord (s.rs sa)))

/-- SEL (R174). -/
def execSel (sd sa sb : SReg) (pn : PReg) (s : State) : Out :=
  .next (s.exposeS 1 sd (if s.rp pn then s.rs sa else s.rs sb))

/-- A predicate result (R43, R174). -/
def State.exposeP (s : State) (pd : PReg) (v : Bool) : State := s.expose 1 (.pred pd.toNat) v.toNat

/-- CMP.EQ (R174). -/
def execCmpEq (pd : PReg) (sa sb : SReg) (s : State) : Out :=
  .next (s.exposeP pd (cmpEqual (s.rs sa) (s.rs sb)))

/-- CMP.LT (R174). -/
def execCmpLt (pd : PReg) (sa sb : SReg) (s : State) : Out :=
  .next (s.exposeP pd (cmpLess (s.rs sa) (s.rs sb)))

/-- CMP.LE (R174). -/
def execCmpLe (pd : PReg) (sa sb : SReg) (s : State) : Out :=
  .next (s.exposeP pd (cmpLessEq (s.rs sa) (s.rs sb)))

/-- CMP.LTU (R174). -/
def execCmpLtu (pd : PReg) (sa sb : SReg) (s : State) : Out :=
  .next (s.exposeP pd (cmpLessU (s.rs sa) (s.rs sb)))

/-- CMP.LEU (R174). -/
def execCmpLeu (pd : PReg) (sa sb : SReg) (s : State) : Out :=
  .next (s.exposeP pd (cmpLessEqU (s.rs sa) (s.rs sb)))

/-- CMP.NE (R174). -/
def execCmpNe (pd : PReg) (sa sb : SReg) (s : State) : Out :=
  .next (s.exposeP pd (!cmpEqual (s.rs sa) (s.rs sb)))

/-- PSET (R174). -/
def execPset (pd pa pb : PReg) (tt : BitVec 4) (s : State) : Out :=
  .next (s.exposeP pd (psetValue tt (s.rp pa) (s.rp pb)))

/-- PMOV to scalar: bit 0 is always 1 (R174). -/
def execPmovToScalar (sd : SReg) (s : State) : Out := .next (s.exposeS 1 sd (word s.cx.preds))

/-- PMOV to predicates: p1-p31 (R174). -/
def execPmovToPredicates (sa : SReg) (s : State) : Out :=
  .next ((List.range 31).foldl (fun t i => t.expose 1 (.pred (i + 1)) ((s.rs sa).getLsbD (i + 1)).toNat) s)

/-- EXTR (R175). -/
def execExtr (sd sa : SReg) (pos len : BitVec 6) (s : State) : Out :=
  .next (s.exposeS 1 sd (extrWord (s.rs sa) pos.toNat len.toNat))

/-- INS (R175). -/
def execIns (sd sa : SReg) (pos len : BitVec 6) (s : State) : Out :=
  .next (s.exposeS 1 sd (insWord (s.rs sd) (s.rs sa) pos.toNat len.toNat))

/-- SFADD (R178). -/
def execSfadd (sd sa sb : SReg) (s : State) : Out :=
  let r := (s.fp sa).add (s.fp sb)
  .next (s.exposeFp sd .fp32 r.1 r.2)

/-- SFMUL (R178). -/
def execSfmul (sd sa sb : SReg) (s : State) : Out :=
  let r := (s.fp sa).mul (s.fp sb)
  .next (s.exposeFp sd .fp32 r.1 r.2)

/-- SFMA, one rounding (R178). -/
def execSfma (sd sa sb sc : SReg) (s : State) : Out :=
  let r := fmaVal (s.fp sa) (s.fp sb) (s.fp sc)
  .next (s.exposeFp sd .fp32 r.1 r.2)

/-- SFCVT (R179). -/
def execSfcvt (sd sa : SReg) (kind : BitVec 3) (s : State) : Out :=
  let r := sfcvtWord s.cx.regs.nver kind.toNat (s.rs sa)
  .next (s.exposeS 4 sd r.1 r.2)

/-- An address result (R43, R176). -/
def State.exposeA (s : State) (ad : AReg) (v : Word) : State := s.expose 1 (.addr ad.toNat) v.toNat

/-- ABUF (R176). -/
def execAbuf (ad : AReg) (sa sb : SReg) (s : State) : Out :=
  .next (s.exposeA ad (addrOf (s.rs sa).toNat (s.rs sb).toNat))

/-- AADD (R176). -/
def execAadd (ad aa : AReg) (sb : SReg) (imm : BitVec 13) (s : State) : Out :=
  .next (s.exposeA ad (addrAdd (s.ra aa) (bufOff (s.rs sb) + imm.toInt)))

/-- AGET (R176). -/
def execAget (sd : SReg) (aa : AReg) (s : State) : Out := .next (s.exposeS 1 sd (s.ra aa))

/-- ASET (R176). -/
def execAset (ad : AReg) (sa : SReg) (s : State) : Out := .next (s.exposeA ad (s.rs sa))

/-- RDSP (R154, R156, R177). -/
def execRdsp (sd : SReg) (num : BitVec 12) (s : State) : Out :=
  .next (s.exposeS 1 sd (word (readSpecial s num.toNat)))

/-- The checks of a WRSP, in the order privilege, reserved fields, value (R156). -/
def wrspCheck (s : State) (n v : Nat) : Option Stop :=
  if !writable s.cx n then some (s.fault 0x03)
  else match reservedField v (reservedSpecial n) with
  | some _ => some (s.fault 0x05)
  | none => if badSpecial s.cx n v then some (s.fault 0x04) else none

/-- WRSP: the fields land after one cycle (R156, R177). -/
def execWrsp (sa : SReg) (num : BitVec 12) (s : State) : Out :=
  match wrspCheck s num.toNat (s.rs sa).toNat with
  | some e => s.finish (.error e)
  | none => .next (s.expose 1 (.special num.toNat) (s.rs sa).toNat)

/-- ADDI (R171). -/
def execAddi (sd sa : SReg) (imm : BitVec 31) (s : State) : Out :=
  let a := s.rs sa
  let b := imm.signExtend 64
  .next (s.exposeS 1 sd (a + b))

/-- ANDI (R171). -/
def execAndi (sd sa : SReg) (imm : BitVec 31) (s : State) : Out :=
  let a := s.rs sa
  let b := imm.signExtend 64
  .next (s.exposeS 1 sd (a &&& b))

/-- ORI (R171). -/
def execOri (sd sa : SReg) (imm : BitVec 31) (s : State) : Out :=
  let a := s.rs sa
  let b := imm.signExtend 64
  .next (s.exposeS 1 sd (a ||| b))

/-- XORI (R171). -/
def execXori (sd sa : SReg) (imm : BitVec 31) (s : State) : Out :=
  let a := s.rs sa
  let b := imm.signExtend 64
  .next (s.exposeS 1 sd (a ^^^ b))

/-- SHLI (R171). -/
def execShli (sd sa : SReg) (n : BitVec 6) (s : State) : Out :=
  let a := s.rs sa
  .next (s.exposeS 1 sd (a <<< n.toNat))

/-- SHRI (R171). -/
def execShri (sd sa : SReg) (n : BitVec 6) (s : State) : Out :=
  let a := s.rs sa
  .next (s.exposeS 1 sd (a >>> n.toNat))

/-- SARI (R171). -/
def execSari (sd sa : SReg) (n : BitVec 6) (s : State) : Out :=
  let a := s.rs sa
  .next (s.exposeS 1 sd (a.sshiftRight n.toNat))

/-- MOVI (R173). -/
def execMovi (sd : SReg) (imm : BitVec 37) (s : State) : Out := .next (s.exposeS 1 sd (imm.signExtend 64))

/-- MOVHI: bits 36:0 are kept (R173). -/
def execMovhi (sd : SReg) (imm : BitVec 27) (s : State) : Out :=
  .next (s.exposeS 1 sd (word ((s.rs sd).toNat % 2 ^ 37 + imm.toNat * 2 ^ 37)))

end Sys2Proof.Machine
end

