-- ==== Sys2Proof/Machine/Tasks.lean ====
section
/-!
DEFINITION. The special slot's task instructions: RNGKEY, ENRD (R315, R318), JOBQ and LAUNCH (R302), futures and
continuations (R311-R314).
-/

namespace Sys2Proof.Machine

/-- RNGKEY (R315). -/
def execRngkey (sa sb : SReg) (rst : BitVec 1) (s : State) : Out :=
  let k := word ((s.rs sb).toNat % 2 ^ 32 * 2 ^ 32 + (s.rs sa).toNat % 2 ^ 32)
  .next (s.up fun x => { x with rnd := ⟨0, s.cycle⟩, regs := { x.regs with rngK := k, rngC := if rst = 1 then 0 else x.regs.rngC } })

/-- ENRD (R318): the counter before the charges of its own bundle. -/
def execEnrd (sd : SReg) (s : State) : Out := .next (s.promise 1 (.scalar sd.toNat) s.cx.encnt)

/-! JOBQ and LAUNCH (R302). -/

/-- A kernel header read with its reserved fields checked (R298, R302). -/
def readHeader (s : State) (w : Who) (a : Word) : Except MFault Nat :=
  match readNum s w a 64 with
  | .error f => .error f
  | .ok h => match reservedField h [(15, 11), (63, 24), (511, 160)] with
    | some lo => .error ⟨0x05, a, lo⟩
    | none => .ok h

/-- Whether a header breaks R299: counts rounded up to their granules against the slot's and the die's limits. -/
def headerTooBig (h : Nat) : Bool :=
  let mode := bitsOf h 17 16
  decide (1024 / poolSlots mode < roundUp (bitsOf h 10 0) 16) ||
  decide (shareSize mode < roundUp (bitsOf h 95 64) 4096) ||
  decide (2 ^ 23 < roundUp (bitsOf h 127 96) 4096) || decide (2 ^ 26 < roundUp (bitsOf h 159 128) 4096)

/-- The statuses of R302 that need no queue: 5, 4, 3, or 0. -/
def cardStatus (a : Word) (c h : Nat) : Nat :=
  if bufOff a % 64 ≠ 0 ∨ cardCmin c = 0 ∨ cardCmax c < cardCmin c ∨ cardRsize c % 8 ≠ 0 ∨ cardRsize c < 8 ∨
      4096 < cardRsize c then 5
  else if bitsOf h 17 16 = 3 then 4
  else if headerTooBig h then 3
  else 0

/-- The result word of R302. -/
def cardResult (status pos : Nat) : Nat := status * 2 ^ 60 + pos % 2 ^ 48

/-- The card and the header that a syllable names. -/
def readTask (s : State) (ac : AReg) : Except Stop (Nat × Nat) := do
  let c ← s.mem? (readCard s s.who (s.ra ac))
  let h ← s.mem? (readHeader s s.who (cardHeader c))
  .ok (c, h)

/-- The queue's room (R300). -/
def JobQ.full (j : JobQ) : Bool := decide (2 ^ bitsOf j.desc.toNat 107 104 ≤ j.tail - j.head)

/-- The requester that a team's cards and credits are for, as steward firmware holds it (R301, R312). -/
def State.teamWho (s : State) (team : Nat) : Who :=
  { (Tab.get ({ who := {} } : TeamRec) s.teams team).who with team := team }

/-- A card that the issuer has queued in this cycle (R302, R335). -/
def State.post (s : State) (q pos : Nat) : State :=
  s.up fun x => { x with eng := { x.eng with posted := x.postedIn s.cycle ++ [(q, pos, s.cycle)] } }

/-- JOBQ (R302). The entry's write is an access of every class to a FENCE before it (R273). The ring is written as an access by the queue's owner (log 33). -/
def execJobq (sd : SReg) (ac : AReg) (sq : SReg) (s : State) : Out :=
  s.finish do
    check (s.fenced 0xFFFF = true) (.hold .full)
    let (c, h) ← readTask s ac
    let q := (s.rs sq).toNat % 256
    let j := Tab.get ({} : JobQ) s.jobqs q
    let d := j.desc.toNat
    let owner := bitsOf d 127 112
    let pre := cardStatus (s.ra ac) c h
    let v := if pre ≠ 0 then pre
      else if bitOf d 100 = false ∨ bitsOf d 111 108 = 14 ∨ (owner ≠ s.who.team ∧ owner ≠ s.who.peer) then 2
      else if j.full then 1 else 0
    if v ≠ 0 then .ok (s.promise 1 (.scalar sd.toNat) (cardResult v j.tail))
    else
      let slot := addrAdd (word (bitsOf d 63 0)) (128 * (j.tail % 2 ^ bitsOf d 107 104) : Nat)
      let t ← s.mem? (writeMem s s.agent (s.teamWho owner) slot (toBytes 128 c))
      let t := { t with
        jobqs := Tab.set t.jobqs q { j with tail := j.tail + 1, since := Tab.set j.since j.tail s.ticks } }
      .ok ((t.post q j.tail).promise 1 (.scalar sd.toNat) (cardResult 0 j.tail))

/-- A launch queue without room (R302). -/
def LaunchQ.full (q : LaunchQ) : Bool := decide (4096 ≤ q.cards.length)

/-- A card put into a launch queue. -/
def State.submit (s : State) (die level : Nat) (c : Queued) : State :=
  let k := die * 16 + level
  let q := Tab.get ({} : LaunchQ) s.launch k
  let q := { q with tail := q.tail + 1, cards := q.cards ++ [{ c with pos := q.tail }], since := Tab.set q.since q.tail s.ticks }
  { s with launch := Tab.set s.launch k q }

/-- The launch queue of a die and level. -/
def State.launchQ (s : State) (die level : Nat) : LaunchQ := Tab.get {} s.launch (die * 16 + level)

/-- LAUNCH (R302, R273). A level without a queue has position 0. -/
def execLaunch (sd : SReg) (ac : AReg) (sq : SReg) (s : State) : Out :=
  s.finish do
    check (s.fenced 0xFFFF = true) (.hold .full)
    let (c, h) ← readTask s ac
    let level := (s.rs sq).toNat % 16
    let die := dieOf s.tile
    let tail := if 13 < level then 0 else (s.launchQ die level).tail
    let pre := cardStatus (s.ra ac) c h
    let v := if pre ≠ 0 then pre else if 13 < level then 2 else if (s.launchQ die level).full then 1 else 0
    if v ≠ 0 then .ok (s.promise 1 (.scalar sd.toNat) (cardResult v tail))
    else
      let t := s.submit die level { pos := 0, card := toBytes 128 c, team := s.who.team, peer := s.who.peer }
      .ok ((t.post (2 ^ 16 + die * 16 + level) tail).promise 1 (.scalar sd.toNat) (cardResult 0 tail))

/-! Futures (R311-R314). -/

/-- FUTINIT (R313). -/
def execFutinit (af : AReg) (s : State) : Out :=
  s.finish do
    let a := s.ra af
    let v ← s.mem? (readFuture s s.who a)
    check (futState v = 1) (s.fault 0x24 a)
    ownWatch s a 8 true true
    s.mem? (writeMem s s.agent s.who a (toBytes 8 0) .atomic)

/-- FUTREG (R313): its installation and its credit follow in that order. -/
def execFutreg (af : AReg) (sc sj : SReg) (s : State) : Out :=
  s.finish do
    let a := s.ra af
    let v ← s.mem? (readFuture s s.who a)
    let c := (s.rs sc).toNat
    let n := (s.rs sj).toNat
    check (2 ^ 16 ≤ c ∨ 2 ^ 16 ≤ n ∨ n = 0 ∨ s.cx.bind.ccount ≤ c) (s.fault 0x23)
    check (futState v = 1) (s.fault 0x24 a)
    ownWatch s a 8 true true
    let t := s.who.team
    let install : Credit := { team := t, index := c, count := n, install := true }
    if futState v = 0 then
      let u ← s.mem? (writeMem s s.agent s.who a (toBytes 8 (2 ^ 62 + n * 2 ^ 32 + t % 2 ^ 16 * 2 ^ 16 + c)) .atomic)
      .ok { u with credits := u.credits ++ [install] }
    else .ok { s with credits := s.credits ++ [install, { team := t, index := c, count := n }] }

/-- FUTRES (R313): a release of the stream's earlier accesses. -/
def execFutres (af : AReg) (sv : SReg) (s : State) : Out :=
  s.finish do
    let a := s.ra af
    let v ← s.mem? (readFuture s s.who a)
    check (2 ≤ futState v) (s.fault 0x25 a)
    s.afterStores 0xFFFF
    ownWatch s a 8 true true
    let (t, _) ← s.mem? (resolveFuture s s.agent s.who a (futWord false (s.rs sv).toNat))
    .ok t

/-- FUTWAIT (R313): held until the word is resolved or faulted. It is a read (R73) that must be aligned (R313; log 46). -/
def execFutwait (sd : SReg) (af : AReg) (s : State) : Out :=
  s.finish do
    let a := s.ra af
    let v ← s.mem? (readFuture s s.who a .readWord)
    let ks ← s.mem? (translate s s.who a 8 .readWord)
    check (futState v < 2) (.hold (.future a))
    ownWatch s a 8 true false
    .ok (s.promise (s.latencyOf ks) (.scalar sd.toNat) v)

/-! Continuations (R312). -/

/-- The join word after a credit: the word, and whether its card is to be launched. -/
def joinStep (j count : Nat) (install : Bool) : Nat × Bool :=
  let j := if futState j = 0 then setBits (setBits j 63 62 1) 47 32 count else j
  if install then (j, false)
  else
    let r := bitsOf j 47 32
    if futState j = 1 ∧ 0 < r then (setBits j 47 32 (r - 1), r == 1)
    else (setBits j 31 24 (min (bitsOf j 31 24 + 1) 255), false)

/-- The card of an entry, unless LAUNCH would refuse it or could not read it (R312, log 34). -/
def launchable (s : State) (w : Who) (entry : Word) (level : Nat) : Option (List Byte) :=
  if 13 < level then none
  else match readCard s w entry with
    | .error _ => none
    | .ok c => match readHeader s w (cardHeader c) with
      | .error _ => none
      | .ok h => if cardStatus entry c h = 0 then some (toBytes 128 c) else none

/-- A credit that cannot be applied goes to steward firmware (R312). -/
def State.lostCredit (s : State) (c : Credit) (cond : Nat) : State := { s with told := s.told ++ [.credit c cond] }

/-- A credit at its entry's join word (R312, R313). -/
def applyCredit (s : State) (c : Credit) : State :=
  let t := Tab.get ({ who := {} } : TeamRec) s.teams c.team
  let w := s.teamWho c.team
  let entry := addrAdd t.conts (256 * c.index : Nat)
  let a := addrAdd entry 128
  if !t.hasConts || decide (t.ccount ≤ c.index) then s.lostCredit c 0
  else match translate s w a 8 .atomic with
  | .error f => s.lostCredit c f.cond
  | .ok ks =>
    if ks.any (keyBad s) then s.lostCredit c 0x11
    else
      let (j, fires) := joinStep (ofBytes (memGetAll s.mem ks)) c.count c.install
      let put (v : Nat) : State := storeKeys s homeAgent w a ks (toBytes 8 v)
      if !fires then put j
      else
        let level := j % 16
        let die := spaceDieOf (keySpace (ks.headD 0))
        match launchable s w entry level with
        | none => put (setBits j 63 62 3)
        | some card =>
          let u := put (setBits j 63 62 2)
          let q : Queued := { pos := 0, card := card, team := w.team, peer := w.peer }
          if (u.launchQ die level).full then { u with waiting := u.waiting ++ [⟨die, level, q⟩] }
          else u.submit die level q

/-- CONTINUATION_CREDIT (R312): the next credit on its way. -/
def execContinuationCredit (s : State) : Out :=
  .next <| match s.credits with
    | [] => s
    | c :: r => applyCredit { s with credits := r } c

/-- CONTINUATION_LAUNCH (R312): the first waiting launch whose queue has room. -/
def execContinuationLaunch (s : State) : Out :=
  .next <| match s.waiting.find? fun w => !(s.launchQ w.die w.level).full with
    | none => s
    | some w => ({ s with waiting := s.waiting.erase w }).submit w.die w.level w.card

end Sys2Proof.Machine
end

