-- ==== Sys2Proof/Machine/Tracing.lean ====
section
/-!
DEFINITION. The cluster trace (R344-R347): one frame for each cycle that has ended.
-/

namespace Sys2Proof.Machine

/-- The tile word of a cycle's notes (R347). -/
def tileWord (ns : List Note) : Word :=
  let issues := ns.flatMap (·.issue)
  let issue := (List.range 8).foldl (fun a i => if issues.any (·.1 == i) then a + 2 ^ (56 + i) else a) 0
  let slots := (List.range 8).foldl (fun a i => match issues.find? fun (p : Nat × Nat) => p.1 == i with
    | some p => a + p.2 % 16 * 2 ^ (24 + 4 * i)
    | none => a) 0
  let events := ns.filter fun n => n.event != 0
  let lowest := (events.map (·.event)).foldl min 9
  let event := match events.find? fun n => n.event == lowest with
    | some n => n.event * 2 ^ 20 + n.data % 2 ^ 20
    | none => 0
  word (issue + slots + event)

/-- Whether a cluster's cycle triggers (R345, R347): a trap, or a debug stop, as TRCCTL selects. -/
def triggers (ctl : Word) (ns : List Note) : Bool :=
  ns.any fun n => n.event == 1 && (bitOf ctl.toNat 3 || (bitOf ctl.toNat 4 && n.data / 4 % 512 == 0x29))

/-- Whether the frame of a cycle is a sync frame whatever the ticks: at the start of recording, and in the first cycle
after a change or a stop of the clock (R346). -/
def Trace.syncDue (t : Trace) (cycle : Nat) : Bool := t.sync || t.resync.any fun n => decide (n ≤ cycle)

/-- The frame header of a cycle (R346). -/
def frameHeader (t : Trace) (cycle now : Nat) : Word :=
  let ticks := now - t.lastTime
  if t.syncDue cycle || decide (3 < ticks) then word (2 ^ 62 + now % 2 ^ 60) else word (ticks * 2 ^ 60)

/-- The trace after the frame of a cycle: in triggered mode the frames still to come are counted, and none left turns it off
(R345). -/
def Trace.record (t : Trace) (words : List Word) (cycle now : Nat) (trigger : Bool) : Trace :=
  let post : Option Nat :=
    if t.ctl.toNat % 4 ≠ 2 then none
    else match t.post with
      | some n => some (n - 1)
      | none => if trigger then some (1024 * bitsOf t.ctl.toNat 31 16) else none
  let t := { t with pos := t.pos + 1, sync := false, lastTime := now, post := post,
                    resync := t.resync.filter fun n => decide (cycle < n),
                    frames := Tab.set (t.frames.filter fun (p : Nat × List Word) => decide (t.pos < p.1 + 131072)) t.pos words }
  if post = some 0 then { t with ctl := word (setBits t.ctl.toNat 1 0 0), post := none } else t

/-- TRACE_FRAME (R344): the frame of the cycle that has just ended. Its TIME is the one before a tick that begins
the new cycle. -/
def execTraceFrame (cluster : Nat) (s : State) : Out :=
  let t := Tab.get ({} : Trace) s.trace cluster
  .next <|
    if t.ctl.toNat % 4 = 0 then s
    else
      let now := if s.phase < 4 then s.time - 1 else s.time
      let mine := s.notes.filter fun n => clusterOf n.tile == cluster
      let words := (List.range 8).map fun i => tileWord (mine.filter fun n => n.tile == 8 * cluster + i)
      { s with notes := s.notes.filter fun n => clusterOf n.tile != cluster
               trace := Tab.set s.trace cluster (t.record (frameHeader t (s.cycle - 1) now :: words) (s.cycle - 1) now (triggers t.ctl mine)) }

end Sys2Proof.Machine
end

