-- ==== Sys2Proof/Machine/Vector.lean ====
section
/-!
DEFINITION. The vector slots (spec/09): operation format (R181), unit operations (R187-R191), the chain, and
the other vector instructions (R192-R201).
-/

namespace Sys2Proof.Machine

/-! Unit operations. -/

/-- A compare's result in the float class. -/
def floatBool (t : Tag) (b : Bool) : Nat := if b then t.one else 0

/-- MIN and MAX (R187): −0 is less than +0. -/
def floatMin (t : Tag) (u w : Nat) (wantMax : Bool) : Nat :=
  let x := decodeFloat t u
  let y := decodeFloat t w
  if x.isNan || y.isNan then t.nan
  else
    let less := x.lt y || (x.isZero && y.isZero && x.neg? && !y.neg?)
    if less != wantMax then u else w

/-- A rounded sum or product with the invalid indication. -/
def rounded (nver : Nat) (t : Tag) (r : Val × Bool) : Nat × Ind :=
  let (c, i) := roundFmt nver r.1 t
  (c, i ||| indIf r.2 Ind.invalid)

/-- A unit of the float class on codes of format t (R187, R189-R191): inputs are read under the numeric
version at every unit (R147, R185), PASS among them; a chain of three PASS units is a move (R186). -/
def floatUnit (op nver : Nat) (t : Tag) (u0 w0 : Nat) : Nat × Ind :=
  let u := flushSource nver t u0
  let w := flushSource nver t w0
  let x := decodeFloat t u
  let y := decodeFloat t w
  let bits (v : Nat) : Nat × Ind := (v % 2 ^ t.laneBits, 0)
  match op with
  | 0 => (u, 0)
  | 1 => rounded nver t (x.add y)
  | 2 => rounded nver t (x.add y.negate)
  | 3 => rounded nver t (y.add x.negate)
  | 4 => rounded nver t (x.mul y)
  | 5 => (floatMin t u w false, 0)
  | 6 => (floatMin t u w true, 0)
  | 7 => if x.isNan then (t.nan, 0) else (if x.neg? || x.isZero then 0 else u, 0)
  | 8 => (u % t.signBit, 0)
  | 9 => (u ^^^ t.signBit, 0)
  | 10 => rounded nver t (x.mul x)
  | 11 => (u &&& w, 0)
  | 12 => (u ||| w, 0)
  | 13 => (u ^^^ w, 0)
  | 14 => bits (u &&& (2 ^ t.laneBits - 1 - w))
  | 18 => (floatBool t (x.eqv y), 0)
  | 19 => (floatBool t (x.lt y), 0)
  | 20 => (floatBool t (x.lt y || x.eqv y), 0)
  | 21 => (if x.isZero then 0 else w, 0)
  | 22 => exp2Round nver x t
  | 23 => log2Round nver x t
  | 24 => rcpVal nver x t
  | 25 => rsqrtVal nver x t
  | 26 => rcpnVal nver x y t
  | 27 => rsqnVal nver x y t
  | 28 => (floorCode x u t, 0)
  | 29 => (rintCode x u t, 0)
  | _ => (if x.isNan || x.isZero then u else if x.neg? then t.one + t.signBit else t.one, 0)

/-- A clamped integer as a lane with its indication (R188). -/
def clampLane (unsigned : Bool) (b : Nat) (v : Int) : Nat × Ind :=
  let (i, c) := if unsigned then satU v b else satS v b
  (wrapBits i b, indIf c Ind.saturation)

/-- A unit of the integer classes on lanes of b bits (R188). -/
def intUnit (op : Nat) (unsigned : Bool) (b u w : Nat) : Nat × Ind :=
  let x : Int := if unsigned then u else signed u b
  let y : Int := if unsigned then w else signed w b
  let n := w % b
  let bool (c : Bool) : Nat × Ind := (if c then 1 else 0, 0)
  match op with
  | 0 => (u, 0)
  | 1 => clampLane unsigned b (x + y)
  | 2 => clampLane unsigned b (x - y)
  | 3 => clampLane unsigned b (y - x)
  | 4 => clampLane unsigned b (x * y)
  | 5 => (if x ≤ y then u else w, 0)
  | 6 => (if x ≤ y then w else u, 0)
  | 7 => (if x < 0 then 0 else u, 0)
  | 8 => clampLane unsigned b x.natAbs
  | 9 => clampLane unsigned b (-x)
  | 10 => clampLane unsigned b (x * x)
  | 11 => (u &&& w, 0)
  | 12 => (u ||| w, 0)
  | 13 => (u ^^^ w, 0)
  | 14 => (u &&& (2 ^ b - 1 - w), 0)
  | 15 => (u * 2 ^ n % 2 ^ b, 0)
  | 16 => (u / 2 ^ n, 0)
  | 17 => (wrapBits (signed u b / (2 : Int) ^ n) b, 0)
  | 18 => bool (x = y)
  | 19 => bool (x < y)
  | 20 => bool (x ≤ y)
  | 21 => (if u ≠ 0 then w else 0, 0)
  | _ => (wrapBits x.sign b, 0)

/-- A unit of a chain class (R54). -/
def unitOp (cc : BitVec 2) (op nver : Nat) (t : Tag) (u w : Nat) : Nat × Ind :=
  if cc = 0 then floatUnit op nver t u w else intUnit op (cc == 2) t.laneBits u w

/-- One lane of a chain (R185). -/
def chainLane (cc : BitVec 2) (a b c nver : Nat) (t : Tag) (x y z : Nat) : Nat × Ind :=
  let (t1, i1) := unitOp cc a nver t x y
  let (t2, i2) := unitOp cc b nver t t1 z
  let (d, i3) := unitOp cc c nver t t2 y
  (d, i1 ||| i2 ||| i3)

/-! Formats and results. -/

/-- The tag of the first source that carries one (R181). -/
def firstTag (vs : List Src) : Option Tag := vs.findSome? Src.tag?

/-- The operation format F (R181): the tile type of a row destination, else the first source's tag. -/
def opFormat (x : Ctx) (d : VField) (vs : List Src) (other : Tag) : Tag :=
  if d.level = 0 then
    match rowOf x d.index with
    | some r => x.tileType (r / 64)
    | none => other
  else (firstTag vs).getD other

/-- Indications of enabled lanes only (R185). -/
def maskedInd (mask : BitVec 256) (is : List Ind) : Ind :=
  (is.zipIdx).foldl (fun a (i, l) => if mask.getLsbD l then a ||| i else a) 0

/-- A row result of latency n (R184): a row, an operand-file entry, or an entry of the store-data queue taken
now (R127). -/
def State.result (s : State) (n : Nat) (d : VField) (mask : BitVec 256) (t : Tag) (data : Nat) (ind : Ind := 0)
    (latch : Bool := true) : Except Stop State :=
  match d.level with
  | 0 => match rowOf s.cx d.index with
    | some r => .ok (s.expose n (.row r) data t mask latch ind)
    | none => .error (s.fault 0x12)
  | 1 => .ok (s.expose n (.oper d.index) data t mask latch ind)
  | _ =>
    if 32 ≤ s.cx.eng.stData.length then .error (.hold .full)
    else
      let k := s.cx.eng.stNext
      let s := s.up fun x => { x with eng := { x.eng with
        stNext := k + 1, stData := x.eng.stData ++ [{ entry := k, group := s.grp, born := s.cycle }] } }
      .ok (s.expose n (.stq k) data t mask latch ind)

/-- The mask that a field names. -/
def State.maskOf (s : State) (m : BitVec 3) : BitVec 256 := s.cx.m m.toNat

/-- A move (R186): bits and tag; a deferred row may not go to `stq` (R130). -/
def moveRow (s : State) (n : Nat) (d x : VField) (m : BitVec 3) (other : Tag) (unsigned : Bool) : Out :=
  s.finish do
    let mask := s.maskOf m
    let f := opFormat s.cx d [] other
    let (v, s) ← readSource s x
    match v with
    | .row r =>
      if r.tag = .deferred && d.isStq then .error (deferredTrap r)
      else s.result n d mask r.tag r.data.toNat
    | v => s.result n d mask f (ofLanes f.laneBits (v.lanes f unsigned))

/-- VCH (R185-R191). An F that holds no format is the fault of the source that it comes from (log 27). -/
def execVch (cc : BitVec 2) (a b c : BitVec 5) (d x y z : VField) (m : BitVec 3) (s : State) : Out :=
  let other : Tag := if cc = 0 then .fp32 else .int32
  if a = 0 ∧ b = 0 ∧ c = 0 then moveRow s 8 d x m other (cc == 2)
  else s.finish do
    let mask := s.maskOf m
    let ry := vchReadsY a c
    let rz := vchReadsZ b
    let (vs, s) ← readSources s ([x] ++ (if ry then [y] else []) ++ (if rz then [z] else []))
    let f := opFormat s.cx d vs other
    match vs.find? fun v => v.tag?.isSome with
    | some v => if f = .empty ∨ f = .deferred then tagPresent s v else .ok ()
    | none => .ok ()
    check ((if cc = 0 then f.isFloat else f.isInt) = false) (s.fault 0x13)
    tagChecks s vs f
    let lanes (v : Src) : List Nat := v.lanes f (cc == 2)
    let xs := lanes (vs.headD (.bits 0))
    let ys := if ry then lanes (vs.getD 1 (.bits 0)) else xs
    let zs := if rz then lanes (vs.getLastD (.bits 0)) else xs
    let nver := s.cx.regs.nver
    let out := (xs.zip (ys.zip zs)).map fun (x, y, z) => chainLane cc a.toNat b.toNat c.toNat nver f x y z
    s.result 8 d mask f (ofLanes f.laneBits (out.map (·.1))) (maskedInd mask (out.map (·.2)))

/-! VCVT (R193, R194). -/

/-- Bits of an element: NQ4 codes are half-bytes. -/
def elemBits (t : Tag) : Nat := 4 * halfBytes t

/-- The elements of rows, in order. -/
def rowElems (t : Tag) (rows : List RowBits) : List Nat :=
  rows.flatMap fun r => lanesOf (2048 / elemBits t) (elemBits t) r.toNat

/-- Byte i of the scale row. -/
def scaleByte (y : RowBits) (i : Nat) : Nat := y.toNat / 2 ^ (8 * i) % 256

/-- Element j converted (R194). -/
def convert (nver : Nat) (src dst : Tag) (y : RowBits) (j code : Nat) : Nat × Ind :=
  let sb := scaleByte y (j / 32)
  let v := if src = .nq4 then decodeNq4 code sb else decodeElem src (flushSource nver src code)
  if dst = .nq4 then roundNq4 v sb else roundFmt nver v dst

/-- The scale row checked (R194). -/
def scaleRow (s : State) (y : VField) : Except Stop RowBits :=
  if !(y.level ≤ 2) then .error (s.fault 0x13)
  else match readSource s y with
    | .error e => .error e
    | .ok (.row r, _) =>
      if r.tag = .deferred then .error (deferredTrap r)
      else if r.tag = .empty then .error (s.fault 0x14)
      else if r.tag = .nq4s then .ok r.data else .error (s.fault 0x13)
    | .ok _ => .error (s.fault 0x13)

/-- The rows of a multi-row source (R193), pops taken. -/
def sourceRows (s : State) (f : VField) (n : Nat) : Except Stop (List RowBits × State) := do
  check (1 < n ∧ 2 ≤ f.level) (s.fault 0x15)
  check (runFits f n = false) (s.fault 0x12)
  let (vs, s) ← readSources s (fieldRun f n)
  .ok (vs.map (fun v => match v with
    | .row r => r.data
    | .bits b => b
    | _ => 0), s)

/-- The destination fields of a multi-row result (R193): `stq` serves any count. -/
def destFields (s : State) (d : VField) (n : Nat) : Except Stop (List VField) :=
  if d.level = 3 then .ok (List.replicate n d)
  else if runFits d n then .ok (fieldRun d n) else .error (s.fault 0x12)

/-- Every row of a multi-row source is read as the first is. -/
def sameTags (s : State) (f : VField) (n : Nat) (t : Tag) : Except Stop Unit :=
  (fieldRun f n).foldl (fun r g => match r with
    | .error e => .error e
    | .ok () => match readSource s g with
      | .error e => .error e
      | .ok (v, _) => tagCheck s v t) (.ok ())

/-- The rows of results written, the last one to the latch (R193). -/
def writeRows (s : State) (mask : BitVec 256) (t : Tag) : List (VField × List (Nat × Ind)) → Except Stop State
  | [] => .ok s
  | (d, es) :: rest =>
    let per := es.length / t.lanes           -- elements of a lane: two for NQ4
    let ind := (es.zipIdx).foldl (fun a (e, j) => if mask.getLsbD (j / per) then a ||| e.2 else a) 0
    match s.result 6 d mask t (ofLanes (elemBits t) (es.map (·.1))) ind rest.isEmpty with
    | .error e => .error e
    | .ok s => writeRows s mask t rest

/-- A list cut into n equal parts. -/
def cut {α : Type} (n : Nat) (l : List α) : List (List α) :=
  (List.range n).map fun i => (l.drop (i * (l.length / n))).take (l.length / n)

/-- VCVT (R193, R194). Its checks have no order of their own in the manual: the model takes x's tag and the types (0x14,
0x13) before a y that is not read (detail 2), then the tile width (0x15) of the destinations before the faults of the
later source rows and of y (log 15). -/
def execVcvt (d x y : VField) (m : BitVec 3) (tag : BitVec 4) (s : State) : Out :=
  s.finish do
    let mask := s.maskOf m
    let dst := Tag.ofCode tag.toNat
    let (v, _) ← readSource s x
    tagPresent s v
    let src := v.tag?.getD .empty
    check (src = .nq4s ∨ (src = .nq4 ∧ (dst.isInt = true ∨ dst = .nq4)) ∨ (dst = .nq4 ∧ src.isInt = true)) (s.fault 0x13)
    let scaled := src = .nq4 ∨ dst = .nq4
    check (¬scaled ∧ y ≠ 0) (s.fault 0x00 (detail := 2))
    let (n, k) := vcvtCounts src dst
    let ds ← destFields s d k
    check (dst ≠ .nq4 ∧ ds.any (fun f => f.level == 0 && (match rowOf s.cx f.index with
      | some r => halfBytes (s.cx.tileType (r / 64)) != halfBytes dst
      | none => false)) = true) (s.fault 0x15)
    check (1 < n ∧ 2 ≤ x.level) (s.fault 0x15)
    sameTags s x (if x.level ≤ 1 ∧ runFits x n then n else 1) src
    let yr ← if scaled then scaleRow s y else .ok 0
    let (rows, s) ← sourceRows s x n
    let nver := s.cx.regs.nver
    let out := ((rowElems src rows).zipIdx).map fun (c, j) => convert nver src dst yr j c
    writeRows s mask dst (ds.zip (cut k out))

/-! Reductions and scans (R195). -/

/-- The operations of VRED and VSCAN. -/
inductive Red where
  | add | max | min | and | or
  deriving DecidableEq, Repr

/-- Running sums of values, exact. -/
def sums : Val → Bool → List Val → List (Val × Bool)
  | _, _, [] => []
  | a, inv, v :: r =>
    let (b, i) := a.add v
    (b, inv || i) :: sums b (inv || i) r

/-- Running integer sums. -/
def intSums : Int → List Int → List Int
  | _, [] => []
  | a, v :: r => (a + v) :: intSums (a + v) r

/-- Running results of a binary operation on codes. -/
def running (f : Nat → Nat → Nat) : Nat → List Nat → List Nat
  | _, [] => []
  | a, v :: r => f a v :: running f (f a v) r

/-- Whether each prefix holds a NaN. -/
def nanSoFar : Bool → List Val → List Bool
  | _, [] => []
  | a, v :: r => (a || v.isNan) :: nanSoFar (a || v.isNan) r

/-- Every prefix of a reduction, rounded independently (R195). -/
def prefixes (op : Red) (nver : Nat) (t : Tag) (lanes : List Nat) : List (Nat × Ind) :=
  let ls := lanes.map (flushSource nver t)
  let fold (f : Nat → Nat → Nat) : List (Nat × Ind) := match ls with
    | [] => []
    | v :: r => (v, 0) :: (running f v r).map fun c => (c, 0)
  match op with
  | .and => fold (· &&& ·)
  | .or => fold (· ||| ·)
  | .add =>
    if t.isInt then (intSums 0 (ls.map (signed · t.laneBits))).map (clampLane false t.laneBits)
    else
      let vs := ls.map (decodeFloat t)
      match vs with
      | [] => []
      | v :: r => (((v, false) :: sums v false r).zip (nanSoFar false vs)).map fun (p, n) =>
        rounded nver t (p.1, p.2 && !n)
  | .max => if t.isInt then fold fun u w => (intUnit 6 false t.laneBits u w).1
    else (fold fun u w => floatMin t u w true).map fun p => (if (decodeFloat t p.1).isNan then t.nan else p.1, p.2)
  | .min => if t.isInt then fold fun u w => (intUnit 5 false t.laneBits u w).1
    else (fold fun u w => floatMin t u w false).map fun p => (if (decodeFloat t p.1).isNan then t.nan else p.1, p.2)

/-- VRED and VSCAN. -/
def reduce (s : State) (op : Red) (scan : Bool) (d x : VField) (m : BitVec 3) : Out :=
  s.finish do
    let mask := s.maskOf m
    let (v, s) ← readSource s x
    let f := opFormat s.cx d [v] .fp32
    check (f = .nq4 ∨ f = .nq4s) (s.fault 0x13)
    tagCheck s v f
    let ps := prefixes op s.cx.regs.nver f (v.lanes f false)
    let out := if scan then ps else List.replicate f.lanes (ps.getLastD (0, 0))
    s.result 10 d mask f (ofLanes f.laneBits (out.map (·.1))) (maskedInd mask (out.map (·.2)))

def execVredAdd (d x : VField) (m : BitVec 3) (s : State) : Out := reduce s .add false d x m
def execVredMax (d x : VField) (m : BitVec 3) (s : State) : Out := reduce s .max false d x m
def execVredMin (d x : VField) (m : BitVec 3) (s : State) : Out := reduce s .min false d x m
def execVredAnd (d x : VField) (m : BitVec 3) (s : State) : Out := reduce s .and false d x m
def execVredOr (d x : VField) (m : BitVec 3) (s : State) : Out := reduce s .or false d x m
def execVscanAdd (d x : VField) (m : BitVec 3) (s : State) : Out := reduce s .add true d x m
def execVscanMax (d x : VField) (m : BitVec 3) (s : State) : Out := reduce s .max true d x m
def execVscanMin (d x : VField) (m : BitVec 3) (s : State) : Out := reduce s .min true d x m
def execVscanAnd (d x : VField) (m : BitVec 3) (s : State) : Out := reduce s .and true d x m
def execVscanOr (d x : VField) (m : BitVec 3) (s : State) : Out := reduce s .or true d x m

/-! Rearranging lanes (R192, R196, R197, R201). -/

/-- `TagCheck` where F may be NQ4 or NQ4S, which only tagged sources pass (R161, R162, R150). -/
def laneCheck (s : State) (v : Src) (f : Tag) : Except Stop Unit := do
  tagCheck s v f
  check (v.tag? = none ∧ (f = .nq4 ∨ f = .nq4s)) (s.fault 0x13)

/-- VPERM (R196): the index lanes pass with any tag but EMPTY and DEFERRED. An index source without a tag passes for every
F, for NQ4 and NQ4S too, and is then read by its low bytes, a constant by those of its FP32 code (log 47). -/
def execVperm (d x y : VField) (m : BitVec 3) (s : State) : Out :=
  s.finish do
    let mask := s.maskOf m
    let (v, s) ← readSource s x
    let (w, s) ← readSource s y
    let f := opFormat s.cx d [v, w] .fp32
    laneCheck s v f
    tagPresent s w
    let xs := v.lanes f false
    let out := (w.lanes f false).map fun i => xs.getD (i % f.lanes) 0
    s.result 4 d mask f (ofLanes f.laneBits out)

/-- VBCAST (R196). -/
def execVbcast (d x : VField) (m : BitVec 3) (lane : BitVec 8) (s : State) : Out :=
  s.finish do
    let mask := s.maskOf m
    let (v, s) ← readSource s x
    let f := opFormat s.cx d [v] .fp32
    laneCheck s v f
    let c := (v.lanes f false).getD (lane.toNat % f.lanes) 0
    s.result 2 d mask f (ofLanes f.laneBits (List.replicate f.lanes c))

/-- The lanes of a VSHUF pattern (R197). -/
def shuffle (pat n : Nat) (xs ys : List Nat) : List Nat :=
  let l := xs.length
  let c := xs ++ ys
  (List.range l).map fun i =>
    match pat with
    | 0 => if i % 2 = 0 then xs.getD (i / 2) 0 else ys.getD (i / 2) 0
    | 1 => if i % 2 = 0 then xs.getD (l / 2 + i / 2) 0 else ys.getD (l / 2 + i / 2) 0
    | 2 => c.getD (2 * i) 0
    | 3 => c.getD (2 * i + 1) 0
    | 4 => c.getD (i + n) 0
    | _ => xs.getD (l - 1 - i) 0

/-- VSHUF (R197). -/
def execVshuf (d x y : VField) (m : BitVec 3) (pat : BitVec 4) (n : BitVec 6) (s : State) : Out :=
  s.finish do
    let mask := s.maskOf m
    let (vs, s) ← readSources s (if pat = 5 then [x] else [x, y])
    let f := opFormat s.cx d vs .fp32
    vs.foldl (fun r v => match r with
      | .error e => .error e
      | .ok () => laneCheck s v f) (.ok ())
    let xs := (vs.headD (.bits 0)).lanes f false
    let ys := (vs.getLastD (.bits 0)).lanes f false
    s.result 4 d mask f (ofLanes f.laneBits (shuffle pat.toNat n.toNat xs ys))

/-- VINS (R201). -/
def execVins (d x y : VField) (m : BitVec 3) (lane : BitVec 8) (s : State) : Out :=
  s.finish do
    let mask := s.maskOf m
    let (v, s) ← readSource s x
    let f := opFormat s.cx d [v] .fp32
    laneCheck s v f
    let w := (s.cx.s (y.index - 0x40)).toNat % 2 ^ f.laneBits
    s.result 2 d mask f (ofLanes f.laneBits ((v.lanes f false).set (lane.toNat % f.lanes) w))

/-- VEXT (R201). -/
def execVext (d x : VField) (lane : BitVec 8) (s : State) : Out :=
  s.finish do
    let (v, s) ← readSource s x
    tagPresent s v
    let t := v.tag?.getD .fp32
    .ok (s.expose 4 (.scalar (d.index - 0x40)) ((v.lanes t false).getD (lane.toNat % t.lanes) 0))

/-! Masks (R198), tags and moves (R199, R200). -/

/-- VMASK.FROM (R198). A float lane is nonzero when a bit below its sign is. -/
def execVmaskFrom (mk : BitVec 3) (x : VField) (s : State) : Out :=
  s.finish do
    let (v, s) ← readSource s x
    tagPresent s v
    let t := v.tag?.getD .fp32
    let bit (c : Nat) : Nat := if (if t.isFloat then c % t.signBit else c) ≠ 0 then 1 else 0
    .ok (s.expose 2 (.mask mk.toNat) (ofLanes 1 ((v.lanes t false).map bit)))

/-- VMASK.AND (R198). -/
def execVmaskAnd (mk mi mj : BitVec 3) (s : State) : Out :=
  .next (s.expose 2 (.mask mk.toNat) (s.maskOf mi &&& s.maskOf mj).toNat)
/-- VMASK.OR (R198). -/
def execVmaskOr (mk mi mj : BitVec 3) (s : State) : Out :=
  .next (s.expose 2 (.mask mk.toNat) (s.maskOf mi ||| s.maskOf mj).toNat)
/-- VMASK.ANDN (R198). -/
def execVmaskAndn (mk mi mj : BitVec 3) (s : State) : Out :=
  .next (s.expose 2 (.mask mk.toNat) (s.maskOf mi &&& ~~~(s.maskOf mj)).toNat)

/-- VMASK.COUNT (R198). -/
def execVmaskCount (d : VField) (mk : BitVec 3) (s : State) : Out :=
  let m := s.maskOf mk
  .next (s.expose 2 (.scalar (d.index - 0x40)) ((List.range 256).filter fun i => m.getLsbD i).length)

/-- VTAG (R199). -/
def execVtag (d x : VField) (m : BitVec 3) (tag : BitVec 4) (s : State) : Out :=
  s.finish do
    let mask := s.maskOf m
    let (v, s) ← readSource s x
    tagPresent s v
    match v with
    | .row r => s.result 2 d mask (Tag.ofCode tag.toNat) r.data.toNat
    | _ => .ok s

/-- VMOV (R200). -/
def execVmov (d x : VField) (m : BitVec 3) (s : State) : Out := moveRow s 2 d x m .fp32 false

/-! Landings (R43, R46, R327). -/

/-- EXPOSED_RESULT_LANDING (R43, R184). -/
def execExposedResultLanding (ctx : Nat) (s : State) : Out :=
  .next (s.landThose ctx fun e => !e.replayed && decide (e.due ≤ s.cycle))

/-- A write of a special register. -/
def Pend.isSpecial (e : Pend) : Bool :=
  match e.dest with
  | .special _ => true
  | _ => false

/-- REPLAY_LANDING (R327). Writes of special registers that are due in the cycle land with it, before its indications
(R145). -/
def execReplayLanding (ctx : Nat) (s : State) : Out :=
  .next (s.landThose ctx fun e => (e.replayed || e.isSpecial) && decide (e.due ≤ s.cycle))

/-- SCOREBOARD_RESULT_LANDING (R46). -/
def execScoreboardResultLanding (ctx : Nat) (s : State) : Out :=
  .next (s.onCtx ctx (·.landBoard s.cycle))

end Sys2Proof.Machine
end

