-- ==== Sys2Proof/Machine/Dispatch.lean ====
section
/-!
DEFINITION. `exec`: one arm per constructor of `Instr`, each one direct call of its meaning.
-/

namespace Sys2Proof.Machine

def exec (i : Instr) (s : State) : Host.Outcome State Fault Refusal :=
  match i with
  | .tlwaitImm tl n => Sys2Proof.Machine.execTlwaitImm tl n s
  | .tlwaitReg tl sa => Sys2Proof.Machine.execTlwaitReg tl sa s
  | .nop => Sys2Proof.Machine.execNop s
  | .add sd sa sb => Sys2Proof.Machine.execAdd sd sa sb s
  | .sub sd sa sb => Sys2Proof.Machine.execSub sd sa sb s
  | .mul sd sa sb => Sys2Proof.Machine.execMul sd sa sb s
  | .mulh sd sa sb => Sys2Proof.Machine.execMulh sd sa sb s
  | .mulhu sd sa sb => Sys2Proof.Machine.execMulhu sd sa sb s
  | .div sd sa sb => Sys2Proof.Machine.execDiv sd sa sb s
  | .divu sd sa sb => Sys2Proof.Machine.execDivu sd sa sb s
  | .rem sd sa sb => Sys2Proof.Machine.execRem sd sa sb s
  | .remu sd sa sb => Sys2Proof.Machine.execRemu sd sa sb s
  | .and sd sa sb => Sys2Proof.Machine.execAnd sd sa sb s
  | .or sd sa sb => Sys2Proof.Machine.execOr sd sa sb s
  | .xor sd sa sb => Sys2Proof.Machine.execXor sd sa sb s
  | .shl sd sa sb => Sys2Proof.Machine.execShl sd sa sb s
  | .shr sd sa sb => Sys2Proof.Machine.execShr sd sa sb s
  | .sar sd sa sb => Sys2Proof.Machine.execSar sd sa sb s
  | .rotr sd sa sb => Sys2Proof.Machine.execRotr sd sa sb s
  | .min sd sa sb => Sys2Proof.Machine.execMin sd sa sb s
  | .max sd sa sb => Sys2Proof.Machine.execMax sd sa sb s
  | .minu sd sa sb => Sys2Proof.Machine.execMinu sd sa sb s
  | .maxu sd sa sb => Sys2Proof.Machine.execMaxu sd sa sb s
  | .clz sd sa => Sys2Proof.Machine.execClz sd sa s
  | .ctz sd sa => Sys2Proof.Machine.execCtz sd sa s
  | .popc sd sa => Sys2Proof.Machine.execPopc sd sa s
  | .sel sd sa sb pn => Sys2Proof.Machine.execSel sd sa sb pn s
  | .cmpEq pd sa sb => Sys2Proof.Machine.execCmpEq pd sa sb s
  | .cmpNe pd sa sb => Sys2Proof.Machine.execCmpNe pd sa sb s
  | .cmpLt pd sa sb => Sys2Proof.Machine.execCmpLt pd sa sb s
  | .cmpLe pd sa sb => Sys2Proof.Machine.execCmpLe pd sa sb s
  | .cmpLtu pd sa sb => Sys2Proof.Machine.execCmpLtu pd sa sb s
  | .cmpLeu pd sa sb => Sys2Proof.Machine.execCmpLeu pd sa sb s
  | .pset pd pa pb tt => Sys2Proof.Machine.execPset pd pa pb tt s
  | .pmovToScalar sd => Sys2Proof.Machine.execPmovToScalar sd s
  | .pmovToPredicates sa => Sys2Proof.Machine.execPmovToPredicates sa s
  | .extr sd sa pos len => Sys2Proof.Machine.execExtr sd sa pos len s
  | .ins sd sa pos len => Sys2Proof.Machine.execIns sd sa pos len s
  | .sfadd sd sa sb => Sys2Proof.Machine.execSfadd sd sa sb s
  | .sfmul sd sa sb => Sys2Proof.Machine.execSfmul sd sa sb s
  | .sfma sd sa sb sc => Sys2Proof.Machine.execSfma sd sa sb sc s
  | .sfcvt sd sa kind => Sys2Proof.Machine.execSfcvt sd sa kind s
  | .abuf ad sa sb => Sys2Proof.Machine.execAbuf ad sa sb s
  | .aadd ad aa sb imm => Sys2Proof.Machine.execAadd ad aa sb imm s
  | .aget sd aa => Sys2Proof.Machine.execAget sd aa s
  | .aset ad sa => Sys2Proof.Machine.execAset ad sa s
  | .rdsp sd num => Sys2Proof.Machine.execRdsp sd num s
  | .wrsp sa num => Sys2Proof.Machine.execWrsp sa num s
  | .addi sd sa imm => Sys2Proof.Machine.execAddi sd sa imm s
  | .andi sd sa imm => Sys2Proof.Machine.execAndi sd sa imm s
  | .ori sd sa imm => Sys2Proof.Machine.execOri sd sa imm s
  | .xori sd sa imm => Sys2Proof.Machine.execXori sd sa imm s
  | .shli sd sa n => Sys2Proof.Machine.execShli sd sa n s
  | .shri sd sa n => Sys2Proof.Machine.execShri sd sa n s
  | .sari sd sa n => Sys2Proof.Machine.execSari sd sa n s
  | .movi sd imm => Sys2Proof.Machine.execMovi sd imm s
  | .movhi sd imm => Sys2Proof.Machine.execMovhi sd imm s
  | .br off => Sys2Proof.Machine.execBr off s
  | .brInd sa => Sys2Proof.Machine.execBrInd sa s
  | .call sd off => Sys2Proof.Machine.execCall sd off s
  | .callInd sd sa => Sys2Proof.Machine.execCallInd sd sa s
  | .ret sa => Sys2Proof.Machine.execRet sa s
  | .brpAny pn cnt off => Sys2Proof.Machine.execBrpAny pn cnt off s
  | .brpAll pn cnt off => Sys2Proof.Machine.execBrpAll pn cnt off s
  | .brpNone pn cnt off => Sys2Proof.Machine.execBrpNone pn cnt off s
  | .loopReg len sa id => Sys2Proof.Machine.execLoopReg len sa id s
  | .loopImm len id count => Sys2Proof.Machine.execLoopImm len id count s
  | .lbrk => Sys2Proof.Machine.execLbrk s
  | .fork map o1 o2 o3 => Sys2Proof.Machine.execFork map o1 o2 o3 s
  | .join mask => Sys2Proof.Machine.execJoin mask s
  | .gpost g => Sys2Proof.Machine.execGpost g s
  | .gtake g => Sys2Proof.Machine.execGtake g s
  | .gwait g => Sys2Proof.Machine.execGwait g s
  | .gclr g => Sys2Proof.Machine.execGclr g s
  | .halt => Sys2Proof.Machine.execHalt s
  | .yield => Sys2Proof.Machine.execYield s
  | .svc code => Sys2Proof.Machine.execSvc code s
  | .trapret => Sys2Proof.Machine.execTrapret s
  | .ctxsave sa aa grade => Sys2Proof.Machine.execCtxsave sa aa grade s
  | .ctxload sa aa grade => Sys2Proof.Machine.execCtxload sa aa grade s
  | .tinv sa sb size => Sys2Proof.Machine.execTinv sa sb size s
  | .ldU8 sd aa cls off => Sys2Proof.Machine.execLdU8 sd aa cls off s
  | .ldS8 sd aa cls off => Sys2Proof.Machine.execLdS8 sd aa cls off s
  | .ldU16 sd aa cls off => Sys2Proof.Machine.execLdU16 sd aa cls off s
  | .ldS16 sd aa cls off => Sys2Proof.Machine.execLdS16 sd aa cls off s
  | .ldU32 sd aa cls off => Sys2Proof.Machine.execLdU32 sd aa cls off s
  | .ldS32 sd aa cls off => Sys2Proof.Machine.execLdS32 sd aa cls off s
  | .ld64 sd aa cls off => Sys2Proof.Machine.execLd64 sd aa cls off s
  | .st8 sa aa cls off => Sys2Proof.Machine.execSt8 sa aa cls off s
  | .st16 sa aa cls off => Sys2Proof.Machine.execSt16 sa aa cls off s
  | .st32 sa aa cls off => Sys2Proof.Machine.execSt32 sa aa cls off s
  | .st64 sa aa cls off => Sys2Proof.Machine.execSt64 sa aa cls off s
  | .ldacq32 sd aa cls off => Sys2Proof.Machine.execLdacq32 sd aa cls off s
  | .ldacq64 sd aa cls off => Sys2Proof.Machine.execLdacq64 sd aa cls off s
  | .strel32 sa aa cls off => Sys2Proof.Machine.execStrel32 sa aa cls off s
  | .strel64 sa aa cls off => Sys2Proof.Machine.execStrel64 sa aa cls off s
  | .ldq cnt aa cls stride => Sys2Proof.Machine.execLdq cnt aa cls stride s
  | .ldqRowArrival ctx => Sys2Proof.Machine.execLdqRowArrival ctx s
  | .stqa cnt aa cls stride => Sys2Proof.Machine.execStqa cnt aa cls stride s
  | .pairedStoreWrite ctx => Sys2Proof.Machine.execPairedStoreWrite ctx s
  | .amoAdd sd aa sb cls sz un => Sys2Proof.Machine.execAmoAdd sd aa sb cls sz un s
  | .amoMin sd aa sb cls sz un => Sys2Proof.Machine.execAmoMin sd aa sb cls sz un s
  | .amoMax sd aa sb cls sz un => Sys2Proof.Machine.execAmoMax sd aa sb cls sz un s
  | .amoAnd sd aa sb cls sz un => Sys2Proof.Machine.execAmoAnd sd aa sb cls sz un s
  | .amoOr sd aa sb cls sz un => Sys2Proof.Machine.execAmoOr sd aa sb cls sz un s
  | .amoXor sd aa sb cls sz un => Sys2Proof.Machine.execAmoXor sd aa sb cls sz un s
  | .amoSwap sd aa sb cls sz un => Sys2Proof.Machine.execAmoSwap sd aa sb cls sz un s
  | .cas sd aa sb cls sz un => Sys2Proof.Machine.execCas sd aa sb cls sz un s
  | .fence mask scope => Sys2Proof.Machine.execFence mask scope s
  | .flset sb aa cls scope => Sys2Proof.Machine.execFlset sb aa cls scope s
  | .flsetAdd sb aa cls scope => Sys2Proof.Machine.execFlsetAdd sb aa cls scope s
  | .flwaitGe sb aa cls scope => Sys2Proof.Machine.execFlwaitGe sb aa cls scope s
  | .flwaitEq sb aa cls scope => Sys2Proof.Machine.execFlwaitEq sb aa cls scope s
  | .flwaitNe sb aa cls scope => Sys2Proof.Machine.execFlwaitNe sb aa cls scope s
  | .flagReevaluation ctx grp => Sys2Proof.Machine.execFlagReevaluation ctx grp s
  | .cpy st ad as sn q cls sf => Sys2Proof.Machine.execCpy st ad as sn q cls sf s
  | .cpyl ad as sb q => Sys2Proof.Machine.execCpyl ad as sb q s
  | .gath st ad as sn q cls esz => Sys2Proof.Machine.execGath st ad as sn q cls esz s
  | .scat st ad as sn q cls esz => Sys2Proof.Machine.execScat st ad as sn q cls esz s
  | .tmov st ad as sn q cls sf => Sys2Proof.Machine.execTmov st ad as sn q cls sf s
  | .rwr st ad as sn q cls sf => Sys2Proof.Machine.execRwr st ad as sn q cls sf s
  | .pref st ad as sn q cls sb => Sys2Proof.Machine.execPref st ad as sn q cls sb s
  | .evict st ad as sn q cls sb => Sys2Proof.Machine.execEvict st ad as sn q cls sb s
  | .credSum st ad as sn q cls sc ty => Sys2Proof.Machine.execCredSum st ad as sn q cls sc ty s
  | .credMax st ad as sn q cls sc ty => Sys2Proof.Machine.execCredMax st ad as sn q cls sc ty s
  | .credSmerge st ad as sn q cls sc ty => Sys2Proof.Machine.execCredSmerge st ad as sn q cls sc ty s
  | .credRoundCompletion crew => Sys2Proof.Machine.execCredRoundCompletion crew s
  | .kvgath st ad ab sp q cls sl v pol => Sys2Proof.Machine.execKvgath st ad ab sp q cls sl v pol s
  | .kvgathSlotWake ctx q => Sys2Proof.Machine.execKvgathSlotWake ctx q s
  | .kvapp st ab as sp q cls sl mode => Sys2Proof.Machine.execKvapp st ab as sp q cls sl mode s
  | .appendAction ctx q => Sys2Proof.Machine.execAppendAction ctx q s
  | .tlget sd tl => Sys2Proof.Machine.execTlget sd tl s
  | .copyBeat ctx q => Sys2Proof.Machine.execCopyBeat ctx q s
  | .engineTrap ctx => Sys2Proof.Machine.execEngineTrap ctx s
  | .vch cc a b c d x y z m => Sys2Proof.Machine.execVch cc a b c d x y z m s
  | .vcvt d x y m tag => Sys2Proof.Machine.execVcvt d x y m tag s
  | .vredAdd d x m => Sys2Proof.Machine.execVredAdd d x m s
  | .vredMax d x m => Sys2Proof.Machine.execVredMax d x m s
  | .vredMin d x m => Sys2Proof.Machine.execVredMin d x m s
  | .vredAnd d x m => Sys2Proof.Machine.execVredAnd d x m s
  | .vredOr d x m => Sys2Proof.Machine.execVredOr d x m s
  | .vscanAdd d x m => Sys2Proof.Machine.execVscanAdd d x m s
  | .vscanMax d x m => Sys2Proof.Machine.execVscanMax d x m s
  | .vscanMin d x m => Sys2Proof.Machine.execVscanMin d x m s
  | .vscanAnd d x m => Sys2Proof.Machine.execVscanAnd d x m s
  | .vscanOr d x m => Sys2Proof.Machine.execVscanOr d x m s
  | .vperm d x y m => Sys2Proof.Machine.execVperm d x y m s
  | .vbcast d x m lane => Sys2Proof.Machine.execVbcast d x m lane s
  | .vshuf d x y m pat n => Sys2Proof.Machine.execVshuf d x y m pat n s
  | .vmaskFrom mk x => Sys2Proof.Machine.execVmaskFrom mk x s
  | .vmaskAnd mk mi mj => Sys2Proof.Machine.execVmaskAnd mk mi mj s
  | .vmaskOr mk mi mj => Sys2Proof.Machine.execVmaskOr mk mi mj s
  | .vmaskAndn mk mi mj => Sys2Proof.Machine.execVmaskAndn mk mi mj s
  | .vmaskCount d mk => Sys2Proof.Machine.execVmaskCount d mk s
  | .vtag d x m tag => Sys2Proof.Machine.execVtag d x m tag s
  | .vmov d x m => Sys2Proof.Machine.execVmov d x m s
  | .vext d x lane => Sys2Proof.Machine.execVext d x lane s
  | .vins d x y m lane => Sys2Proof.Machine.execVins d x y m lane s
  | .exposedResultLanding ctx => Sys2Proof.Machine.execExposedResultLanding ctx s
  | .scoreboardResultLanding ctx => Sys2Proof.Machine.execScoreboardResultLanding ctx s
  | .mcfg t fmt => Sys2Proof.Machine.execMcfg t fmt s
  | .mset level field sa => Sys2Proof.Machine.execMset level field sa s
  | .msetI level field imm => Sys2Proof.Machine.execMsetI level field imm s
  | .mgo => Sys2Proof.Machine.execMgo s
  | .mwait => Sys2Proof.Machine.execMwait s
  | .mclr t => Sys2Proof.Machine.execMclr t s
  | .mstop => Sys2Proof.Machine.execMstop s
  | .msnap td ts sd => Sys2Proof.Machine.execMsnap td ts sd s
  | .mplane ad as sn fmt => Sys2Proof.Machine.execMplane ad as sn fmt s
  | .mprov sd word => Sys2Proof.Machine.execMprov sd word s
  | .matrixStep ctx => Sys2Proof.Machine.execMatrixStep ctx s
  | .route sd atile ar st sl rows => Sys2Proof.Machine.execRoute sd atile ar st sl rows s
  | .heddleDelivery ctx num => Sys2Proof.Machine.execHeddleDelivery ctx num s
  | .rret st ar => Sys2Proof.Machine.execRret st ar s
  | .reedReturnArrival n => Sys2Proof.Machine.execReedReturnArrival n s
  | .routeDeadline ctx num => Sys2Proof.Machine.execRouteDeadline ctx num s
  | .rwait si => Sys2Proof.Machine.execRwait si s
  | .rstat sd si word => Sys2Proof.Machine.execRstat sd si word s
  | .conftMaxp pd al sh sx => Sys2Proof.Machine.execConftMaxp pd al sh sx s
  | .conftEnt pd al sh sx => Sys2Proof.Machine.execConftEnt pd al sh sx s
  | .exitRecordPosting die => Sys2Proof.Machine.execExitRecordPosting die s
  | .chervilAgeTimeout die => Sys2Proof.Machine.execChervilAgeTimeout die s
  | .chervilCardSubmission die => Sys2Proof.Machine.execChervilCardSubmission die s
  | .chervilRetry die => Sys2Proof.Machine.execChervilRetry die s
  | .rngkey sa sb rst => Sys2Proof.Machine.execRngkey sa sb rst s
  | .enrd sd => Sys2Proof.Machine.execEnrd sd s
  | .jobq sd ac sq => Sys2Proof.Machine.execJobq sd ac sq s
  | .launch sd ac sq => Sys2Proof.Machine.execLaunch sd ac sq s
  | .futinit af => Sys2Proof.Machine.execFutinit af s
  | .futreg af sc sj => Sys2Proof.Machine.execFutreg af sc sj s
  | .futres af sv => Sys2Proof.Machine.execFutres af sv s
  | .futwait sd af => Sys2Proof.Machine.execFutwait sd af s
  | .continuationCredit => Sys2Proof.Machine.execContinuationCredit s
  | .continuationLaunch => Sys2Proof.Machine.execContinuationLaunch s
  | .crewjoin sd sc => Sys2Proof.Machine.execCrewjoin sd sc s
  | .crewleave sc => Sys2Proof.Machine.execCrewleave sc s
  | .cbar sc => Sys2Proof.Machine.execCbar sc s
  | .crewGenerationCompletion crew => Sys2Proof.Machine.execCrewGenerationCompletion crew s
  | .streamDeadlock ctx => Sys2Proof.Machine.execStreamDeadlock ctx s
  | .replayLanding ctx => Sys2Proof.Machine.execReplayLanding ctx s
  | .noticePost ctx n => Sys2Proof.Machine.execNoticePost ctx n s
  | .noticeTrap ctx => Sys2Proof.Machine.execNoticeTrap ctx s
  | .agentWatchTrap ctx => Sys2Proof.Machine.execAgentWatchTrap ctx s
  | .hang ctx => Sys2Proof.Machine.execHang ctx s
  | .freezeRequest ctx => Sys2Proof.Machine.execFreezeRequest ctx s
  | .bindNew ctx record => Sys2Proof.Machine.execBindNew ctx record s
  | .restore ctx record => Sys2Proof.Machine.execRestore ctx record s
  | .swapOut ctx record => Sys2Proof.Machine.execSwapOut ctx record s
  | .tearDown ctx record => Sys2Proof.Machine.execTearDown ctx record s
  | .cadenceRelease q => Sys2Proof.Machine.execCadenceRelease q s
  | .cardAgeing q => Sys2Proof.Machine.execCardAgeing q s
  | .quantumExpiry ctxs => Sys2Proof.Machine.execQuantumExpiry ctxs s
  | .staticEnergyCharge tile => Sys2Proof.Machine.execStaticEnergyCharge tile s
  | .firmwareInvalidation buffer page size => Sys2Proof.Machine.execFirmwareInvalidation buffer page size s
  | .queueSwitchOut q => Sys2Proof.Machine.execQueueSwitchOut q s
  | .queueSwitchIn q desc => Sys2Proof.Machine.execQueueSwitchIn q desc s
  | .qftWrite m => Sys2Proof.Machine.execQftWrite m s
  | .qftRead m => Sys2Proof.Machine.execQftRead m s
  | .qftReaddata m => Sys2Proof.Machine.execQftReaddata m s
  | .qftPut m => Sys2Proof.Machine.execQftPut m s
  | .qftGet m => Sys2Proof.Machine.execQftGet m s
  | .qftDone m => Sys2Proof.Machine.execQftDone m s
  | .qftLoad m => Sys2Proof.Machine.execQftLoad m s
  | .qftColl m c => Sys2Proof.Machine.execQftColl m c s
  | .qftTrace m => Sys2Proof.Machine.execQftTrace m s
  | .qftNak m => Sys2Proof.Machine.execQftNak m s
  | .nonQftDatagram port => Sys2Proof.Machine.execNonQftDatagram port s
  | .qftResendTimeout port peer chan => Sys2Proof.Machine.execQftResendTimeout port peer chan s
  | .moduleReset => Sys2Proof.Machine.execModuleReset s
  | .functionReady f => Sys2Proof.Machine.execFunctionReady f s
  | .powerWindow watts => Sys2Proof.Machine.execPowerWindow watts s
  | .thermalThrottle die temp => Sys2Proof.Machine.execThermalThrottle die temp s
  | .thermalTrip die temp => Sys2Proof.Machine.execThermalTrip die temp s
  | .cardCountZeroDispatch q => Sys2Proof.Machine.execCardCountZeroDispatch q s
  | .traceFrame cluster => Sys2Proof.Machine.execTraceFrame cluster s
  | .portLinkChange port up => Sys2Proof.Machine.execPortLinkChange port up s
  | .thermalCoolBelow100 die temp => Sys2Proof.Machine.execThermalCoolBelow100 die temp s

end Sys2Proof.Machine
end

