-- ==== Sys2Proof/Machine/Issue.lean ====
section
/-!
DEFINITION. The issue of one bundle (R25, R38-R41, R323), and the writes of steward firmware and of the world
outside that are no row of the opcode table.
-/

namespace Sys2Proof.Machine

/-- The state with an issuer. -/
def State.issuer (s : State) (c g : Nat) : State := { s with me := c, grp := g }
/-- The state in which a stream's turn begins. -/
def State.looking (s : State) (c g : Nat) : State := { s with me := c, grp := g, status := .running, jumped := false }
/-- The state in which the syllable of a slot takes effect. -/
def State.atSlot (s : State) (n : Nat) : State := { s with slot := n }
/-- A bundle of the issuing stream goes: its stall has ended, its slots are taken, and control goes to `npc` unless
it says otherwise. -/
def State.going (s : State) (npc : Word) (used : Nat) : State :=
  let t := (s.endWait s.me s.grp 0).upStream fun t => { t with checkStop := false }
  { t with npc := npc, taken := Tab.set s.taken (s.me / 16) (Tab.get 0 s.taken (s.me / 16) ||| used) }
/-- The state after a walk entry has been taken. -/
def State.popTurn (s : State) (r : List Turn) : State := { s with turn := r }
/-- The state that ends in a trap or a stall still to be acted on. -/
def State.ends (s : State) (e : Status) : State := { s with status := e }

/-- The syllables of slots 6 and 7 whose accesses perform after every earlier store of their stream (R123, R269), those
of the bundle's own vector slots among them (R264). The accesses of ROUTE, MGO and MPLANE are their engines', which wait
for those stores themselves. -/
def followsStores : Instr → Bool
  | .rret .. | .conftMaxp .. | .conftEnt .. | .futres .. | .cbar .. => true
  | _ => false

/-- A syllable that takes effect once the rows of its own bundle's paired stores are written: the state without its
effect, which `performLate` carries out (R131, R264). CONFT's predicate is pending from its issue on (R46). -/
def State.deferred (s : State) (y : Syl) (bound : Nat) : State :=
  let t := s.up fun x => { x with eng := { x.eng with
    late := x.eng.late ++ [⟨bound, s.grp, y.slot, y.op, x.regs.s, x.regs.a, x.trap.handler⟩] } }
  match y.op with
  | .conftMaxp pd .. | .conftEnt pd .. => t.await (.pred pd.toNat)
  | _ => t

/-- The state after a syllable that could take effect: with its effect, unless it follows a paired store of its own
bundle. -/
def State.settles (s u : State) (y : Syl) : State :=
  let bound := s.cx.placedNow s.grp 0xFFFF s.cycle
  if followsStores y.op ∧ bound ≠ 0 then s.deferred y bound else u

/-- A trap with the slot of the syllable that raises it (R64). -/
def Trap.inSlot (t : Trap) (n : Nat) : Trap := { t with slot := t.slot.orElse fun _ => some n }

/-- Every syllable whose guard is true takes effect; a stall of any comes before a fault of any, and the first
fault in this order is the bundle's (log 15). The service call, which is no fault, is taken when no syllable
faults (R323). -/
def runSyllables : List Syl → State → Option Trap → Out
  | [], s, none => .next s
  | [], s, some t => .next (s.ends (.trapped t))
  | y :: ys, s, t =>
    if guardTrue s.cx y.guard then
      match exec y.op (s.atSlot y.slot) with
      | .fault f => .fault f
      | .refused r => .refused r
      | .next u => match u.status with
        | .held _ => .next u
        | .trapped e =>
          if e.cond = 0x26 ∧ t = none then .next u
          else runSyllables ys s (if e.cond = 0x26 then t else t.orElse fun _ => some (e.inSlot y.slot))
        | .running | .moved => runSyllables ys (s.settles u y) t
    else runSyllables ys s t

/-- Control syllables come last: they see what the bundle's other syllables do (R279). -/
def issueOrder (ys : List Syl) : List Syl := ys.filter (!·.op.isControl) ++ ys.filter (·.op.isControl)

/-- Weight and count of a syllable's charge at issue (R317). -/
def syllableCharge (y : Syl) : Nat × Nat :=
  match y.op with
  | .vch _ a b c .. => (1, max 1 ((if a = 0 then 0 else 1) + (if b = 0 then 0 else 1) + (if c = 0 then 0 else 1)))
  | .fork .. => (0, 2)
  | _ => if y.slot ≤ 3 then (0, 1) else if y.slot = 4 ∨ y.slot = 5 then (1, 1) else if y.slot = 7 then (7, 1) else (0, 0)

/-- The issue slots of a syllable of a context's group: FORK's halves lie in two (R49, R288), and a slot-0 syllable of a
stream without S0 uses none (R32). -/
def sylSlots (x : Ctx) (g : Nat) (y : Syl) : List Nat :=
  match y.op with
  | .fork .. => [0, 1]
  | _ => if x.forked ∧ y.slot = 0 ∧ mapGroup x.map 0 ≠ g then [] else [y.slot]

/-- Charges and trace notes of a bundle that context c, as it stood before it, has issued in its group (R317, R347). -/
def State.issued (s : State) (c : Nat) (before : Ctx) (ys : List Syl) : State :=
  let s := ys.foldl (fun s y =>
    let (w, n) := syllableCharge y
    if (s.ctx c).bound then s.charge c w n else s) s
  let s := if (s.ctx c).bound then s.onCtx c fun x => { x with issued := s.cycle } else s
  { s with notes := s.notes ++ [{ tile := c / 16, issue := ys.flatMap fun y => (sylSlots before s.grp y).map fun n => (n, c % 16) }] }

/-- The slots of a tile already taken in this cycle (R25). -/
def State.slotsTaken (s : State) (c : Nat) : Nat := Tab.get 0 s.taken (c / 16)

/-- The bundle of the issuing stream, from its words: the state after it with its slots taken, or held, or
trapped. -/
def runBundle (s : State) (ws : List Nat) : Out :=
  match decodeBundle ws with
  | .error e => .next (s.ends (.trapped (decodeTrap e)))
  | .ok ys =>
    let used := slotsUsed s.cx s.grp ys
    if s.slotsTaken s.me &&& used ≠ 0 then .next (s.ends (.held .later))
    else match checkBundle s.cx s.grp s.cycle ys with
    | .error (.trap t) => .next (s.ends (.trapped t))
    | .error (.hold h) => .next (s.hold h)
    | .ok () =>
      let live := ys.filter fun y => guardTrue s.cx y.guard
      match runSyllables (issueOrder ys) (s.going (pcAdd s.stream.pc ws.length) used) none with
      | .fault f => .fault f
      | .refused r => .refused r
      | .next u => match u.status with
        | .running => .next (u.advance.issued s.me s.cx live)
        | .moved => .next (u.issued s.me s.cx live)
        | .trapped e => if e.cond = 0x26 then .next (u.issued s.me s.cx live) else .next u
        | .held _ => .next u

/-- Whether a syllable that has issued and waits to perform belongs to what runs now: the handler, or the program while
no handler runs. -/
def Ctx.mayPerform (x : Ctx) (l : Late) : Bool := l.inner == x.trap.handler

/-- Whether a stream of a context has nothing to issue: the context is not there or stands still, the stream has joined
or is no more (R289), or a syllable that it has issued is still to perform (R238, R264). -/
def Ctx.idle (x : Ctx) (g : Nat) (t : Stream) : Bool :=
  !x.bound || x.trap.stopped || x.freeze || x.trapping.isSome || t.joined || decide (x.streams.length ≤ g) ||
  x.eng.late.any fun l => l.grp == g && x.mayPerform l

/-- Whether results of a strand are in flight. -/
def Ctx.inFlight (x : Ctx) : Bool := !(x.pend.isEmpty && x.board.isEmpty)

/-- What a stream does in its turn: nothing, its leave, its barrier, or its next bundle. A strand that YIELD may save
lets its results land first (R310). -/
def lookAt (s : State) (c g : Nat) : Out :=
  let s := s.looking c g
  let x := s.cx
  let t := s.stream
  if x.idle g t then .next (s.ends (.held .later))
  else match t.leave with
  | some .halt => .next (if x.drained then (s.leaveHalt c).ends .moved else s.ends (.held .later))
  | some .yield =>
    .next (if x.drained && !(x.yieldAsk && x.inFlight) then (s.leaveYield c).ends .moved else s.ends (.held .later))
  | none =>
  match t.barrier with
  | some b => .next (s.hold (.barrier b.1))
  | none =>
  match debugStop x t with
  | some e => .next (s.ends (.trapped e))
  | none =>
  match fetchBundle s x.bind.who t.loops t.pc with
  | .error f => .next (s.ends (.trapped { origin := 0, cond := f.cond, addr := f.addr, info := word f.info }))
  | .ok ws => runBundle s ws

/-- A stall: the stream waits, and CTXSAVE asks for its target (R331, R333). -/
def State.stalled (s : State) (h : Hold) : State :=
  match h with
  | .later => s
  | .save c 0 a => (s.onCtx c fun x => { x with yieldAsk := true, yieldTo := some (s.me, a) }).hold h
  | .save c _ _ => (s.freezeStart c (some s.me)).hold h
  | h => s.hold h

/-- The trap of the stream in its turn; a debug stop disarms (R338). -/
def State.trapNow (s : State) (t : Trap) : State :=
  let s := if t.cond = 0x29 then
      s.up fun x => { x with probe := { x.probe with dbgctl := x.probe.dbgctl &&& ~~~1 } }
    else s
  s.trapHere t

/-- The turn of one stream (R25). In a forked strand a fault has been looked for before any stream issued;
one that comes up afterwards is looked at in the next cycle. -/
def streamTurn (s : State) (c g : Nat) : Out :=
  match lookAt s c g with
  | .fault f => .fault f
  | .refused r => .refused r
  | .next u =>
    let back := s.issuer c g
    match u.status with
    | .running | .moved => .next u
    | .held h => .next (back.stalled h)
    | .trapped t =>
      if t.cond = 0x26 then .next u
      else if back.cx.forked then .next back else .next (back.trapNow t)

/-- The first fault among a strand's streams in group order, each looked at as the lower groups' bundles leave the
context (R127, R202, R323). -/
def firstTrap (s : State) (c : Nat) : List Nat → Option (Nat × Trap)
  | [] => none
  | g :: gs => match lookAt s c g with
    | .next u => match u.status with
      | .trapped t => if t.cond = 0x26 then firstTrap s c gs else some (g, t)
      | .held _ => firstTrap s c gs
      | .running | .moved => firstTrap u c gs
    | _ => firstTrap s c gs

/-- The asynchronous traps that a context may be due, before its bundles (R332, R341). -/
def Ctx.asyncTraps (x : Ctx) (c : Nat) : List Instr :=
  if x.bound && !x.freeze && !x.trap.handler && !x.trap.stopped then
    (if x.trap.enable &&& x.trap.pending != 0 then [.noticeTrap c] else []) ++
    (if x.probe.watch.any (·.pending) then [.agentWatchTrap c] else [])
  else []

/-- What a strand without a fault does in its turn, in this order: an asynchronous trap, a freeze that has been asked
for, the releases that wait, and its streams in group order (R25, R331, R332, R341). -/
def Ctx.turns (x : Ctx) (c : Nat) : List Turn :=
  (x.asyncTraps c).map .event ++ (if x.freezeAsk then [.freeze c] else []) ++
  (if x.eng.late.isEmpty then [] else [.late c]) ++ (List.range x.streams.length).map (.stream c ·)

/-- A strand's turn (R323): the trap that it has stopped for, once the results that must land first have landed (R324);
else the lowest group's fault, or what it does without one. -/
def scanTurn (s : State) (c : Nat) : State :=
  let x := s.ctx c
  match x.trapping with
  | some (g, t) => if x.answerDue then s else (s.onCtx c fun x => { x with trapping := none }).takeTrapOf c g t
  | none =>
  match firstTrap s c (List.range x.streams.length) with
  | some (g, t) => (s.issuer c g).trapNow t
  | none => { s with turn := x.turns c ++ s.turn }

/-- The context as a syllable that has waited finds it: with the registers of its issue, its own watches checked then
(R340), and CONFT's predicate not yet pending. -/
def Late.context (l : Late) (x : Ctx) : Ctx :=
  let board := match l.op with
    | .conftMaxp pd .. | .conftEnt pd .. => x.board.filter fun b => b.dest != .pred pd.toNat
    | _ => x.board
  { (x.onStream l.grp fun t => { t with exempt := true }) with
    regs := { x.regs with s := l.s, a := l.a }, board := board, eng := { x.eng with late := x.eng.late.erase l } }

/-- The context after it: registers and the stream's exemption as they were. -/
def Late.after (l : Late) (x y : Ctx) : Ctx :=
  { (y.onStream l.grp fun t => { t with exempt := (x.streams.getD l.grp {}).exempt }) with
    regs := { y.regs with s := x.regs.s, a := x.regs.a } }

/-- The first of the releases of a context that wait performs, once the rows before it are written. A fault of it is
taken where the stream stands (R264). -/
def performLate (s : State) (c : Nat) : Out :=
  let x := s.ctx c
  match x.eng.late.find? x.mayPerform with
  | none => .next s
  | some l =>
    if !x.writtenTo l.bound || x.trap.stopped || x.freeze then .next s
    else
      let bare := (s.looking c l.grp).atSlot l.slot
      match exec l.op (bare.up l.context) with
      | .fault f => .fault f
      | .refused r => .refused r
      | .next u => match u.status with
        | .held _ => .next s
        | .trapped t => .next ((bare.up fun x => { x with board := (l.context x).board, eng := (l.context x).eng }).trapNow t)
        | .running | .moved => .next (u.onCtx c (l.after x))

/-- One entry of the walk. -/
def takeTurn (s : State) : Turn → Out
  | .scan c => .next (scanTurn s c)
  | .stream c g => streamTurn s c g
  | .late c => performLate s c
  | .service c g t => .next ((s.looking c g).trapHere t)
  | .event i => exec i (s.ends .running)
  | .freeze c => .next (s.freezeNow c)
  | .chunk c => .next (s.serveChunk c)

/-! Inputs (log 17). -/

/-- Bytes that a steward core writes, seen by watches of scratchpads and by flag waits (R341, R343). Memory that is not
ready takes nothing (R362). -/
def State.fwBytes (s : State) (core space off : Nat) (bs : List Byte) : State :=
  let ks := keysFrom (keyOf space off) bs.length
  let g := stewardAgent core
  if !keysReady s ks then s
  else
  let s := { s with mem := memPutAll s.mem ks bs }
  let s := if 320 ≤ space ∧ space < 448 then noteWatches s g 0 128 (addrOf (0xFE00 + (space - 320)) off) bs.length
    else if 448 ≤ space ∧ space < 464 then noteWatches s g 0 (8 * (space - 448)) (addrOf 0xFFFE off) bs.length
    else if 464 ≤ space ∧ space < 466 then noteWatches s g 0 (64 * (space - 464)) (addrOf 0xFFFD off) bs.length
    else s
  noteFlags s g ks

/-- A firmware write performed (R24, R27, R300, R317). The pool mode of a tile with a bound slot stays. -/
def applyFw (s : State) : FwWrite → State
  | .poolMode t m => if s.bound.any (·.1 / 16 == t) then s else { s with pool := Tab.set s.pool t (m % 3) }
  | .queue q d => s.describe q d
  | .weight d i v => { s with weights := Tab.set s.weights (d * 16 + i) (v % 2 ^ 32) }
  | .team t r => { s with teams := Tab.set s.teams t r }
  | .ports h t r => { s with portRecs := Tab.set s.portRecs (t * 2 ^ 64 + h.toNat) r }
  | .memory core sp off bs => s.fwBytes core sp off bs
  | .poison sp off => { s with poison := keyOf sp off / 64 :: s.poison }
  | .softError => { s with eccCnt := min (s.eccCnt + 1) (2 ^ 64 - 1) }
  | .channel c t b => { s with chteam := Tab.set s.chteam c (word (t.toNat % 2 ^ 17)), chtab := Tab.set s.chtab c b }
  | .peer d lo hi ctl =>
    s.setPeers d (Tab.set (Tab.set (Tab.set s.peers (4 * d) lo) (4 * d + 1) hi) (4 * d + 2) (word (ctl.toNat % 16)))
  | .yieldAsk c => s.onCtx c fun x => { x with yieldAsk := x.bound }
  | .slot c r => s.writeSlot c r
  | .periods ageing quantum => { s with agePeriod := ageing, quantum := quantum }
  | .portAddress p a => { s with portAddr := Tab.set s.portAddr p a }
  | .clock k level => s.setClock k level
  | .unlisted m => s.unlisted m
  | .loadEnd m => s.loadEnds m
  | .translated t a k bs => s.placeCode t a k bs

end Sys2Proof.Machine
end

