-- ==== Sys2Proof/Machine/Place.lean ====
section
/-!
DEFINITION. An instruction placed where the next step fetches (log 3): context slot 0 bound in lockstep, its
table, its page table and its code in fast channel 0.
-/

namespace Sys2Proof.Machine

/-- The program counter of a placed instruction: buffer 0, offset 0x4000. -/
def placePc : Word := addrOf 0 0x4000

/-- Buffer-table entry 0: valid, read, write and execute rights, 1 GiB, any owner, fast tier, channel 0, pages
of 1 GiB, page-table root at 0x1000 of channel 0 (R71). -/
def placeEntry : Nat :=
  2 ^ 30 + 7 * 2 ^ 52 + 2 ^ 63 + 3 * 2 ^ 94 + 0xFFFF * 2 ^ 112 + 1 * 2 ^ 140

/-- The instruction words as stored: the last one ends the bundle (R38). -/
def placeWords (nbits w : Nat) : List Nat :=
  let first := w % 2 ^ 64
  if nbits ≤ 64 then [setBits first 63 63 1] else [first, setBits (w / 2 ^ 64 % 2 ^ 64) 63 63 1]

/-- The memory of a placed instruction: table entry at 0, level 0 of the page table at 0x1000, level 1 at
0x2000 with a 1 GiB page at address 0 (R78), code at 0x4000. -/
def placeMem (m : List Host.Cell) (nbits w : Nat) : List Host.Cell :=
  let m := memPutAll m (keysFrom 0 64) (toBytes 64 placeEntry)
  let m := memPutAll m (keysFrom 0x1000 8) (toBytes 8 0x2001)
  let m := memPutAll m (keysFrom 0x2000 8) (toBytes 8 1)
  let ws := placeWords nbits w
  memPutAll m (keysFrom 0x4000 (8 * ws.length)) (wordsBytes ws)

/-- Slot 0 able to fetch at `placePc`, in lockstep. -/
def placeCtx (s : State) : Ctx :=
  let x := s.ctx 0
  let mode := s.poolOf 0
  let w := { x.bind.who with
    ctx := 0, tile := 0, usBase := 0, usSize := shareSize mode, btChan := 0, btAddr := 0, btCount := 1 }
  { x with bound := true, freeze := false, freezeAsk := false, freezer := none, eng := { x.eng with late := [] }, trap := { x.trap with stopped := false },
           bind := { x.bind with who := w, pool := mode }, streams := [{ pc := placePc }], rnd := ⟨6, s.cycle⟩ }

/-- The state with the instruction placed (see `State.withFetchWord`). -/
def State.place0 (s : State) (nbits w : Nat) : State :=
  { s.setCtx 0 (placeCtx s) with
    mem := placeMem s.mem nbits w, poison := [], readyT := s.readyT ||| 1, readyM := s.readyM ||| 1,
    fw := [], agenda := [], turn := [.stream 0 0], taken := [] }

end Sys2Proof.Machine
end

