-- ==== Sys2Proof/Machine/Step.lean ====
section
/-!
DEFINITION. One step (log 1): the first write of steward firmware, else the first happening, else the next
stream of the walk, else the clock.
-/

namespace Sys2Proof.Machine

/-- The state without the happening that is carried out. -/
def State.popAgenda (s : State) (r : List Instr) : State := { s with agenda := r, status := .running }
/-- The state without the write that is carried out. -/
def State.popFw (s : State) (r : List FwWrite) : State := { s with fw := r }

/-- One step of the device. -/
def step (s : State) : Host.Outcome State Fault Refusal :=
  match s.fw with
  | w :: r => .next (applyFw (s.popFw r) w)
  | [] => match s.agenda with
    | i :: r => exec i (s.popAgenda r)
    | [] => match s.turn with
      | t :: r => takeTurn (s.popTurn r) t
      | [] => .next s.tick

/-- The state with an instruction stored where the next step fetches (log 3). -/
def State.withFetchWord (s : State) (nbits w : Nat) : State := s.place0 nbits w

end Sys2Proof.Machine
end

