-- ==== Sys2Proof/Safety.lean ====
section
/-!
DEFINITION. The terms in which claims are stated: runs, the canonical form of memory, which instructions a slot may
hold, what a result in flight or a command in a queue leaves as it was.
-/

namespace Sys2Proof

open Sys2Proof.Machine

/-- A state reached from another in some number of steps. -/
inductive Reaches (s : State) : State → Prop where
  | refl : Reaches s s
  | step {t u : State} : Reaches s t → step t = .next u → Reaches s u

/-- Memory in canonical form (log 2). -/
def Inv (s : State) : Prop := memWf s.mem = true

/-- The opcode spaces (R47-R58); control opcodes apart, which slot 1 may not hold (R49). -/
inductive Space where
  | every | scalar | control | access | copy | vector | matrix | special
  deriving DecidableEq, Repr

/-- The space of a syllable; none for a row that is another agent's step. -/
def Instr.space : Instr → Option Space
  | .tlwaitImm .. | .tlwaitReg .. | .nop => some .every
  | .add .. | .sub .. | .mul .. | .mulh .. | .mulhu .. | .div .. | .divu .. | .rem .. | .remu .. | .and .. | .or ..
  | .xor .. | .shl .. | .shr .. | .sar .. | .rotr .. | .min .. | .max .. | .minu .. | .maxu .. | .clz .. | .ctz ..
  | .popc .. | .sel .. | .cmpEq .. | .cmpNe .. | .cmpLt .. | .cmpLe .. | .cmpLtu .. | .cmpLeu .. | .pset ..
  | .pmovToScalar .. | .pmovToPredicates .. | .extr .. | .ins .. | .sfadd .. | .sfmul .. | .sfma .. | .sfcvt ..
  | .abuf .. | .aadd .. | .aget .. | .aset .. | .rdsp .. | .wrsp .. | .addi .. | .andi .. | .ori .. | .xori ..
  | .shli .. | .shri .. | .sari .. | .movi .. | .movhi .. => some .scalar
  | .br .. | .brInd .. | .call .. | .callInd .. | .ret .. | .brpAny .. | .brpAll .. | .brpNone .. | .loopReg ..
  | .loopImm .. | .lbrk | .fork .. | .join .. | .gpost .. | .gtake .. | .gwait .. | .gclr .. | .halt | .yield
  | .svc .. | .trapret | .ctxsave .. | .ctxload .. | .tinv .. => some .control
  | .ldU8 .. | .ldS8 .. | .ldU16 .. | .ldS16 .. | .ldU32 .. | .ldS32 .. | .ld64 .. | .st8 .. | .st16 .. | .st32 ..
  | .st64 .. | .ldacq32 .. | .ldacq64 .. | .strel32 .. | .strel64 .. | .ldq .. | .stqa .. | .amoAdd .. | .amoMin ..
  | .amoMax .. | .amoAnd .. | .amoOr .. | .amoXor .. | .amoSwap .. | .cas .. | .fence .. | .flset .. | .flsetAdd ..
  | .flwaitGe .. | .flwaitEq .. | .flwaitNe .. => some .access
  | .cpy .. | .cpyl .. | .gath .. | .scat .. | .tmov .. | .rwr .. | .pref .. | .evict .. | .credSum .. | .credMax ..
  | .credSmerge .. | .kvgath .. | .kvapp .. | .tlget .. => some .copy
  | .vch .. | .vcvt .. | .vredAdd .. | .vredMax .. | .vredMin .. | .vredAnd .. | .vredOr .. | .vscanAdd ..
  | .vscanMax .. | .vscanMin .. | .vscanAnd .. | .vscanOr .. | .vperm .. | .vbcast .. | .vshuf .. | .vmaskFrom ..
  | .vmaskAnd .. | .vmaskOr .. | .vmaskAndn .. | .vmaskCount .. | .vtag .. | .vmov .. | .vext .. | .vins .. =>
    some .vector
  | .mcfg .. | .mset .. | .msetI .. | .mgo | .mwait | .mclr .. | .mstop | .msnap .. | .mplane .. | .mprov .. =>
    some .matrix
  | .route .. | .rret .. | .rwait .. | .rstat .. | .conftMaxp .. | .conftEnt .. | .rngkey .. | .enrd .. | .jobq ..
  | .launch .. | .futinit .. | .futreg .. | .futres .. | .futwait .. | .crewjoin .. | .crewleave .. | .cbar .. =>
    some .special
  | _ => none

/-- Whether a slot holds a space (R22, R47-R58). -/
def Space.inSlot (p : Space) (slot : Nat) : Bool :=
  match p with
  | .every => decide (slot < 8)
  | .scalar => decide (slot < 2)
  | .control => slot == 0
  | .access => slot == 2
  | .copy => slot == 3
  | .vector => slot == 4 || slot == 5
  | .matrix => slot == 6
  | .special => slot == 7

/-- Whether an instruction may stand in a slot. -/
def Instr.inSlot (i : Instr) (slot : Nat) : Bool :=
  match i.space with
  | some p => p.inSlot slot
  | none => false

/-- Major and minor of a syllable (R34, R47-R58). -/
def opcode (w : Nat) : Nat × Nat := (bitsOf w 59 52, bitsOf w 45 43)

/-- Memory is as it was, byte by byte. -/
def sameMemory (s t : State) : Prop := ∀ k, memGet t.mem k = memGet s.mem k

/-- What a context holds but for results in flight and on the scoreboard: every register (general, special,
trap and debug registers), the engines, the streams, and what it is bound to. -/
def sameRegisters (x y : Ctx) : Prop :=
  y.regs = x.regs ∧ y.trap = x.trap ∧ y.probe = x.probe ∧ y.xchk = x.xchk ∧ y.eng = x.eng ∧ y.streams = x.streams ∧
  y.bound = x.bound ∧ y.bind = x.bind

/-- The stream of context c and group g may look at a bundle: it is bound, not stopped by a trap or a freeze, at no
join, no leave and no barrier, at no debug stop, and behind no release that is still to perform. -/
def Looks (s : State) (c g : Nat) : Prop :=
  (s.ctx c).idle g ((s.ctx c).streams.getD g {}) = false ∧ ((s.ctx c).streams.getD g {}).leave = none ∧
  ((s.ctx c).streams.getD g {}).barrier = none ∧
  debugStop (s.ctx c) ((s.ctx c).streams.getD g {}) = none

/-- Of results in flight, oldest first, the last to a register. -/
def lastTo (es : List Pend) (d : Dest) : Option Pend := (es.filter (·.dest == d)).getLast?

/-- What a context holds but for its streams, whose stalls learn who ended them (R342). -/
def sameContext (x y : Ctx) : Prop :=
  y.regs = x.regs ∧ y.trap = x.trap ∧ y.probe = x.probe ∧ y.xchk = x.xchk ∧ y.eng = x.eng ∧ y.pend = x.pend ∧
  y.board = x.board ∧ y.bound = x.bound ∧ y.bind = x.bind ∧ y.map = x.map ∧ y.ports = x.ports

/-- Memory but for bytes written at keys, the last of equal keys remaining. -/
def wrote (s t : State) (ks : List Nat) (bs : List Byte) : Prop :=
  t.mem = memPutAll s.mem ks bs ∧ ∀ k, k ∉ ks → memGet t.mem k = memGet s.mem k

/-- An access of n bytes by the issuing stream that passes every check of R74, R86, R131, R340 and R362, with its keys. -/
def Passes (s : State) (a : Word) (n cls : Nat) (acc : Acc) (reads writes : Bool) (ks : List Nat) : Prop :=
  s.storesBefore (2 ^ cls) = false ∧ translate s s.who a n acc = .ok ks ∧
  (reads = true → ks.any (keyBad s) = false) ∧ (writes = true → keysReady s ks = true) ∧ ownWatch s a n reads writes = .ok ()

/-- A bind of a new card that dispatch can do (R305): a slot and a record that suit, the run of the card as dispatch takes
it, with records left to deal, and a kernel header, a save-area header word and a port record that pass their checks. -/
def CanBind (s t : State) (c : Nat) (record : BitVec 1024) (run : Run) (header vec : Nat) : Prop :=
  let r := record.toNat
  let k := cardNum run.card
  let w := recordWho s c r
  slotRefusal s c r = none ∧ bitsOf r 643 642 ≠ 0 ∧
  s.findRun (bitsOf r 1009 1000) (dieOf (c / 16)) (bitsOf r 999 952) = some (t, run) ∧ run.dealt < cardCount k ∧
  reservedField k cardReserved = none ∧ readNum s w (cardHeader k) 64 = .ok header ∧
  reservedField header headerReserved = none ∧ readNum s w (word (bitsOf r 951 888)) 8 = .ok vec ∧
  ((s.portRecord (cardHeader k) run.team).map portsReserved).getD false = false

/-- Status and go bit of a slot-table entry (R304). -/
def slotStatus (s : State) (c : Nat) : Nat := bitsOf (Tab.get 0 s.slotTab c).toNat 636 632
def slotGo (s : State) (c : Nat) : Bool := bitOf (Tab.get 0 s.slotTab c).toNat 637

/-- An action refused with a status: its entry is written, and nothing else changes (R305). -/
def Refuses (s : State) (c : Nat) (o : Host.Outcome State Fault Refusal) (status : Nat) : Prop :=
  ∃ t, o = .next t ∧ slotStatus t c = status ∧ slotGo t c = false ∧ t.ctxs = s.ctxs ∧ t.mem = s.mem ∧ t.runs = s.runs ∧
    t.jobqs = s.jobqs ∧ t.launch = s.launch ∧ t.images = s.images

/-- A copy command of a queue, a class and a token register that has its place: room in the queue and the tile (R90), no
earlier paired store of its class (R95), and a token register that its group may write (R166). -/
def Placed (s : State) (q cls token : Nat) : Prop :=
  (s.cx.eng.queues.getD q []).length < 64 ∧ s.tileCommands s.tile < 512 ∧ s.storesBefore (2 ^ cls) = false ∧
  (token = 0 ∨ mayWrite s.cx s.grp [.scalar token] = true)

/-- A range that a command may read, write or update: the checks of R94 and no watch of its own (R340). -/
def Usable (s : State) (a : Word) (n : Nat) (acc : Acc) : Prop :=
  checkRange s s.who a n acc = .ok () ∧ ownWatch s a n (decide (acc ≠ .write)) (decide (acc ≠ .read)) = .ok ()

/-- A destination of CPY or CPYL, on an aperture channel where it names the aperture (R94, R358). -/
def Reaching (s : State) (a : Word) (n ch : Nat) : Prop :=
  s.destRange a n = .ok ch ∧ ownWatch s a n false true = .ok ()

/-- The head of a copy queue of a bound context, neither stopped nor without further beats. -/
def Moving (s : State) (c q : Nat) (k : Cmd) (r : List Cmd) : Prop :=
  (s.ctx c).bound = true ∧ (s.ctx c).eng.queues.getD q [] = k :: r ∧ k.stopped = false ∧ k.ended = false

/-- A destination that can take a row result now: a row that RowOf names, an entry of the operand file, or room in the
store-data queue (R127, R157, R184). -/
def Takes (s : State) (d : VField) : Prop :=
  (d.level = 0 → (rowOf s.cx d.index).isSome = true) ∧ (1 < d.level → s.cx.eng.stData.length < 32)

/-- The row result of a vector syllable in flight, latched, with latency n (R43, R161, R184). -/
def Gives (s t : State) (n : Nat) (d : VField) (mask : BitVec 256) (tag : Tag) (data : Nat) (ind : Ind) : Prop :=
  (d.level = 0 → ∀ r, rowOf s.cx d.index = some r → t = s.expose n (.row r) data tag mask true ind) ∧
  (d.level = 1 → t = s.expose n (.oper d.index) data tag mask true ind) ∧
  (1 < d.level →
    let k := s.cx.eng.stNext
    t = (s.up fun x => { x with eng := { x.eng with
      stNext := k + 1, stData := x.eng.stData ++ [{ entry := k, group := s.grp, born := s.cycle }] } }).expose n (.stq k) data tag mask true ind)

/-- Lane i of a row's number. -/
def laneOf (t : Tag) (data i : Nat) : Nat := data / 2 ^ (t.laneBits * i) % 2 ^ t.laneBits

/-- A message that its connection expects next, on a port that is ready, with none held behind it (R350, R352). -/
def InTurn (s : State) (m : Msg) : Prop :=
  s.portReady m.port = true ∧ m.version = 1 ∧ m.chan < 1024 ∧ m.body.length ≤ 8192 ∧
  m.seq.toNat = (s.conn m).expect ∧ (s.conn m).held = []

/-- The machine once a message has been taken: what it acknowledges is no longer kept, and the next is expected (R352). -/
def took (s : State) (m : Msg) : State :=
  s.onConn m fun c => { c.acked m.ack.toNat s.time with expect := c.expect + 1 }

end Sys2Proof
end

