-- ==== Sys2Proof/Certificates/Slice0/Obligations.lean ====
section
/-!
DEFINITION. The statements about the model, from the numbered rules of spec/.
-/

open Sys2Proof Sys2Proof.Machine

/-! Decoding, encoding and steps. -/

/-- Words that spec/03, 05, 08, 10, 11 and 14 print decode to the instructions printed beside them. -/
def Obligations.PrintedWordsDecode : Prop :=
  decodeTableWord 64 0x0000006084000000 = some (.add 3 1 2) ∧
  decodeTableWord 64 0x805018E180416000 = some (.extr 7 3 8 11) ∧
  decodeTableWord 64 0xA030006100080001 = some (.ldq 3 2 1 1) ∧
  decodeTableWord 64 0xB00002820AAA0B00 = some (.cpy 20 4 5 21 1 0 22) ∧
  decodeTableWord 64 0xC024002808E89C18 = some (.vch 0 1 4 0 0x014 0x011 0x344 0x383 0) ∧
  decodeTableWord 64 0xE000100880000004 = some (.msetI 0 17 4) ∧
  decodeTableWord 64 0xF000028106AAC03F = some (.route 20 2 3 21 22 63) ∧
  decodeTableWord 128 0x98300801200000000830000000000504 = some (.fork 0x0504 9 0 0)

/-- Every well-formed syllable, in a slot that holds its space, under any guard and stop bit, is what the decoder reads
from its encoding (R34-R58). VCH and NOP have no guard field (R53, R286); FORK is two words and stands at slot 0 (R49).
-/
def Obligations.EncodedSyllableDecodes : Prop :=
  ∀ (i : Instr) (slot : Nat) (guard : BitVec 6) (stop : Bool),
    i.wellFormed = true → i.inSlot slot = true →
    decodeBundle (encode slot guard stop i) =
      .ok [⟨slot, if (Half.whole i).guarded then guard else 0, i⟩]

/-- Every syllable of a bundle that the decoder accepts is well formed and stands in a slot of its space, and slots
strictly ascend (R38, R40 details 0 to 3, 6 and 7). A one-word bundle that the decoder accepts is the encoding of what
it decodes to: no bit is dropped (R37, R40). What the decoder refuses, in the order of R40: the first syllable out of
slot order (6); then the lowest detail, 0 to 3, of the first syllable that has one, an unassigned major opcode being 0;
then FORK halves that are not a pair under one guard and control in slot 1 (7); an S0 half whose map is out of range is
3 (R49). The checks of a bundle before it issues, in the order of log 15. A register written by one syllable and read or
written by another is detail 4 or 5, at the lowest slot that clashes with one before it (R39, R40). In a forked strand a
syllable of a slot of another group traps, but for control in slot 0 (R31, R32); a false guard raises none of this
(R35). Then rows outside the context (R157), the comparison of rows, the stall for a result on the scoreboard (R46), the
trap in a landing window, or for a younger result that would land first, where XCHK is 1 (R44, R45), and the port grants
(R166). -/
def Obligations.AcceptedBundlesAreLegal : Prop :=
  (∀ (ws : List Nat) (ys : List Syl), decodeBundle ws = .ok ys →
    ys.Pairwise (fun y z => y.slot < z.slot) ∧
    ∀ y ∈ ys, y.op.wellFormed = true ∧ y.op.inSlot y.slot = true) ∧
  (∀ (w : Nat) (y : Syl), w < 2 ^ 64 → decodeBundle [w] = .ok [y] →
    encode y.slot y.guard (wordStop w) y.op = [w]) ∧
  ((∀ (ws : List Nat) (d : Nat),
    let rising := fun us : List Nat => us.Pairwise fun a b => wordSlot a < wordSlot b
    let whole := fun w : Nat => ∃ i, decodeHalf (wordSlot w) w = .ok (.whole i)
    (∀ us a b vs, ws = us ++ a :: b :: vs → rising (us ++ [a]) → wordSlot b ≤ wordSlot a → decodeBundle ws = .error ⟨6, wordSlot b⟩) ∧
    (∀ us w vs, ws = us ++ w :: vs → rising ws → (∀ u ∈ us, whole u) → decodeHalf (wordSlot w) w = .error d →
      d ≤ 3 ∧ decodeBundle ws = .error ⟨d, wordSlot w⟩) ∧
    (∀ us w vs i, ws = us ++ w :: vs → rising ws → (∀ v ∈ ws, whole v) → wordSlot w = 1 → (∀ u ∈ us, wordSlot u = 0) →
      decodeHalf 1 w = .ok (.whole i) → i.isControl = true → decodeBundle ws = .error ⟨7, 1⟩)) ∧
  (∀ (slot w : Nat), slot < 8 →
    (∀ i : Instr, i.inSlot (if slot = 1 then 0 else slot) = true → ∀ v ∈ encode slot 0 false i, v / 2 ^ 52 % 256 ≠ w / 2 ^ 52 % 256) → decodeHalf slot w = .error 0) ∧
  ∀ (w v : Nat) (map : BitVec 16) (o1 o2 o3 : BitVec 14),
    (decodeHalf (wordSlot w) w = .ok (.forkS1 o1 o2 o3) → decodeBundle [w] = .error ⟨7, wordSlot w⟩) ∧
    (decodeHalf (wordSlot w) w = .ok (.forkS0 map) →
      decodeBundle [w] = .error ⟨if forkMapOk map = true then 7 else 3, wordSlot w⟩ ∧
      (wordSlot w < wordSlot v → decodeHalf (wordSlot v) v = .ok (.forkS1 o1 o2 o3) → forkOk map o1 o2 o3 = true →
        decodeBundle [w, v] = if wordSlot w = 0 ∧ wordSlot v = 1 ∧ wordGuard w = wordGuard v
          then .ok [⟨0, wordGuard w, .fork map o1 o2 o3⟩] else .error ⟨7, wordSlot v⟩))) ∧
  ((∀ zs : List (Syl × List Dest × List Dest),
    let rw := fun a b : Syl × List Dest × List Dest => (∃ d, d ∈ a.2.1 ∧ d ∈ b.2.2) ∨ ∃ d, d ∈ a.2.2 ∧ d ∈ b.2.1
    let ww := fun a b : Syl × List Dest × List Dest => ∃ d, d ∈ a.2.2 ∧ d ∈ b.2.2
    (zs.Pairwise (fun a b => ¬ rw a b) → zs.Pairwise (fun a b => ¬ ww a b) → conflict zs = none) ∧
    ∀ us b vs, zs = us ++ b :: vs →
      (us.Pairwise (fun a b => ¬ rw a b) → (∃ a ∈ us, rw a b) → conflict zs = some ⟨4, b.1.slot⟩) ∧
      (zs.Pairwise (fun a b => ¬ rw a b) → us.Pairwise (fun a b => ¬ ww a b) → (∃ a ∈ us, ww a b) →
        conflict zs = some ⟨5, b.1.slot⟩)) ∧
  ∀ (x : Ctx) (g now : Nat) (ys : List Syl),
    let fixed := conflict (ys.map fun y => (y, fixedReads y, fixedWrites y))
    let rows := conflict (ys.map fun y => (y, readSet (x.asSeen ys y) y, writeSet (x.asSeen ys y) y))
    let illegal := fun e : DecodeError => (.error (.trap { origin := slotOrigin e.slot, detail := e.detail, cond := 0, slot := some e.slot }) : Except Stop Unit)
    let trap := fun (y : Syl) (c : Nat) => (.error (.trap { origin := slotOrigin y.slot, cond := c, slot := some y.slot }) : Except Stop Unit)
    let control := fun i : Instr => match i with
      | .br .. | .brInd .. | .brpAny .. | .brpAll .. | .brpNone .. | .call .. | .callInd .. | .ret .. | .loopReg .. | .loopImm ..
      | .lbrk | .join .. | .gwait .. | .gtake .. | .gpost .. | .gclr .. => true
      | _ => false
    let away := fun y : Syl => guardTrue x y.guard = true ∧ mapGroup x.map y.slot ≠ g ∧ (y.slot = 0 → control y.op = false)
    let gone := fun y : Syl => guardTrue x y.guard = true ∧ ∃ f, (f ∈ allSources (x.asSeen ys y) y.op ∨ vdest y.op = some f) ∧
      f.level = 0 ∧ rowOf x f.index = none
    let early := fun y : Syl => ∃ e ∈ x.pend, e.issued < now ∧ now < e.due ∧ e.dest ∈ readSet (x.asSeen ys y) y
    let late := fun y : Syl => scoreboarded y.op = false ∧ ∃ e ∈ x.pend, now + latency y.op < e.due ∧
      e.dest ∈ writeSet (x.asSeen ys y) y
    let pending := ∃ y ∈ ys, ∃ b ∈ x.board, (b.dest ∈ readSet (x.asSeen ys y) y ∨ b.dest ∈ writeSet (x.asSeen ys y) y) ∧
      (b.value = none ∨ x.trap.handler = false)
    let legal := fixed = none ∧ (x.forked = false ∨ slotOutside x g ys = none) ∧ rowOutside x ys = none ∧
      (∀ y ∈ ys, unreadScale (x.asSeen ys y) y.op = false) ∧ rows = none
    (∀ e, fixed = some e → checkBundle x g now ys = illegal e) ∧
    (fixed = none → x.forked = true → (∀ y ∈ ys, ∀ m a b c, y.op ≠ .fork m a b c) →
      (∀ us y vs, ys = us ++ y :: vs → (∀ u ∈ us, ¬ away u) → away y → checkBundle x g now ys = trap y 0x01) ∧
      ((∀ y ∈ ys, ¬ away y) → slotOutside x g ys = none)) ∧
    (fixed = none → (x.forked = false ∨ slotOutside x g ys = none) →
      ∀ us y vs, ys = us ++ y :: vs → (∀ u ∈ us, guardTrue x u.guard = false) → gone y → checkBundle x g now ys = trap y 0x12) ∧
    (fixed = none → (x.forked = false ∨ slotOutside x g ys = none) → rowOutside x ys = none →
      (∀ y ∈ ys, unreadScale (x.asSeen ys y) y.op = false) → ∀ e, rows = some e → checkBundle x g now ys = illegal e) ∧
    (legal → pending → checkBundle x g now ys = .error (.hold .scoreboard)) ∧
    (legal → x.board = [] → x.eng.ops = [] → (x.xchk = false ∨ ∀ y ∈ ys, guardTrue x y.guard = true → ¬ early y ∧ ¬ late y) →
      (x.forked = false → checkBundle x g now ys = .ok ()) ∧
      (x.forked = true → (∀ y ∈ ys, guardTrue x y.guard = true → portsOk (x.asSeen ys y) g y = true) → checkBundle x g now ys = .ok ()) ∧
      (∀ us y vs, x.forked = true → ys = us ++ y :: vs → (∀ u ∈ us, guardTrue x u.guard = false) → guardTrue x y.guard = true →
        takesToken y.op = false → isRoute y.op = false →
        ((∃ d ∈ writeSet (x.asSeen ys y) y, ∀ p, x.ports = some p → portGrants p g d = false) ∨
          (∃ n, (y.op = .gpost n ∨ y.op = .gtake n ∨ y.op = .gclr n) ∧ ∀ p, x.ports = some p → portGate p g n.toNat = false)) →
        checkBundle x g now ys = trap y 0x06)) ∧
    (legal → x.board = [] → x.eng.ops = [] → x.xchk = true → ∀ us y vs, ys = us ++ y :: vs →
      (∀ u ∈ us, guardTrue x u.guard = true → ¬ early u ∧ ¬ late u) → guardTrue x y.guard = true → early y ∨ late y →
      checkBundle x g now ys = trap y 0x02))

/-- A step at the turn of a stream that is free to issue (`Looks`) fetches at its program counter and decodes. A bundle
of one syllable that passes the checks of R25 and R40 to R46 under a true guard runs the decoded instruction at the
state with the issuer, the slot and the address of the next bundle set (the stall that ended and the slots taken in this
cycle noted): its effect, then the move of the program counter and the charges of the bundle; or the trap that the
instruction takes, taken from the state before the bundle (in a forked strand, looked for again); or the stall. A
release in slot 6 or 7 takes effect behind a row that its own bundle has paired with an STQA (`settles`: R131, R264). A
syllable with a false guard moves past the bundle and does nothing else (R35). A step with a happening on the agenda is
that row's meaning at the state without it, and nothing else. -/
def Obligations.StepRunsTheDecodedInstruction : Prop :=
  (∀ (s : State) (c g : Nat) (r : List Turn) (ws : List Nat) (y : Syl),
    s.fw = [] → s.agenda = [] → s.turn = .stream c g :: r → Looks s c g →
    let b := (s.popTurn r).issuer c g
    let s0 := (s.popTurn r).looking c g
    fetchBundle s0 s0.who s0.stream.loops s0.stream.pc = .ok ws → decodeBundle ws = .ok [y] →
    s0.slotsTaken c &&& slotsUsed s0.cx g [y] = 0 → checkBundle s0.cx g s0.cycle [y] = .ok () →
    let t := s0.going (pcAdd s0.stream.pc ws.length) (slotsUsed s0.cx g [y])
    (guardTrue s0.cx y.guard = true → guardTrue t.cx y.guard = true →
      ∃ u, exec y.op (t.atSlot y.slot) = .next u ∧
        (u.status = .running → step s = .next ((t.settles u y).advance.issued c s0.cx [y])) ∧
        (u.status = .moved → followsStores y.op = false → step s = .next (u.issued c s0.cx [y])) ∧
        (followsStores y.op = false ∨ t.cx.placedNow g 0xFFFF t.cycle = 0 → t.settles u y = u) ∧
        (∀ e : Trap, u.status = .trapped e → e.cond ≠ 0x26 → b.cx.forked = false →
          step s = .next (b.trapNow (e.inSlot y.slot))) ∧
        (∀ e : Trap, u.status = .trapped e → e.cond ≠ 0x26 → b.cx.forked = true → step s = .next b) ∧
        (∀ e : Trap, u.status = .trapped e → e.cond = 0x26 → step s = .next (u.issued c s0.cx [y])) ∧
        ∀ h : Hold, u.status = .held h → step s = .next (b.stalled h)) ∧
    (guardTrue s0.cx y.guard = false → guardTrue t.cx y.guard = false → step s = .next (t.advance.issued c s0.cx []))) ∧
  (∀ (s : State) (i : Instr) (r : List Instr), s.fw = [] → s.agenda = i :: r →
    step s = exec i (s.popAgenda r))

/-- The device never stops: every step of it, from any state, answers a next state. This is the model's choice (log 1,
DESIGN CHOICE), and no rule of the spec: a happening that is not ready, or whose agent is absent, changes nothing. -/
def Obligations.EveryStepAnswers : Prop := ∀ s : State, ∃ t, step s = .next t

/-! Reset, memory, landing. -/

/-- After module reset: TIME is 0 (R155), no unit is ready, no context is bound, nothing is sent, and memory lists
nothing, which is its canonical form (log 2). A context that BIND_NEW binds: every scalar, address register, predicate,
gate and mask holds 0, p0 reads true and m0 enables every lane, rows, operand entries and latches are EMPTY, tile types
are FP32 (R152); NVER is the record's (R146, R304), TVEC what word 0 of the save-area header gives (R322), the other
special registers named hold the 0 of their field maps (R121, R145, R155, R316, R322, R337), LQTAG names FP32, and the
loop-nest table holds what R208 gives. Nine cycles of the clock are four reference ticks: 9·TIME + phase grows by 4 a
cycle (the model's choice of the unloaded ratio, log 5), whatever clocks are lowered (R365). The reference time base
goes on in a module whose clocks stand for heat, or after it until what its contexts ran on is ready (R4, R366, log 37).
-/
def Obligations.ResetAndFirstBindValues : Prop :=
  (State.reset.time = 0 ∧ State.reset.readyT = 0 ∧ State.reset.readyM = 0 ∧ State.reset.bound = [] ∧
  State.reset.sent = [] ∧ (∀ k, memGet State.reset.mem k = 0) ∧ Inv State.reset) ∧
  (∀ (s0 t0 : State) (c : Nat) (rec : BitVec 1024) (run : Run) (header vec : Nat),
    CanBind s0 t0 c rec run header vec → ∃ u, exec (.bindNew c rec) s0 = .next u ∧
    let s : State := { u with me := c }
    s.cx.bound = true ∧ (∀ n, s.cx.s n = 0) ∧ (∀ n, s.cx.a n = 0) ∧ (∀ n, s.cx.p n = (n == 0)) ∧ (∀ n, s.cx.g n = false) ∧
    (∀ n, s.cx.m n = if n = 0 then BitVec.allOnes 256 else 0) ∧
    (∀ r, (s.cx.row r).tag = .empty) ∧ (∀ n, (s.cx.oper n).tag = .empty) ∧
    s.cx.regs.lat0.tag = .empty ∧ s.cx.regs.lat1.tag = .empty ∧ (∀ t, s.cx.tileType t = .fp32) ∧
    (∀ n ∈ [0x010, 0x011, 0x012, 0x020, 0x021, 0x047, 0x050, 0x052, 0x053, 0x060, 0x081, 0x082, 0x083, 0x08C,
            0x08D, 0x0C0, 0x0C4, 0x0C7, 0x0C8, 0x0CB, 0x0D0, 0x0D1, 0x0D2, 0x100, 0x13F, 0x140, 0x143],
      readSpecial s n = 0) ∧
    readSpecial s 0x051 = bitsOf rec.toNat 643 642 ∧ readSpecial s 0x080 = vec % 2 ^ 64 / 8 * 8 + vec % 2 ∧
    readSpecial s 0x046 = Tag.fp32.code ∧
    s.cx.eng.nest.levels = List.replicate 6 [1, 0, 0, 0, 0] ∧
    s.cx.eng.nest.fields = [0, 0, 0, 0, 3, 3, 0, 64, 64, 32, 64, 64, 32, 0]) ∧
  (∀ s : State, s.phase < 9 →
    (s.stands = false → s.tick.cycle = s.cycle + 1 ∧ s.tick.phase < 9 ∧
      9 * s.tick.time + s.tick.phase = 9 * s.time + s.phase + 4) ∧
    (s.trip = true → s.stands = true) ∧
    (s.stands = true → s.tick.cycle = s.cycle ∧ s.tick.time = s.time + 1))

/-- Every step keeps memory in canonical form, from any state (log 2). -/
def Obligations.StepKeepsMemoryCanonical : Prop := ∀ s t : State, Inv s → step s = .next t → Inv t

/-- Reads and writes of canonical memory: a byte written is read back at its own place and nowhere else, and the form is
kept (log 2). Canonical memories that read alike are equal (log 2). -/
def Obligations.MemoryReadsBackUniquely : Prop :=
  (∀ (m : List Host.Cell) (ks : List Nat) (bs : List Byte),
    (∀ k, k ∉ ks → memGet (memPutAll m ks bs) k = memGet m k) ∧
    (ks.Nodup → ks.length = bs.length → memGetAll (memPutAll m ks bs) ks = bs) ∧
    (memWf m = true → memWf (memPutAll m ks bs) = true)) ∧
  (∀ m n : List Host.Cell, memWf m = true → memWf n = true → (∀ k, memGet m k = memGet n k) → m = n)

/-- The results of a context that are due land: of those to one register the one issued last remains, oldest first as
they stand (R43, R45), rows merge under their mask (R184), indications join NSTAT (R145), which in that cycle still
reads as before (R156), and nothing else of the context changes but the special registers that are due. In-flight
results and the replay buffer's (R327) alike; writes of special registers that are due land with the first, before
indications. The scoreboarded results that are known, due, and behind no older exposed result to their register land,
and no others (R46). s0 reads 0, p0 true, m0 every lane; a result that lands in one of them leaves its indications and
nothing else (R37, R152, R178). -/
def Obligations.DueResultsLand : Prop :=
  (∀ (s : State) (c : Nat) (replay : Bool),
    let due := fun e : Pend => (if replay then e.replayed || e.isSpecial else !e.replayed) && decide (e.due ≤ s.cycle)
    let es := (s.ctx c).pend.filter due
    ∃ t, exec (if replay then .replayLanding c else .exposedResultLanding c) s = .next t ∧
      (t.ctx c).pend = (s.ctx c).pend.filter (fun e => !due e) ∧
      (∀ n, n ≠ 0 → (t.ctx c).s n = match lastTo es (.scalar n) with
        | some e => word e.data
        | none => (s.ctx c).s n) ∧
      (∀ n, (t.ctx c).a n = match lastTo es (.addr n) with
        | some e => word e.data
        | none => (s.ctx c).a n) ∧
      (∀ n, n ≠ 0 → n < 32 → (t.ctx c).p n = match lastTo es (.pred n) with
        | some e => e.data % 2 == 1
        | none => (s.ctx c).p n) ∧
      (∀ n, n ≠ 0 → (t.ctx c).m n = match lastTo es (.mask n) with
        | some e => BitVec.ofNat 256 e.data
        | none => (s.ctx c).m n) ∧
      (∀ r, match es.filter (·.dest == .row r) with
        | [] => (t.ctx c).row r = (s.ctx c).row r
        | [e] => (t.ctx c).row r = ⟨e.tag, mergeLanes e.tag e.mask ((s.ctx c).row r).data (BitVec.ofNat 2048 e.data)⟩
        | _ => True) ∧
      (∀ n, match es.filter (·.dest == .oper n) with
        | [] => (t.ctx c).oper n = (s.ctx c).oper n
        | [e] => (t.ctx c).oper n = ⟨e.tag, mergeLanes e.tag e.mask ((s.ctx c).oper n).data (BitVec.ofNat 2048 e.data)⟩
        | _ => True) ∧
      (es.all (fun e => e.dest != .special 0x050 && e.dest != .special 0x0E0) = true →
        (t.ctx c).regs.nstat = es.foldl (fun i e => i ||| e.ind) (s.ctx c).regs.nstat ∧
        ((∃ e ∈ es, e.ind ≠ 0) → (s.ctx c).regs.nstatAt ≠ some s.cycle → ∀ u : State, u.me = c → u.cycle = s.cycle →
          u.ctx c = t.ctx c → readSpecial u 0x050 = (s.ctx c).regs.nstat.toNat)) ∧
      (t.ctx c).regs.g = (s.ctx c).regs.g ∧ (t.ctx c).board = (s.ctx c).board ∧
      (t.ctx c).streams = (s.ctx c).streams ∧ (t.ctx c).bind = (s.ctx c).bind ∧ (t.ctx c).bound = (s.ctx c).bound ∧
      (∀ d, d ≠ c → t.ctx d = s.ctx d) ∧ sameMemory s t) ∧
  (∀ (s : State) (c : Nat),
    let ready := (s.ctx c).boardReady s.cycle
    let bs := (s.ctx c).board.filter ready
    ∃ t, exec (.scoreboardResultLanding c) s = .next t ∧
      (t.ctx c).board = (s.ctx c).board.filter (fun b => !ready b) ∧
      (∀ n, n ≠ 0 → (t.ctx c).s n = match (bs.filter (·.dest == .scalar n)).getLast? with
        | some b => word (b.value.getD 0)
        | none => (s.ctx c).s n) ∧
      (∀ n, n ≠ 0 → n < 32 → (t.ctx c).p n = match (bs.filter (·.dest == .pred n)).getLast? with
        | some b => b.value.getD 0 % 2 == 1
        | none => (s.ctx c).p n) ∧
      (∀ b ∈ bs, b.value.isSome = true ∧ b.due ≤ s.cycle ∧
        ∀ e ∈ (s.ctx c).pend, e.dest = b.dest → b.issued < e.issued) ∧
      (t.ctx c).pend = (s.ctx c).pend ∧ (t.ctx c).streams = (s.ctx c).streams ∧
      (∀ d, d ≠ c → t.ctx d = s.ctx d) ∧ sameMemory s t) ∧
  (∀ x : Ctx, x.s 0 = 0 ∧ x.p 0 = true ∧ x.m 0 = BitVec.allOnes 256 ∧
    ∀ e : Pend, e.latch = false → e.dest = .scalar 0 ∨ e.dest = .pred 0 ∨ e.dest = .mask 0 → x.land e = x.indicate e.ind)

/-! Scalar instructions. -/

/-- Every scalar instruction but WRSP completes, puts its results in flight to the registers of its write set (s0 and p0
for a write that is discarded) with the latency of R43, and does nothing else: the frame of spec/08. -/
def Obligations.ScalarFrame : Prop :=
  ∀ (s : State) (i : Instr), i.space = some .scalar → (∀ sa n, i ≠ .wrsp sa n) →
    ∃ es : List Pend, exec i s = .next (s.up fun x => { x with pend := x.pend ++ es }) ∧
      ∀ e ∈ es, (e.dest ∈ scalarWrites i ∨ e.dest = .scalar 0 ∨ e.dest = .pred 0) ∧ e.due = s.cycle + latency i ∧
        e.issued = s.cycle ∧ e.group = s.grp ∧ e.slot = s.slot ∧ e.latch = false ∧ e.replayed = false

/-- ADD, SUB, AND, OR, XOR, the shifts, ROTR, MIN, MAX, MINU and MAXU (R171), latency 1 (R43). The immediate forms act
as the register forms with k sign-extended to 64 bits, or with the count k 5:0 (R171). MUL, MULH and MULHU are the low
and high halves of exact products (R171), latency 3 (R43). CLZ, CTZ and POPC: 64 for CLZ and CTZ of 0; else the number
of zeros above the highest and below the lowest 1; POPC the number of ones (R171). The majors and minors of these rows
(R171). -/
def Obligations.IntegerInstructionsCompute : Prop :=
  (∀ (s : State) (sd sa sb : SReg),
    let a := s.rs sa
    let b := s.rs sb
    let n := b.toNat % 64
    exec (.add sd sa sb) s = .next (s.exposeS 1 sd (word ((a.toNat + b.toNat) % 2 ^ 64))) ∧
    exec (.sub sd sa sb) s = .next (s.exposeS 1 sd (word ((a.toNat + 2 ^ 64 - b.toNat) % 2 ^ 64))) ∧
    exec (.and sd sa sb) s = .next (s.exposeS 1 sd (word (Nat.land a.toNat b.toNat))) ∧
    exec (.or sd sa sb) s = .next (s.exposeS 1 sd (word (Nat.lor a.toNat b.toNat))) ∧
    exec (.xor sd sa sb) s = .next (s.exposeS 1 sd (word (Nat.xor a.toNat b.toNat))) ∧
    exec (.shl sd sa sb) s = .next (s.exposeS 1 sd (word (a.toNat * 2 ^ n % 2 ^ 64))) ∧
    exec (.shr sd sa sb) s = .next (s.exposeS 1 sd (word (a.toNat / 2 ^ n))) ∧
    exec (.sar sd sa sb) s = .next (s.exposeS 1 sd (BitVec.ofInt 64 (a.toInt / (2 : Int) ^ n))) ∧
    exec (.rotr sd sa sb) s = .next (s.exposeS 1 sd (word (a.toNat / 2 ^ n + a.toNat % 2 ^ n * 2 ^ (64 - n)))) ∧
    exec (.min sd sa sb) s = .next (s.exposeS 1 sd (if a.toInt ≤ b.toInt then a else b)) ∧
    exec (.max sd sa sb) s = .next (s.exposeS 1 sd (if a.toInt ≤ b.toInt then b else a)) ∧
    exec (.minu sd sa sb) s = .next (s.exposeS 1 sd (word (Nat.min a.toNat b.toNat))) ∧
    exec (.maxu sd sa sb) s = .next (s.exposeS 1 sd (word (Nat.max a.toNat b.toNat)))) ∧
  (∀ (s : State) (sd sa : SReg) (k : BitVec 31) (n : BitVec 6),
    let a := s.rs sa
    let b := BitVec.ofInt 64 k.toInt
    exec (.addi sd sa k) s = .next (s.exposeS 1 sd (BitVec.ofInt 64 (a.toInt + k.toInt))) ∧
    exec (.andi sd sa k) s = .next (s.exposeS 1 sd (a &&& b)) ∧
    exec (.ori sd sa k) s = .next (s.exposeS 1 sd (a ||| b)) ∧
    exec (.xori sd sa k) s = .next (s.exposeS 1 sd (a ^^^ b)) ∧
    exec (.shli sd sa n) s = .next (s.exposeS 1 sd (word (a.toNat * 2 ^ n.toNat % 2 ^ 64))) ∧
    exec (.shri sd sa n) s = .next (s.exposeS 1 sd (word (a.toNat / 2 ^ n.toNat))) ∧
    exec (.sari sd sa n) s = .next (s.exposeS 1 sd (BitVec.ofInt 64 (a.toInt / (2 : Int) ^ n.toNat)))) ∧
  (∀ (s : State) (sd sa sb : SReg),
    let a := s.rs sa
    let b := s.rs sb
    (∃ lo hi, exec (.mul sd sa sb) s = .next (s.exposeS 3 sd lo) ∧ exec (.mulhu sd sa sb) s = .next (s.exposeS 3 sd hi) ∧
      hi.toNat * 2 ^ 64 + lo.toNat = a.toNat * b.toNat) ∧
    (∃ lo hi, exec (.mul sd sa sb) s = .next (s.exposeS 3 sd lo) ∧ exec (.mulh sd sa sb) s = .next (s.exposeS 3 sd hi) ∧
      hi.toInt * 2 ^ 64 + lo.toNat = a.toInt * b.toInt)) ∧
  (∀ (s : State) (sd sa : SReg),
    let a := s.rs sa
    ∃ z t p, exec (.clz sd sa) s = .next (s.exposeS 1 sd (word z)) ∧
      exec (.ctz sd sa) s = .next (s.exposeS 1 sd (word t)) ∧ exec (.popc sd sa) s = .next (s.exposeS 1 sd (word p)) ∧
      (a = 0 → z = 64 ∧ t = 64 ∧ p = 0) ∧
      (a ≠ 0 → z < 64 ∧ a.getLsbD (63 - z) = true ∧ (∀ i, 63 - z < i → a.getLsbD i = false) ∧
        t < 64 ∧ a.getLsbD t = true ∧ ∀ i, i < t → a.getLsbD i = false) ∧
      p = ((List.range 64).countP fun i => a.getLsbD i)) ∧
  (∀ (sd sa sb : SReg) (k : BitVec 31) (n : BitVec 6),
    ∀ p ∈ ([(.add sd sa sb, 0x00, 0), (.sub sd sa sb, 0x00, 1), (.mul sd sa sb, 0x00, 2), (.mulh sd sa sb, 0x00, 3),
        (.mulhu sd sa sb, 0x00, 4), (.and sd sa sb, 0x02, 0), (.or sd sa sb, 0x02, 1), (.xor sd sa sb, 0x02, 2),
        (.shl sd sa sb, 0x02, 3), (.shr sd sa sb, 0x02, 4), (.sar sd sa sb, 0x02, 5), (.rotr sd sa sb, 0x02, 6),
        (.min sd sa sb, 0x03, 0), (.max sd sa sb, 0x03, 1), (.minu sd sa sb, 0x03, 2), (.maxu sd sa sb, 0x03, 3),
        (.clz sd sa, 0x03, 4), (.ctz sd sa, 0x03, 5), (.popc sd sa, 0x03, 6), (.addi sd sa k, 0x10, 0),
        (.andi sd sa k, 0x10, 1), (.ori sd sa k, 0x10, 2), (.xori sd sa k, 0x10, 3), (.shli sd sa n, 0x10, 4),
        (.shri sd sa n, 0x10, 5), (.sari sd sa n, 0x10, 6)] : List (Instr × Nat × Nat)),
      (encode 0 0 false p.1).map opcode = [p.2] ∧
        (p.2 ∈ [(0x03, 4), (0x03, 5), (0x03, 6)] → (encode 0 0 false p.1).map (bitsOf · 30 25) = [0]))

/-- DIV, DIVU, REM and REMU (major 0x01, minors 0 to 3) truncate toward zero, the remainder has the sign of the
dividend, and the two corners are those of R172, with no fault. -/
def Obligations.DivisionTruncatesTowardZero : Prop :=
  ∀ (s : State) (sd sa sb : SReg),
    let a := s.rs sa
    let b := s.rs sb
    (∀ p ∈ ([(.div sd sa sb, 0), (.divu sd sa sb, 1), (.rem sd sa sb, 2), (.remu sd sa sb, 3)] : List (Instr × Nat)),
      (encode 0 0 false p.1).map opcode = [(0x01, p.2)]) ∧
    (∃ q r, exec (.div sd sa sb) s = .next (s.exposeS 20 sd q) ∧ exec (.rem sd sa sb) s = .next (s.exposeS 20 sd r) ∧
      (b = 0 → q = BitVec.allOnes 64 ∧ r = a) ∧
      (a = BitVec.intMin 64 ∧ b = BitVec.allOnes 64 → q = BitVec.intMin 64 ∧ r = 0) ∧
      (b ≠ 0 ∧ ¬(a = BitVec.intMin 64 ∧ b = BitVec.allOnes 64) →
        q.toInt = a.toInt.tdiv b.toInt ∧ q.toInt * b.toInt + r.toInt = a.toInt ∧ r.toInt.natAbs < b.toInt.natAbs ∧
        (r.toInt = 0 ∨ (0 ≤ r.toInt ↔ 0 ≤ a.toInt)))) ∧
    (∃ q r, exec (.divu sd sa sb) s = .next (s.exposeS 20 sd q) ∧ exec (.remu sd sa sb) s = .next (s.exposeS 20 sd r) ∧
      (b = 0 → q = BitVec.allOnes 64 ∧ r = a) ∧
      (b ≠ 0 → q.toNat * b.toNat + r.toNat = a.toNat ∧ r.toNat < b.toNat))

/-- MOVI sign-extends the 37-bit k; MOVHI puts k 26:0 in bits 63:37 of sd and keeps bits 36:0, in one bit vector (R173).
EXTR and INS move the field of len + 1 bits at pos (R175), latency 1. A field beyond bit 63 is detail 3. -/
def Obligations.ConstantsAndBitFields : Prop :=
  (∀ (s : State) (sd : SReg) (k : BitVec 37) (h : BitVec 27),
    (encode 0 0 false (.movi sd k)).map opcode = [(0x11, 0)] ∧ (encode 0 0 false (.movhi sd h)).map opcode = [(0x11, 1)] ∧
    (sd ≠ 0 → .scalar sd.toNat ∈ scalarReads (.movhi sd h)) ∧
    (∀ v : Word, s.rs sd = BitVec.ofInt 64 (v.extractLsb' 0 37).toInt →
      exec (.movhi sd (v.extractLsb' 37 27)) s = .next (s.exposeS 1 sd v)) ∧
    exec (.movi sd k) s = .next (s.exposeS 1 sd (BitVec.ofInt 64 k.toInt)) ∧
    exec (.movhi sd h) s = .next (s.exposeS 1 sd ((h ++ (s.rs sd).extractLsb' 0 37 : BitVec 64)))) ∧
  (∀ (s : State) (sd sa : SReg) (pos len : BitVec 6),
    (encode 0 0 false (.extr sd sa pos len)).map opcode = [(0x05, 3)] ∧
    (encode 0 0 false (.ins sd sa pos len)).map opcode = [(0x05, 4)] ∧
    (sd ≠ 0 → .scalar sd.toNat ∈ scalarReads (.ins sd sa pos len)) ∧
    (64 ≤ pos.toNat + len.toNat → ∀ slot, slot < 2 →
      decodeBundle (encode slot 0 false (.extr sd sa pos len)) = .error ⟨3, slot⟩ ∧
      decodeBundle (encode slot 0 false (.ins sd sa pos len)) = .error ⟨3, slot⟩) ∧
    (pos.toNat + len.toNat < 64 →
      (∃ v, exec (.extr sd sa pos len) s = .next (s.exposeS 1 sd v) ∧
        ∀ i, i < 64 → v.getLsbD i = (decide (i ≤ len.toNat) && (s.rs sa).getLsbD (pos.toNat + i))) ∧
      ∃ v, exec (.ins sd sa pos len) s = .next (s.exposeS 1 sd v) ∧
        ∀ i, i < 64 → v.getLsbD i =
          if pos.toNat ≤ i ∧ i ≤ pos.toNat + len.toNat then (s.rs sa).getLsbD (i - pos.toNat) else (s.rs sd).getLsbD i))

/-- SEL, CMP, PSET and PMOV (R174), latency 1. ABUF, AADD, AGET and ASET: bits 15:0 of sa over bits 47:0 of sb; the
offset moves modulo 2^48 and the index stays (R176), latency 1. -/
def Obligations.ComparesAndAddresses : Prop :=
  (∀ (s : State) (sd sa sb : SReg) (pd pa pb : PReg) (tt : BitVec 4),
    let a := s.rs sa
    let b := s.rs sb
    exec (.sel sd sa sb pa) s = .next (s.exposeS 1 sd (if s.rp pa = true then a else b)) ∧
    exec (.cmpEq pd sa sb) s = .next (s.exposeP pd (decide (a = b))) ∧
    exec (.cmpNe pd sa sb) s = .next (s.exposeP pd (decide (a ≠ b))) ∧
    exec (.cmpLt pd sa sb) s = .next (s.exposeP pd (decide (a.toInt < b.toInt))) ∧
    exec (.cmpLe pd sa sb) s = .next (s.exposeP pd (decide (a.toInt ≤ b.toInt))) ∧
    exec (.cmpLtu pd sa sb) s = .next (s.exposeP pd (decide (a.toNat < b.toNat))) ∧
    exec (.cmpLeu pd sa sb) s = .next (s.exposeP pd (decide (a.toNat ≤ b.toNat))) ∧
    exec (.pset pd pa pb tt) s = .next (s.exposeP pd (tt.getLsbD (2 * (s.rp pa).toNat + (s.rp pb).toNat))) ∧
    (∃ v, exec (.pmovToScalar sd) s = .next (s.exposeS 1 sd v) ∧ v.getLsbD 0 = true ∧
      ∀ j, 0 < j → j < 64 → v.getLsbD j = (decide (j < 32) && s.cx.p j)) ∧
    ∃ t, exec (.pmovToPredicates sa) s = .next t ∧ t.cx.pend.length = s.cx.pend.length + 31 ∧
      ∀ j, 0 < j → j < 32 → ∃ e ∈ t.cx.pend, e.dest = .pred j ∧ e.due = s.cycle + 1 ∧ e.data = (a.getLsbD j).toNat) ∧
  (∀ (s : State) (ad aa : AReg) (sd sa sb : SReg) (k : BitVec 13),
    exec (.abuf ad sa sb) s = .next (s.exposeA ad ((s.rs sa).extractLsb' 0 16 ++ (s.rs sb).extractLsb' 0 48 : BitVec 64)) ∧
    exec (.aadd ad aa sb k) s = .next (s.exposeA ad
      ((s.ra aa).extractLsb' 48 16 ++ ((s.ra aa).extractLsb' 0 48 + (s.rs sb).extractLsb' 0 48 + k.signExtend 48) : BitVec 64)) ∧
    exec (.aget sd aa) s = .next (s.exposeS 1 sd (s.ra aa)) ∧
    exec (.aset ad sa) s = .next (s.exposeA ad (s.rs sa)))

/-- Codes of the five float formats decode as R138 says, with the parameters of R137. RoundFmt (R143): e is floor log2
|x| or emin, n the integer nearest |x| / 2^(e - m), ties to even; beyond the largest finite value an infinity with
overflow, or that value with saturation where there is none; below 2^m the subnormal code, underflow with inexact; a NaN
is the default NaN, or 0 with invalid in an integer format (R144); integers clamp. NVER 1 and 2 replace subnormal
results, and NVER 1 reads subnormal sources as zeros (R147). SFADD, SFMUL and SFMA compute exactly on the FP32 values of
bits 31:0 and round once under NVER, with latency 4 and their indications; ∞ − ∞ and 0 · ∞ indicate invalid, and a NaN
source gives 0x7FC00000 (R178). SFCVT converts by kind: f2i (a NaN gives 0 with invalid), i2f, f2b, b2f, f2h and h2f,
the widening ones exactly; kinds 6 and 7 are detail 3 (R179). -/
def Obligations.ScalarFloat : Prop :=
  (([Tag.fp32, .bf16, .fp16, .e4m3, .e5m2].map fun t => ((t.expBits, t.manBits, t.laneBits), t.bias, t.maxCode, t.hasInf, t.infCode, t.nan)) =
    [((8, 23, 32), 127, 0x7F7FFFFF, true, 0x7F800000, 0x7FC00000), ((8, 7, 16), 127, 0x7F7F, true, 0x7F80, 0x7FC0),
     ((5, 10, 16), 15, 0x7BFF, true, 0x7C00, 0x7E00), ((4, 3, 8), 7, 0x7E, false, 0x78, 0x7F), ((5, 2, 8), 15, 0x7B, true, 0x7C, 0x7E)] ∧
  (∀ (t : Tag) (neg : Bool) (e m nver : Nat), t.isFloat = true → e < 2 ^ t.expBits → m < 2 ^ t.manBits →
    let b := (if neg = true then 2 ^ (t.laneBits - 1) else 0) + e * 2 ^ t.manBits + m
    (e = 0 → m = 0 → decodeFloat t b = .zero neg) ∧
    (e = 0 → m ≠ 0 → decodeFloat t b = .fin neg m (1 - t.bias - t.manBits) false ∧
      flushSource nver t b = if nver = 1 then (if neg = true then 2 ^ (t.laneBits - 1) else 0) else b) ∧
    (e ≠ 0 → (e ≠ 2 ^ t.expBits - 1 ∨ t = .e4m3 ∧ m ≠ 7) →
      decodeFloat t b = .fin neg (2 ^ t.manBits + m) (e - t.bias - t.manBits) false ∧ flushSource nver t b = b) ∧
    (e = 2 ^ t.expBits - 1 → t ≠ .e4m3 → decodeFloat t b = if m = 0 then .inf neg else .nan) ∧
    (e = 15 → m = 7 → t = .e4m3 → decodeFloat t b = .nan)) ∧
  (∀ (t : Tag) (nver : Nat) (neg : Bool), t.isFloat = true →
    let sign := if neg = true then 2 ^ (t.laneBits - 1) else 0
    roundFmt nver .nan t = (t.nan, 0) ∧ roundFmt nver (.zero neg) t = (sign, 0) ∧
    roundFmt nver (.inf neg) t = (if t.hasInf = true then (sign + t.infCode, 0) else (sign + t.maxCode, 8)) ∧
    ∀ (mag n : Nat) (exp e : Int) (exact : Bool), mag ≠ 0 → e = max (exp + Nat.log2 mag) (1 - t.bias) →
      let q := e - t.manBits
      let d := 2 ^ (q - exp).toNat
      (q ≤ exp → n = mag * 2 ^ (exp - q).toNat ∧ exact = true) →
      (exp < q → 2 * mag ≤ (2 * n + 1) * d ∧ 2 * n * d ≤ 2 * mag + d ∧ (2 * mag = (2 * n + 1) * d ∨ 2 * n * d = 2 * mag + d → n % 2 = 0) ∧
        (exact = true ↔ mag = n * d)) →
      let r := roundFmt nver (.fin neg mag exp false) t
      let p := if n = 2 ^ (t.manBits + 1) then (2 ^ t.manBits, e + 1) else (n, e)
      let maxSig := if t = .e4m3 then 14 else 2 ^ (t.manBits + 1) - 1
      let maxExp := if t = .e4m3 then 8 else t.bias
      let beyond := maxExp < p.2 ∨ p.2 = maxExp ∧ maxSig < p.1
      let replaced := nver = 1 ∧ (t = .fp32 ∨ t = .fp16 ∨ t = .bf16) ∨ nver = 2 ∧ t = .bf16
      (beyond → r = if t.hasInf = true then (sign + t.infCode, 4 ||| 1) else (sign + t.maxCode, 8 ||| 1)) ∧
      (¬ beyond → 2 ^ t.manBits ≤ p.1 →
        r = (sign + (p.2 + t.bias).toNat * 2 ^ t.manBits + (p.1 - 2 ^ t.manBits), if exact = true then 0 else 1)) ∧
      (¬ beyond → p.1 < 2 ^ t.manBits →
        (p.1 = 0 ∨ ¬ replaced → r = (sign + p.1, if exact = true then 0 else 2 ||| 1)) ∧
        (p.1 ≠ 0 → replaced → r = (sign, 2 ||| 1)))) ∧
  ∀ (t : Tag) (nver : Nat) (neg : Bool) (mag n : Nat) (exp : Int) (exact : Bool), t = .int8 ∨ t = .int32 →
    let top : Int := 2 ^ (t.laneBits - 1)
    let d := 2 ^ (-exp).toNat
    let code := fun i : Int => (BitVec.ofInt t.laneBits i).toNat
    roundFmt nver .nan t = (0, 16) ∧ roundFmt nver (.zero neg) t = (0, 0) ∧
    roundFmt nver (.inf neg) t = (code (if neg = true then -top else top - 1), 8) ∧
    (mag ≠ 0 → (0 ≤ exp → n = mag * 2 ^ exp.toNat ∧ exact = true) →
      (exp < 0 → 2 * mag ≤ (2 * n + 1) * d ∧ 2 * n * d ≤ 2 * mag + d ∧ (2 * mag = (2 * n + 1) * d ∨ 2 * n * d = 2 * mag + d → n % 2 = 0) ∧
        (exact = true ↔ mag = n * d)) →
      let i : Int := if neg = true then -n else n
      let r := roundFmt nver (.fin neg mag exp false) t
      (-top ≤ i → i < top → r = (code i, if exact = true then 0 else 1)) ∧
      (i < -top → r = (code (-top), 8 ||| 1)) ∧ (top ≤ i → r = (code (top - 1), 8 ||| 1)))) ∧
  (∀ (s : State) (sd sa sb sc : SReg) (kind : BitVec 3),
    let n := s.cx.regs.nver
    (∃ c i, exec (.sfadd sd sa sb) s = .next (s.exposeS 4 sd (word c) i) ∧
      c = (roundFmt n ((s.fp sa).add (s.fp sb)).1 .fp32).1 ∧
      i = (roundFmt n ((s.fp sa).add (s.fp sb)).1 .fp32).2 ||| indIf ((s.fp sa).add (s.fp sb)).2 Ind.invalid ∧
      (s.fp sa = .nan ∨ s.fp sb = .nan → c = 0x7FC00000)) ∧
    (∃ c i, exec (.sfmul sd sa sb) s = .next (s.exposeS 4 sd (word c) i) ∧
      c = (roundFmt n ((s.fp sa).mul (s.fp sb)).1 .fp32).1 ∧
      i = (roundFmt n ((s.fp sa).mul (s.fp sb)).1 .fp32).2 ||| indIf ((s.fp sa).mul (s.fp sb)).2 Ind.invalid ∧
      (s.fp sa = .nan ∨ s.fp sb = .nan → c = 0x7FC00000)) ∧
    (∃ c i, exec (.sfma sd sa sb sc) s = .next (s.exposeS 4 sd (word c) i) ∧
      let p := (s.fp sa).mul (s.fp sb)
      let v := p.1.add (s.fp sc)
      c = (roundFmt n v.1 .fp32).1 ∧ i = (roundFmt n v.1 .fp32).2 ||| indIf (p.2 || v.2) Ind.invalid ∧
      (s.fp sa = .nan ∨ s.fp sb = .nan ∨ s.fp sc = .nan → c = 0x7FC00000)) ∧
    let low := fun t : Tag => decodeFloat t (flushSource n t ((s.rs sa).toNat % 2 ^ t.laneBits))
    let int : Val := Val.ofInt ((s.rs sa).extractLsb' 0 32).toInt
    let gives := fun (k : BitVec 3) (r : Nat × Ind) => exec (.sfcvt sd sa k) s = .next (s.exposeS 4 sd (word r.1) r.2)
    (∀ r, r = roundFmt n (low .fp32) .int32 →
      exec (.sfcvt sd sa 0) s = .next (s.exposeS 4 sd ((BitVec.ofNat 32 r.1).signExtend 64) r.2) ∧
      (low .fp32 = .nan → r = (0, Ind.invalid))) ∧
    gives 1 (roundFmt n int .fp32) ∧
    gives 2 (roundFmt n (low .fp32) .bf16) ∧
    gives 3 ((roundFmt 3 (low .bf16) .fp32).1, 0) ∧ (roundFmt 3 (low .bf16) .fp32).2 = 0 ∧
    gives 4 (roundFmt n (low .fp32) .fp16) ∧
    gives 5 ((roundFmt 3 (low .fp16) .fp32).1, 0) ∧ (roundFmt 3 (low .fp16) .fp32).2 = 0 ∧
    (6 ≤ kind.toNat → ∀ slot, slot < 2 → decodeBundle (encode slot 0 false (.sfcvt sd sa kind)) = .error ⟨3, slot⟩))

/-- RDSP reads CTXID, TEAMID, TIME, NVER, TVEC and the others by number (R154, R155, R177), latency 1; NSTAT reads as
before in the cycle in which indications join it (R156). A register that hardware changes reads as the cycle began: each
of its clock's cycles notes the values then (R156). WRSP: a register without a field that the issuer may write faults
with "privileged operation", else a reserved field that would be set with "reserved field nonzero", else a value that
the register refuses with "special register value invalid" (R146, R155, R156); otherwise the value is in flight for one
cycle, and nothing else changes. What a WRSP leaves when it lands (R145, R155, R162, R322): the written fields and no
others; a 1 clears a sticky bit; ROTCFG resets RRB; CTVAL writes the entry that CTSEL selects. -/
def Obligations.SpecialRegisters : Prop :=
  (let changes := [0x047, 0x052, 0x053, 0x054, 0x055, 0x060, 0x08D, 0x0C8, 0x0C9, 0x0CA, 0x0CB, 0x0D1, 0x0D2, 0x0D8]
  (∀ (s : State) (c : Nat) (x : Ctx), x.bound = true → s.clocked (clusterOf (c / 16)) = true → ∀ n ∈ changes,
    Tab.find? (s.nextCycle c x).seen n = some (specialNow { s with me := c } n)) ∧
  ∀ (s : State) (sd : SReg) (num : BitVec 12), ∃ v, exec (.rdsp sd num) s = .next (s.exposeS 1 sd (word v)) ∧
    (num = 0x000 → v = s.me) ∧ (num = 0x001 → v = s.who.team) ∧ (num = 0x002 → v = s.cx.regs.cursor.toNat) ∧
    (num = 0x003 → v = s.cx.regs.argptr.toNat) ∧ (num = 0x005 → v = s.time) ∧ (num = 0x006 → v = s.cx.regs.rescyc) ∧
    (num = 0x011 → bitsOf v 7 0 = s.cx.regs.rotBase % 256) ∧ (num = 0x046 → v = s.cx.regs.lqtag.code) ∧
    (num = 0x050 → s.cx.regs.nstatAt ≠ some s.cycle → v = s.cx.regs.nstat.toNat) ∧
    (num = 0x050 → s.cx.regs.nstatAt = some s.cycle → v = s.cx.regs.nstatWas.toNat) ∧ (num = 0x051 → v = s.cx.regs.nver) ∧
    (num.toNat ∈ changes → ∀ w, Tab.find? s.cx.seen num.toNat = some w → v = w) ∧
    (num = 0x052 → Tab.find? s.cx.seen 0x052 = none → v = s.cx.regs.rngC.toNat % 2 ^ 64) ∧
    (num = 0x053 → Tab.find? s.cx.seen 0x053 = none → v = s.cx.regs.rngC.toNat / 2 ^ 64) ∧
    (num = 0x080 → v = s.cx.trap.tvec.toNat) ∧ (num = 0x081 → v = s.cx.trap.tcause.toNat) ∧
    (num = 0x082 → v = s.cx.trap.taddr.toNat) ∧ (num = 0x083 → v = s.cx.trap.tinfo.toNat) ∧
    (num = 0x088 → v = (s.cx.trap.tpc.getD 0 0).toNat) ∧ (num = 0x08B → v = (s.cx.trap.tpc.getD 3 0).toNat)) ∧
  (∀ (s : State) (sa : SReg) (num : BitVec 12),
    let n := num.toNat
    let v := (s.rs sa).toNat
    (writable s.cx n = false →
      exec (.wrsp sa num) s = .next (s.takeTrap { origin := slotOrigin s.slot, cond := 0x03, slot := some s.slot })) ∧
    (writable s.cx n = true → (reservedField v (reservedSpecial n)).isSome = true →
      exec (.wrsp sa num) s = .next (s.takeTrap { origin := slotOrigin s.slot, cond := 0x05, slot := some s.slot })) ∧
    (writable s.cx n = true → reservedField v (reservedSpecial n) = none → badSpecial s.cx n v = true →
      exec (.wrsp sa num) s = .next (s.takeTrap { origin := slotOrigin s.slot, cond := 0x04, slot := some s.slot })) ∧
    (writable s.cx n = true → reservedField v (reservedSpecial n) = none → badSpecial s.cx n v = false →
      exec (.wrsp sa num) s = .next (s.expose 1 (.special n) v)) ∧
    (s.cx.priv = false → n ∈ [0x000, 0x001, 0x005, 0x004, 0x051, 0x060, 0x080, 0x081, 0x08D, 0x0C0, 0x0C8, 0x0D0, 0x0D1,
      0x0E0] → writable s.cx n = false) ∧
    (n ∈ [0x010, 0x011, 0x012, 0x020, 0x021, 0x046, 0x050, 0x100, 0x143] → writable s.cx n = true)) ∧
  (∀ (x : Ctx) (v : Nat),
    (x.landSpecial 0x004 v) = { x with xchk := bitOf v 0 } ∧
    (x.landSpecial 0x010 v).regs = { x.regs with rowwin := v % 4 } ∧
    (x.landSpecial 0x011 v).regs = { x.regs with rotSize := bitsOf v 16 8, rotBase := v % 256, rrb := 0 } ∧
    (x.landSpecial 0x012 v).regs = { x.regs with rrb := v % 256 } ∧
    (∀ k, constEntry (x.landSpecial 0x021 v) k = if k = 64 + x.regs.ctsel then v % 2 ^ 32 else constEntry x k) ∧
    (∀ i, i < 5 → (x.landSpecial 0x050 v).regs.nstat.getLsbD i = (x.regs.nstat.getLsbD i && !bitOf v i)) ∧
    (x.landSpecial 0x051 v).regs = { x.regs with nver := v % 4 } ∧
    (x.landSpecial 0x080 v).trap.tvec = word (v / 8 * 8 + v % 2) ∧
    (∀ i, i < 16 → (x.landSpecial 0x08D v).trap.enable.getLsbD i = bitOf v (16 + i)) ∧
    (∀ i, i < 16 → (x.landSpecial 0x08D v).trap.pending.getLsbD i = (x.trap.pending.getLsbD i && !bitOf v i)))

/-! Memory accesses. -/

/-- Every byte of an access that `Translate` accepts has its key; in a scratchpad the keys are consecutive from the
address's offset in the space (R74, R83, R116). `Translate` on buffer indices below 0xFE00: the first step of R74 that
fails names the fault, with the address. The key of a byte of a buffer that has passed the checks before the walk (R75
to R80): its stripe names the channel and the channel-local offset; the walk goes from the root through one node a
level, 512 entries by the offset's bits, to the page; the first entry on it that is erroneous (0x11), not present
(0x0F), with a reserved field (0x05), or malformed (0x10) faults. A longer access has the keys of its bytes' own
addresses. -/
def Obligations.TranslationKeysAndFaults : Prop :=
  (∀ (s : State) (w : Who) (a : Word) (n : Nat) (acc : Acc) (ks : List Nat), translate s w a n acc = .ok ks →
    ks.length = n ∧
    ∀ sp, n ≠ 0 → checkAccess s s.mem w a n acc = .ok (.scratch sp) →
      ks = keysFrom (keyOf sp (bufOff a)) n ∧ ks.Nodup) ∧
  (∀ (s : State) (w : Who) (a : Word) (n : Nat) (acc : Acc), 0 < n → bufIdx a < 0xFE00 →
    (w.btCount ≤ bufIdx a → translate s w a n acc = .error ⟨0x08, a, 0⟩) ∧
    (bufIdx a < w.btCount →
      (∀ f, readEntry s s.mem w a = .error f → translate s w a n acc = .error f) ∧
      ∀ e, readEntry s s.mem w a = .ok e →
        (entryOwner e ≠ 0xFFFF → entryOwner e ≠ w.team → translate s w a n acc = .error ⟨0x0A, a, 0⟩) ∧
        ((entryOwner e = 0xFFFF ∨ entryOwner e = w.team) →
          (entryRights e &&& acc.rights ≠ acc.rights → translate s w a n acc = .error ⟨0x0B, a, 0⟩) ∧
          (entryRights e &&& acc.rights = acc.rights →
            (acc.aligned = true → bufOff a % n ≠ 0 → translate s w a n acc = .error ⟨0x0D, a, 0⟩) ∧
            ((acc.aligned = true → bufOff a % n = 0) →
              (entryLength e < bufOff a + n → translate s w a n acc = .error ⟨0x0C, a, 0⟩) ∧
              (bufOff a + n ≤ entryLength e →
                translate s w a n acc = bufferKeys s s.mem e a (bufOff a) n none)))))) ∧
  ((∀ (s : State) (w : Who) (a : Word) (acc : Acc) (e : Nat), checkAccess s s.mem w a 1 acc = .ok (.buffer e) →
    let c := entryExp e
    let m := entryMode e
    let off := bufOff a
    let size := if m = 1 ∨ m = 5 then 256 else if m = 2 ∨ m = 6 then 4096 else if m = 3 ∨ m = 7 then 65536 else 2097152
    let i := off / size
    let h := if 5 ≤ m then Nat.xor (Nat.xor i (i / 2 ^ c)) (i / 2 ^ (2 * c)) else i
    let plain : Bool := m == 0 || c == 0
    let chan := if plain then entryBase e else entryBase e + h % 2 ^ c
    let loc := if plain then off else i / 2 ^ c * size + off % size
    let space := if bitsOf e 96 96 = 0 then chan else 256 + chan
    let cap := if bitsOf e 96 96 = 0 then 3 * 2 ^ 29 else 2 ^ 34
    let size2 := [12, 16, 21, 30].getD (bitsOf e 95 94) 0
    let last := [3, 3, 2, 1].getD (bitsOf e 95 94) 0
    let page := loc / 2 ^ size2 * 2 ^ size2
    let index := fun l : Nat => if l = 0 then bitsOf page 47 39 else if l = 1 then bitsOf page 38 30
      else if l = 2 then bitsOf page 29 21 else if size2 = 16 then bitsOf page 20 16 else bitsOf page 20 12
    ∀ (node on : Nat → Nat) (j : Nat), j ≤ last →
      node 0 = bitsOf e 179 140 * 4096 → on 0 = bitsOf e 191 184 → node 0 < 3 * 2 ^ 29 →
      let key := fun l : Nat => on l * 2 ^ 48 + (node l + 8 * index l)
      let pte := fun l : Nat => ofBytes (memGetAll s.mem (keysFrom (key l) 8))
      let sound := fun l : Nat => keyBad s (key l) = false ∧ bitOf (pte l) 0 = true ∧ bitsOf (pte l) 55 52 = 0
      (∀ l, l < j → sound l ∧ node (l + 1) = bitsOf (pte l) 51 12 * 4096 ∧ on (l + 1) = bitsOf (pte l) 63 56 ∧
        node (l + 1) < 3 * 2 ^ 29) →
      let addr := bitsOf (pte j) 51 12 * 4096
      let o := translate s w a 1 acc
      (keyBad s (key j) = true → o = .error ⟨0x11, a, 0⟩) ∧
      (keyBad s (key j) = false → bitOf (pte j) 0 = false → o = .error ⟨0x0F, a, 0⟩) ∧
      (keyBad s (key j) = false → bitOf (pte j) 0 = true → bitsOf (pte j) 55 52 ≠ 0 → o = .error ⟨0x05, a, 52⟩) ∧
      (sound j → j < last → 3 * 2 ^ 29 ≤ addr → o = .error ⟨0x10, a, 0⟩) ∧
      (sound j → j = last → addr % 2 ^ size2 ≠ 0 ∨ cap < addr + 2 ^ size2 → o = .error ⟨0x10, a, 0⟩) ∧
      (sound j → j = last → addr % 2 ^ size2 = 0 → addr + 2 ^ size2 ≤ cap →
        o = .ok [space * 2 ^ 48 + (addr + loc % 2 ^ size2)])) ∧
  ∀ (s : State) (w : Who) (a : Word) (n : Nat) (acc : Acc) (ks : List Nat), bufOff a + n ≤ 2 ^ 48 →
    translate s w a n acc = .ok ks → ∀ i, i < n →
    ∃ k, ks[i]? = some k ∧ translate s w (addrOf (bufIdx a) (bufOff a + i)) 1 acc = .ok [k])

/-- LD and LDACQ at an address that passes its checks: the little-endian value of the bytes, sign-extended in the signed
forms, lands in sd through the scoreboard; nothing else changes. The effective address moves the offset of aa modulo
2^48. LDACQ must be naturally aligned (R122, R123). -/
def Obligations.LoadsRead : Prop :=
  ∀ (s : State) (sd : SReg) (aa : AReg) (cls : Sys2Proof.Class) (off : BitVec 27) (ks : List Nat),
    let a : Word := (s.ra aa).extractLsb' 48 16 ++ ((s.ra aa).extractLsb' 0 48 + off.signExtend 48)
    let v := ofBytes (ks.map (memGet s.mem))
    let lands := fun r : Nat => s.promise (s.latencyOf ks) (.scalar sd.toNat) r
    (Passes s a 1 cls.toNat .read true false ks →
      exec (.ldU8 sd aa cls off) s = .next (lands v) ∧
      exec (.ldS8 sd aa cls off) s = .next (lands ((BitVec.ofNat 8 v).signExtend 64).toNat)) ∧
    (Passes s a 2 cls.toNat .read true false ks →
      exec (.ldU16 sd aa cls off) s = .next (lands v) ∧
      exec (.ldS16 sd aa cls off) s = .next (lands ((BitVec.ofNat 16 v).signExtend 64).toNat)) ∧
    (Passes s a 4 cls.toNat .read true false ks →
      exec (.ldU32 sd aa cls off) s = .next (lands v) ∧
      exec (.ldS32 sd aa cls off) s = .next (lands ((BitVec.ofNat 32 v).signExtend 64).toNat)) ∧
    (Passes s a 8 cls.toNat .read true false ks → exec (.ld64 sd aa cls off) s = .next (lands v)) ∧
    (Passes s a 4 cls.toNat .readWord true false ks → exec (.ldacq32 sd aa cls off) s = .next (lands v)) ∧
    (Passes s a 8 cls.toNat .readWord true false ks → exec (.ldacq64 sd aa cls off) s = .next (lands v)) ∧
    ∀ r, sameMemory s (lands r) ∧ sameRegisters s.cx (lands r).cx ∧ (lands r).cx.pend = s.cx.pend ∧
      (sd = 0 → lands r = s) ∧
      (sd ≠ 0 → (lands r).cx.board = s.cx.board ++
        [{ dest := .scalar sd.toNat, due := s.cycle + s.latencyOf ks, value := some r, issued := s.cycle }])

/-- ST and STREL at an address that passes its checks write the low bytes of sa there, lowest first, and no other byte;
registers stay. STREL also waits for the stream's paired stores of every class (R122, R123). -/
def Obligations.StoresWrite : Prop :=
  ∀ (s : State) (sa : SReg) (aa : AReg) (cls : Sys2Proof.Class) (off : BitVec 27) (ks : List Nat),
    let a : Word := (s.ra aa).extractLsb' 48 16 ++ ((s.ra aa).extractLsb' 0 48 + off.signExtend 48)
    let done := fun (o : Host.Outcome State Fault Refusal) (n : Nat) =>
      ∃ t, o = .next t ∧ wrote s t ks ((List.range n).map fun j => (s.rs sa).extractLsb' (8 * j) 8) ∧ sameContext s.cx t.cx
    (Passes s a 1 cls.toNat .write false true ks → done (exec (.st8 sa aa cls off) s) 1) ∧
    (Passes s a 2 cls.toNat .write false true ks → done (exec (.st16 sa aa cls off) s) 2) ∧
    (Passes s a 4 cls.toNat .write false true ks → done (exec (.st32 sa aa cls off) s) 4) ∧
    (Passes s a 8 cls.toNat .write false true ks → done (exec (.st64 sa aa cls off) s) 8) ∧
    (s.storesBefore 0xFFFF = false →
      (Passes s a 4 cls.toNat .writeWord false true ks → done (exec (.strel32 sa aa cls off) s) 4) ∧
      (Passes s a 8 cls.toNat .writeWord false true ks → done (exec (.strel64 sa aa cls off) s) 8))

/-- AMO and CAS (R124): the old word of 4 or 8 bytes lands zero-extended in sd, the new word stands in memory, and no
other byte and no register changes at issue. -/
def Obligations.AtomicsActOnce : Prop :=
  ∀ (s : State) (sd sb : SReg) (aa : AReg) (cls : Sys2Proof.Class) (sz un : BitVec 1) (ks : List Nat),
    let n := if sz = 1 then 8 else 4
    let w := 8 * n
    let old := ofBytes (ks.map (memGet s.mem))
    let b := (s.rs sb).toNat % 2 ^ w
    let less := fun x y : Nat => if un = 1 then x < y else signed x w < signed y w
    let done := fun (o : Host.Outcome State Fault Refusal) (new : Nat) =>
      ∃ t, o = .next t ∧ wrote s t ks (toBytes n new) ∧ t.cx.regs = s.cx.regs ∧ t.cx.trap = s.cx.trap ∧
        t.cx.eng = s.cx.eng ∧ t.cx.pend = s.cx.pend ∧
        t.cx.board = s.cx.board ++ (if sd = 0 then [] else
          [{ dest := .scalar sd.toNat, due := s.cycle + s.latencyOf ks, value := some old, issued := s.cycle }])
    Passes s (s.ra aa) n cls.toNat .atomic true true ks →
      done (exec (.amoAdd sd aa sb cls sz un) s) (old + b) ∧
      (∃ new, (¬ less b old → new = old) ∧ (less b old → new % 2 ^ w = b) ∧
        done (exec (.amoMin sd aa sb cls sz un) s) new) ∧
      (∃ new, (¬ less old b → new = old) ∧ (less old b → new % 2 ^ w = b) ∧
        done (exec (.amoMax sd aa sb cls sz un) s) new) ∧
      done (exec (.amoAnd sd aa sb cls sz un) s) (old &&& (s.rs sb).toNat) ∧
      done (exec (.amoOr sd aa sb cls sz un) s) (old ||| (s.rs sb).toNat) ∧
      done (exec (.amoXor sd aa sb cls sz un) s) (old ^^^ (s.rs sb).toNat) ∧
      done (exec (.amoSwap sd aa sb cls sz un) s) b ∧
      (old = (s.rs sd).toNat % 2 ^ w → done (exec (.cas sd aa sb cls sz un) s) b) ∧
      (old ≠ (s.rs sd).toNat % 2 ^ w → done (exec (.cas sd aa sb cls sz un) s) old)

/-- Loads, stores, atomics of either size, flag writes and flag waits whose `Translate` fails take its fault, with the
origin of the access slot's class and the failing address (R74, R122, R123, R124, R319, R322); those that read an
erroneous byte, or write memory that is not ready, take 0x11 (R86, R362). An access that follows a paired store of its
class waits (R123, R131), and so does a release that follows one of any class. -/
def Obligations.AccessFaults : Prop :=
  ∀ (s : State) (sd sb : SReg) (aa : AReg) (cls : Sys2Proof.Class) (off : BitVec 27) (sz un : BitVec 1)
    (scope : BitVec 6) (f : MFault),
    let takes := fun g : MFault =>
      State.takeTrap s { origin := slotOrigin s.slot, cond := g.cond, addr := g.addr, info := word g.info, slot := some s.slot }
    let trapped := takes f
    let before := s.storesBefore (2 ^ cls.toNat)
    (∀ p ∈ ([(.ldU8 sd aa cls off, 1, .read), (.ldS8 sd aa cls off, 1, .read), (.ldU16 sd aa cls off, 2, .read),
        (.ldS16 sd aa cls off, 2, .read), (.ldU32 sd aa cls off, 4, .read), (.ldS32 sd aa cls off, 4, .read),
        (.ld64 sd aa cls off, 8, .read), (.st8 sb aa cls off, 1, .write), (.st16 sb aa cls off, 2, .write),
        (.st32 sb aa cls off, 4, .write), (.st64 sb aa cls off, 8, .write), (.ldacq32 sd aa cls off, 4, .readWord),
        (.ldacq64 sd aa cls off, 8, .readWord), (.strel32 sb aa cls off, 4, .writeWord),
        (.strel64 sb aa cls off, 8, .writeWord)] : List (Instr × Nat × Acc)),
      let a := addrAdd (s.ra aa) off.toInt
      (before = true → exec p.1 s = .next (s.hold .full)) ∧
      (before = false → translate s s.who a p.2.1 p.2.2 = .error f → exec p.1 s = .next trapped) ∧
      ∀ ks, before = false → translate s s.who a p.2.1 p.2.2 = .ok ks →
        (p.2.2 = .read ∨ p.2.2 = .readWord → ks.any (keyBad s) = true → exec p.1 s = .next (takes ⟨0x11, a, 0⟩)) ∧
        (p.2.2 = .write ∨ p.2.2 = .writeWord → keysReady s ks = false → exec p.1 s = .next (takes ⟨0x11, a, 0⟩))) ∧
    let n := if sz = 1 then 8 else 4
    ∀ p ∈ ([(.amoAdd sd aa sb cls sz un, n, .atomic), (.amoMin sd aa sb cls sz un, n, .atomic),
        (.amoMax sd aa sb cls sz un, n, .atomic), (.amoAnd sd aa sb cls sz un, n, .atomic),
        (.amoOr sd aa sb cls sz un, n, .atomic), (.amoXor sd aa sb cls sz un, n, .atomic),
        (.amoSwap sd aa sb cls sz un, n, .atomic), (.cas sd aa sb cls sz un, n, .atomic), (.flset sb aa cls scope, 8, .atomic),
        (.flsetAdd sb aa cls scope, 8, .atomic), (.flwaitGe sb aa cls scope, 8, .readWord),
        (.flwaitEq sb aa cls scope, 8, .readWord), (.flwaitNe sb aa cls scope, 8, .readWord)] : List (Instr × Nat × Acc)),
      (before = true → exec p.1 s = .next (s.hold .full)) ∧
      (before = false → translate s s.who (s.ra aa) p.2.1 p.2.2 = .error f → exec p.1 s = .next trapped) ∧
      ∀ ks, before = false → translate s s.who (s.ra aa) p.2.1 p.2.2 = .ok ks → ks.any (keyBad s) = true →
        exec p.1 s = .next (takes ⟨0x11, s.ra aa, 0⟩)

/-- FENCE issues, changes no register and no memory, and from then on a later access of its classes waits until the
paired stores of its classes that stand before it are written: stores whose two halves issued in earlier cycles, and
whose row does not wait in the replay buffer of a handler's trap (R125, R131); every other earlier access performed when
it issued (log 1). FLSET writes and FLSET.ADD adds modulo 2^64, once every earlier paired store of the stream is
written. FLWAIT issues when the condition holds, or was seen to hold by a re-evaluation, and stalls its stream when it
does not (R126). A write to any byte of a flag that a stream of a bound context waits on puts its re-evaluation on the
agenda, and the re-evaluation lets the bundle issue when the condition then holds (R126). A write that itself meets the
condition of a stream not yet met lets it issue, and its agent is who set it (R342). -/
def Obligations.FencesAndFlags : Prop :=
  (∀ (s : State) (sb : SReg) (aa : AReg) (cls : Sys2Proof.Class) (mask : BitVec 16) (sc : BitVec 3) (scope : BitVec 6) (ks : List Nat),
    let v := ofBytes (ks.map (memGet s.mem))
    let b := (s.rs sb).toNat
    let a := s.ra aa
    let waits := fun (o : Host.Outcome State Fault Refusal) (cond : Nat) (met : Prop) =>
      (met ∨ s.stream.met = true → o = .next s) ∧
      (¬ met → s.stream.met = false → o = .next (s.hold (.flag a cond (s.rs sb))))
    (∃ t, exec (.fence mask sc) s = .next t ∧ sameMemory s t ∧ sameContext s.cx t.cx ∧
      (s.grp < s.cx.streams.length → ∀ l, t.fenced l = (s.fenced l ||
        (decide (mask.toNat &&& l ≠ 0) && !s.cx.writtenTo (s.cx.placedBefore s.grp mask.toNat s.cycle)))) ∧
      ∀ l, t.fenced l = true → t.storesBefore l = true) ∧
    (∀ n d st, (n, st) ∈ s.cx.pairedStores → bitOf mask.toNat n.1 = true → st.group = s.grp → n.2 < s.cycle →
      st.born < s.cycle → s.cx.canWrite st = true → d ∈ s.cx.eng.stData → d.entry ≤ st.entry →
      s.cx.writtenTo (s.cx.placedBefore s.grp mask.toNat s.cycle) = false) ∧
    (∀ d, s.cx.canWrite d = false ↔ s.cx.trap.handler = true ∧ ∃ e ∈ s.cx.eng.stData, e.entry ≤ d.entry ∧ e.full = false ∧
      ∃ p ∈ s.cx.trap.replay, p.inner = false ∧ p.dest = .stq e.entry) ∧
    (s.storesBefore (2 ^ cls.toNat) = false → s.storesBefore 0xFFFF = true → Passes s a 8 cls.toNat .atomic true true ks →
      exec (.flset sb aa cls scope) s = .next (s.hold .full) ∧ exec (.flsetAdd sb aa cls scope) s = .next (s.hold .full)) ∧
    (Passes s a 8 cls.toNat .atomic true true ks → s.storesBefore 0xFFFF = false →
      (∃ t, exec (.flset sb aa cls scope) s = .next t ∧ wrote s t ks (toBytes 8 b) ∧ sameContext s.cx t.cx) ∧
      ∃ t, exec (.flsetAdd sb aa cls scope) s = .next t ∧ wrote s t ks (toBytes 8 ((v + b) % 2 ^ 64)) ∧
        sameContext s.cx t.cx) ∧
    (Passes s a 8 cls.toNat .readWord true false ks →
      waits (exec (.flwaitGe sb aa cls scope) s) 0 (b ≤ v) ∧ waits (exec (.flwaitEq sb aa cls scope) s) 1 (v = b) ∧
      waits (exec (.flwaitNe sb aa cls scope) s) 2 (v ≠ b))) ∧
  ((∀ (s : State) (g : Agent) (w : Who) (a f v : Word) (ks : List Nat) (bs : List Byte) (c i cond k : Nat) (r : List Nat)
    (x : Ctx) (t : Stream) (wt : Wait),
    (c, x) ∈ s.ctxs → x.bound = true → x.streams[i]? = some t → t.wait = some wt → wt.hold = .flag f cond v →
    (∀ u : State, u.mem = memPutAll s.mem ks bs → u.poison = s.poison → u.readyM = s.readyM → u.pool = s.pool →
      (∀ d, (u.ctx d).bound = (s.ctx d).bound ∧ (u.ctx d).bind = (s.ctx d).bind) →
      translate u x.bind.who f 8 .read = .ok r) → k ∈ r → k ∈ ks → keysReady s ks = true →
    .flagReevaluation c i ∈ (storeKeys s g w a ks bs).agenda ∧
    (s.ctx c = x → t.met = false → flagMet cond (ofBytes (memGetAll (memPutAll s.mem ks bs) r)) v.toNat = true →
      ∃ y, ((storeKeys s g w a ks bs).ctx c).streams[i]? = some y ∧ y.met = true ∧
        y.wait = some { wt with setter := g.id })) ∧
  ∀ (s : State) (c i cond : Nat) (f v : Word) (t : Stream) (wt : Wait) (n : Nat),
    (s.ctx c).streams[i]? = some t → t.wait = some wt → wt.hold = .flag f cond v →
    readNum s (s.ctx c).bind.who f 8 .readWord = .ok n → flagMet cond n v.toNat = true →
    exec (.flagReevaluation c i) s = .next (s.onCtx c (·.onStream i fun t => { t with met := true })))

/-- LDQ with room queues its rows in ascending order, each the 256 bytes at aa + 256·stride·j with the tag of LQTAG, or
a deferred row that names the address and the condition where it may not be read; it never faults for its address. Rows
arrive at the end of the load-data queue while it has room (R127, R128, R133). STQA with room checks every row, in
order, and keeps the translations with its class and cycle; a row start that is no multiple of 64 faults with
"misaligned row access". Without room it waits. The oldest row with landed data then writes its 256 bytes, and nothing
else (R127, R130). -/
def Obligations.RowQueues : Prop :=
  ((∀ (s : State) (cnt : BitVec 6) (aa : AReg) (cls : Sys2Proof.Class) (stride : BitVec 13),
    s.storesBefore (2 ^ cls.toNat) = false → s.cx.eng.ldCmds.length < 32 →
    ∃ c : RowCmd, exec (.ldq cnt aa cls stride) s = .next (s.up fun x =>
        { x with eng := { x.eng with ldCmds := x.eng.ldCmds ++ [c] } }) ∧
      c.addr = s.ra aa ∧ c.cls = cls.toNat ∧ c.count = cnt.toNat + 1 ∧ c.done = 0 ∧ c.rows.length = c.count ∧
      ∀ j, j < c.count →
        let a := addrAdd (s.ra aa) (256 * stride.toInt * j)
        (bufOff a % 64 ≠ 0 → c.rows[j]? = some ⟨.deferred, BitVec.ofNat 2048 (a.toNat + 2 ^ 64 * (64 + 0x0E))⟩) ∧
        (bufOff a % 64 = 0 → ∀ f, readMem s s.who a 256 = .error f →
          c.rows[j]? = some ⟨.deferred, BitVec.ofNat 2048 (a.toNat + 2 ^ 64 * (64 + f.cond))⟩) ∧
        (bufOff a % 64 = 0 → ∀ bs, readMem s s.who a 256 = .ok bs →
          c.rows[j]? = some ⟨s.cx.regs.lqtag, BitVec.ofNat 2048 (ofBytes bs)⟩)) ∧
  (∀ (s : State) (cnt : BitVec 6) (aa : AReg) (cls : Sys2Proof.Class) (stride : BitVec 13),
    s.storesBefore (2 ^ cls.toNat) = false → 32 ≤ s.cx.eng.ldCmds.length →
    exec (.ldq cnt aa cls stride) s = .next (s.hold .full)) ∧
  ∀ (s : State) (c : Nat) (q : RowCmd) (rest : List RowCmd), (s.ctx c).eng.ldCmds = q :: rest →
    (64 ≤ (s.ctx c).eng.ldRows.length → exec (.ldqRowArrival c) s = .next s) ∧
    ((s.ctx c).eng.ldRows.length < 64 → ∃ t, exec (.ldqRowArrival c) s = .next t ∧
      (t.ctx c).eng.ldRows = (s.ctx c).eng.ldRows ++ [q.rows.getD q.done {}] ∧
      (t.ctx c).eng.ldCmds = (if q.done + 1 < q.count then { q with done := q.done + 1 } :: rest else rest) ∧ sameMemory s t)) ∧
  ((∀ (s : State) (cnt : BitVec 6) (aa : AReg) (cls : Sys2Proof.Class) (stride : BitVec 13) (keys : List (List Nat)),
    s.cx.eng.stCmds.length < 32 → keys.length = cnt.toNat + 1 →
    (∀ j, j ≤ cnt.toNat → let a := addrAdd (s.ra aa) (256 * stride.toInt * j)
      bufOff a % 64 = 0 ∧ translate s s.who a 256 .write = .ok (keys.getD j []) ∧ keysReady s (keys.getD j []) = true ∧
      ownWatch s a 256 false true = .ok ()) →
    exec (.stqa cnt aa cls stride) s = .next (s.up fun x => { x with eng := { x.eng with stCmds := x.eng.stCmds ++
      [{ addr := s.ra aa, stride := stride.toInt, count := cnt.toNat + 1, cls := cls.toNat, born := s.cycle,
         keys := keys }] } })) ∧
  (∀ (s : State) (cnt : BitVec 6) (aa : AReg) (cls : Sys2Proof.Class) (stride : BitVec 13),
    32 ≤ s.cx.eng.stCmds.length → exec (.stqa cnt aa cls stride) s = .next (s.hold .full)) ∧
  (∀ (s : State) (cnt : BitVec 6) (aa : AReg) (cls : Sys2Proof.Class) (stride : BitVec 13),
    s.cx.eng.stCmds.length < 32 → bufOff (s.ra aa) % 64 ≠ 0 → exec (.stqa cnt aa cls stride) s =
      .next (s.takeTrap { origin := slotOrigin s.slot, cond := 0x0E, addr := addrAdd (s.ra aa) 0, slot := some s.slot })) ∧
  ∀ (s : State) (c : Nat) (q : RowCmd) (rest : List RowCmd) (d : StData) (ds : List StData),
    (s.ctx c).eng.stCmds = q :: rest → (s.ctx c).eng.stData = d :: ds →
    (d.full = false → exec (.pairedStoreWrite c) s = .next s) ∧
    (d.full = true → keysReady s (q.keys.getD q.done []) = true → ∃ t, exec (.pairedStoreWrite c) s = .next t ∧
      wrote s t (q.keys.getD q.done []) (toBytes 256 d.data.toNat) ∧ (t.ctx c).eng.stData = ds ∧
      (t.ctx c).eng.stCmds = (if q.done + 1 < q.count then { q with done := q.done + 1 } :: rest else rest)))

/-! Control flow. -/

/-- BR, CALL and BRP go to pc + 8·off (R279-R281), modulo 2^48 of the offset; indirect transfers and RET go to the
scalar, or fault with "misaligned branch target" where it is no multiple of 8. CALL leaves the address of the next
bundle in sd, latency 1. -/
def Obligations.Transfers : Prop :=
  ∀ (s : State) (sd sa : SReg) (off : BitVec 31) (pn : PReg) (cnt : BitVec 6),
    let target : Word := s.stream.pc.extractLsb' 48 16 ++ (s.stream.pc.extractLsb' 0 48 + 8 * off.signExtend 48)
    let a := s.rs sa
    let run := (List.range (cnt.toNat + 1)).map fun i => s.cx.p (pn.toNat + i)
    let bad := State.takeTrap s { origin := slotOrigin s.slot, cond := 0x07, slot := some s.slot }
    exec (.br off) s = .next (s.jump target) ∧
    exec (.call sd off) s = .next ((s.exposeS 1 sd s.npc).jump target) ∧
    exec (.brpAny pn cnt off) s = .next (if true ∈ run then s.jump target else s) ∧
    exec (.brpAll pn cnt off) s = .next (if false ∈ run then s else s.jump target) ∧
    exec (.brpNone pn cnt off) s = .next (if true ∈ run then s else s.jump target) ∧
    (a.toNat % 8 = 0 →
      exec (.brInd sa) s = .next ((s.jump a).note s.me 5 (s.me % 16)) ∧
      exec (.callInd sd sa) s = .next (((s.exposeS 1 sd s.npc).jump a).note s.me 5 (s.me % 16)) ∧
      exec (.ret sa) s = .next ((s.jump a).note s.me 6 (s.me % 16))) ∧
    (a.toNat % 8 ≠ 0 → exec (.brInd sa) s = .next bad ∧ exec (.callInd sd sa) s = .next bad ∧ exec (.ret sa) s = .next bad)

/-- After its bundle a stream goes to the transfer's target, closing the levels whose body the target is outside; at the
last bundle of its innermost level it goes back to the start with one pass fewer, or closes the level at its last pass;
else it goes to the next bundle (R279, R283, R285). The loop-back of a bundle's end adds the update delta of its level
to every address register whose delta is not 0, and LROT to RRB modulo the size of a rotating region, after the results
of latency 1 of the bundle; in a forked strand to those alone that the port record grants the group (R165, R167, R168).
LOOP opens a level over the next len bundles, which go to the loop buffer; with a count of 0 it skips them; a body that
does not nest, or a fifth level, faults with "loop nesting violation"; LBRK closes the innermost level and goes to the
first bundle after its body, of a level too whose buffer a handler's frame left to be fetched, whether that could be
done or not (R282, R284, R285, log 19). A fifth level faults whether or not its body can be fetched. -/
def Obligations.LoopsAndBundleEnds : Prop :=
  (∀ s : State, s.grp < s.cx.streams.length →
    let st := s.stream
    let t := s.advance.stream
    (s.jumped = true → t.pc = s.npc ∧ t.loops = keepLoops st.loops s.npc) ∧
    (s.jumped = false → st.loops = [] → t.pc = s.npc ∧ t.loops = []) ∧
    ∀ l, s.jumped = false → st.loops.getLast? = some l →
      (l.last ≠ st.pc → t.pc = s.npc ∧ t.loops = st.loops) ∧
      (l.last = st.pc → 1 < l.count.toNat →
        t.pc = l.start ∧ t.loops = st.loops.dropLast ++ [{ l with count := l.count - 1 }]) ∧
      (l.last = st.pc → l.count.toNat ≤ 1 → t.pc = s.npc ∧ t.loops = st.loops.dropLast)) ∧
  ((∀ (s : State) (l : LoopLevel), s.grp < s.cx.streams.length → s.jumped = false → s.stream.loops.getLast? = some l →
    (l.last = s.stream.pc → 1 < l.count.toNat →
      s.advance.cx.pend = (s.cx.loopBack s.cycle s.grp (s.stream.loops.length - 1)).pend) ∧
    (l.last ≠ s.stream.pc ∨ l.count.toNat ≤ 1 → s.advance.cx.pend = s.cx.pend)) ∧
  ∀ (x : Ctx) (now g l : Nat),
    let granted := fun (byte bit : Nat) => x.forked = false ∨ ∃ p, x.ports = some p ∧ portBit p g byte bit = true
    let y := (landOrder (x.pend.filter fun e => decide (e.due ≤ now + 1))).foldl Ctx.land x
    (∀ j, j < 16 → y.delta l j = 0 ∨ ¬ granted 14 j →
      (x.loopBack now g l).pend.filter (·.dest == .addr j) = x.pend.filter (·.dest == .addr j)) ∧
    (∀ j, j < 16 → y.delta l j ≠ 0 → granted 14 j → ∃ e ∈ (x.loopBack now g l).pend, e.dest = .addr j ∧ e.due = now + 1 ∧
      e.data = (addrAdd (y.a j) (y.delta l j)).toNat) ∧
    (y.regs.rotSize ≠ 0 → granted 17 0 → ∃ e ∈ (x.loopBack now g l).pend, e.dest = .special 0x012 ∧ e.due = now + 1 ∧
      e.data = (y.regs.rrb + Tab.get 0 y.regs.lrot l) % y.regs.rotSize) ∧
    ∀ e ∈ x.pend, ∃ f ∈ (x.loopBack now g l).pend, f.dest = e.dest ∧ f.due = e.due) ∧
  ((∀ (s : State) (len id : BitVec 6) (sa : SReg) (count : BitVec 13), s.stream.loops.length = 4 →
    let bad := State.takeTrap s { origin := slotOrigin s.slot, cond := 0x1D, slot := some s.slot }
    ((s.rs sa).toNat ≠ 0 → exec (.loopReg len sa id) s = .next bad) ∧
    (count.toNat ≠ 0 → exec (.loopImm len id count) s = .next bad)) ∧
  ∀ (s : State) (len id : BitVec 6) (sa : SReg) (count : BitVec 13) (ws : List Nat) (last : Word),
    walkBody s s.who s.stream.loops (len.toNat + 1) s.npc = .ok (ws, last) →
    let opens := fun n : Nat => State.upStream s fun t => { t with
      loops := t.loops ++ [⟨s.npc, last, word n, word n, id.toNat, ws.map word, pcAdd s.npc ws.length⟩], checkStop := true }
    let bad := State.takeTrap s { origin := slotOrigin s.slot, cond := 0x1D, slot := some s.slot }
    let does := fun (o : Host.Outcome State Fault Refusal) (n : Nat) =>
      (n = 0 → o = .next (s.jump (pcAdd s.npc ws.length))) ∧
      (n ≠ 0 → nests s.stream.loops s.npc last = true → o = .next (opens n)) ∧
      (n ≠ 0 → nests s.stream.loops s.npc last = false → o = .next bad)
    does (exec (.loopReg len sa id) s) (s.rs sa).toNat ∧ does (exec (.loopImm len id count) s) count.toNat ∧
    (4 ≤ s.stream.loops.length → nests s.stream.loops s.npc last = false) ∧
    (s.stream.loops = [] → nests s.stream.loops s.npc last = true ∧ exec .lbrk s = .next bad) ∧
    (∀ l, s.stream.loops.getLast? = some l → exec .lbrk s =
      .next ((s.upStream fun t => { t with loops := t.loops.dropLast }).jump l.after)) ∧
    ∀ (l : LoopLevel) (vs : List Nat), (l.body = [] → fetchBundle s s.who [] l.last = .ok vs →
        ∃ m, refill s s.who [l] = [m] ∧ m.after = pcAdd l.last vs.length ∧ m.start = l.start ∧ m.last = l.last ∧
          m.count = l.count ∧ m.total = l.total ∧ m.id = l.id) ∧
      (l.body ≠ [] → refill s s.who [l] = [l]))

/-- FORK outside a handler, in lockstep, splits the strand into the groups of its map, group i at pc + 8·o_i with no
loops; a map of one group does nothing; overlapping or absent port declarations fault (R165, R288). The port check fails
without a port section, and where two groups below the strand's number of groups are granted a common scalar, predicate,
address register, lane mask, operand-file entry or row granule, or both the rotating row base; gates are exempt (R164,
R165). JOIN by a stream of a forked strand with the mask of all its groups: the stream stands still until every group
has joined; the last one leaves group 0 alone, in lockstep, after its own JOIN, and no stream of the strand issues any
more in the cycle (R289). -/
def Obligations.ForkAndJoin : Prop :=
  (∀ (s : State) (map : BitVec 16) (o1 o2 o3 : BitVec 14),
    let n := mapGroups map
    let trap := fun c : Nat => State.takeTrap s { origin := slotOrigin s.slot, cond := c, slot := some s.slot }
    let start := fun o : BitVec 14 => ({ pc := pcAdd s.stream.pc o.toInt } : Stream)
    (s.cx.trap.handler = true → exec (.fork map o1 o2 o3) s = .next (trap 0x2E)) ∧
    (s.cx.trap.handler = false → s.cx.forked = true → exec (.fork map o1 o2 o3) s = .next (trap 0x1E)) ∧
    (s.cx.trap.handler = false → s.cx.forked = false → n = 1 → exec (.fork map o1 o2 o3) s = .next s) ∧
    (s.cx.trap.handler = false → s.cx.forked = false → n ≠ 1 → forkPorts s.cx n = false →
      exec (.fork map o1 o2 o3) s = .next (trap 0x06)) ∧
    (s.cx.trap.handler = false → s.cx.forked = false → n ≠ 1 → forkPorts s.cx n = true →
      ∃ t, exec (.fork map o1 o2 o3) s = .next t ∧ t.status = .moved ∧ t.cx.map = map ∧
        t.cx = { s.advance.cx with
          map := map, streams := s.advance.cx.streams.take 1 ++ [start o1, start o2, start o3].take (n - 1) } ∧
        (s.cx.streams.length = 1 → t.cx.streams.length = n) ∧ sameMemory s t)) ∧
  (∀ (x : Ctx) (n : Nat), (x.ports = none → forkPorts x n = false) ∧
    ∀ p : List Byte, x.ports = some p →
      let granted := fun (g byte i : Nat) => (p.getD (64 * g + byte + i / 8) 0).getLsbD (i % 8) = true
      (forkPorts x n = true ↔ ∀ g h, h < g → g < n →
        ∀ k ∈ ([(0, 0, 64), (8, 0, 32), (14, 0, 16), (16, 1, 8), (18, 0, 16), (24, 0, 64), (17, 0, 1)] :
            List (Nat × Nat × Nat)),
          ∀ i, k.2.1 ≤ i → i < k.2.2 → ¬ (granted g k.1 i ∧ granted h k.1 i))) ∧
  (∀ (s : State) (mask : BitVec 4),
    (s.cx.trap.handler = true →
      exec (.join mask) s = .next (s.takeTrap { origin := slotOrigin s.slot, cond := 0x2E, slot := some s.slot })) ∧
    (s.cx.trap.handler = false →
    (s.cx.forked = false →
      exec (.join mask) s = .next (s.takeTrap { origin := slotOrigin s.slot, cond := 0x1E, slot := some s.slot })) ∧
    (s.cx.forked = true → mask.toNat ≠ 2 ^ s.cx.streams.length - 1 →
      exec (.join mask) s = .next (s.takeTrap { origin := slotOrigin s.slot, cond := 0x1F, slot := some s.slot })) ∧
    (s.cx.forked = true → mask.toNat = 2 ^ s.cx.streams.length - 1 → s.grp < s.cx.streams.length →
      let b := if s.grp = 0 then s.advance else s
      ∃ t, exec (.join mask) s = .next t ∧ t.status = .moved ∧ sameMemory s t ∧
        { t.cx with streams := [] } = { b.cx with streams := [] } ∧
        ((∃ h, h < s.cx.streams.length ∧ h ≠ s.grp ∧ (s.cx.streams.getD h {}).joined = false) →
          t.turn = s.turn ∧ t.cx.streams.length = s.cx.streams.length ∧ (t.cx.streams.getD s.grp {}).joined = true ∧
          (s.grp ≠ 0 → (t.cx.streams.getD s.grp {}).loops = []) ∧
          ∀ h, h ≠ s.grp → t.cx.streams[h]? = s.cx.streams[h]?) ∧
        ((∀ h, h < s.cx.streams.length → h ≠ s.grp → (s.cx.streams.getD h {}).joined = true) →
          t.cx.streams.length = 1 ∧ t.cx.forked = false ∧ (t.cx.streams.getD 0 {}).joined = false ∧
          (t.cx.streams.getD 0 {}).loops = (b.cx.streams.getD 0 {}).loops ∧
          (s.grp ≠ 0 → (t.cx.streams.getD 0 {}).pc = (s.cx.streams.getD 0 {}).pc) ∧
          (s.grp = 0 → (t.cx.streams.getD 0 {}).pc = s.advance.stream.pc) ∧
          ∀ u ∈ t.turn, u ∈ s.turn ∧ ∀ h, u ≠ .stream s.me h))))

/-- GPOST sets a clear gate, once the stream's earlier paired stores are written (R272), and waits at a set one; GTAKE
clears a set gate and waits at a clear one; GWAIT waits at a clear one; GCLR clears. No other gate, register or byte
changes (R290). NOP does nothing. TLGET promises its register the timeline's completed count (R101). TLWAIT and MWAIT
issue once the timeline's completed count has reached the number (for MWAIT the number of matrix operations issued), and
wait until then (R100, R220, R286). -/
def Obligations.GatesAndTimelines : Prop :=
  (∀ (s : State) (g : GReg),
    let sets := fun (o : Host.Outcome State Fault Refusal) (v : Bool) =>
      ∃ t, o = .next t ∧ t.cx.g g.toNat = v ∧ (∀ h, h ≠ g.toNat → t.cx.g h = s.cx.g h) ∧
        { t.cx.regs with g := s.cx.regs.g } = s.cx.regs ∧ t.cx.trap = s.cx.trap ∧ t.cx.eng = s.cx.eng ∧
        t.cx.pend = s.cx.pend ∧ t.cx.board = s.cx.board ∧ sameMemory s t
    (s.cx.g g.toNat = false → s.storesBefore 0xFFFF = false → sets (exec (.gpost g) s) true) ∧
    (s.cx.g g.toNat = false → s.storesBefore 0xFFFF = true → exec (.gpost g) s = .next (s.hold .full)) ∧
    (s.cx.g g.toNat = true → exec (.gpost g) s = .next (s.hold (.gate 2 g.toNat))) ∧
    (s.cx.g g.toNat = true → sets (exec (.gtake g) s) false) ∧
    (s.cx.g g.toNat = false → exec (.gtake g) s = .next (s.hold (.gate 1 g.toNat))) ∧
    (s.cx.g g.toNat = true → exec (.gwait g) s = .next s) ∧
    (s.cx.g g.toNat = false → exec (.gwait g) s = .next (s.hold (.gate 0 g.toNat))) ∧
    sets (exec (.gclr g) s) false) ∧
  (∀ (s : State) (tl : BitVec 6) (n : BitVec 31) (sa sd : SReg),
    let done := (s.cx.timeline tl.toNat).completed
    exec .nop s = .next s ∧
    exec (.tlget sd tl) s = .next (s.promise 1 (.scalar sd.toNat) done) ∧
    (n.toNat ≤ done → exec (.tlwaitImm tl n) s = .next s) ∧
    (done < n.toNat → exec (.tlwaitImm tl n) s = .next (s.hold (.timeline tl.toNat n.toNat))) ∧
    ((s.rs sa).toNat ≤ done → exec (.tlwaitReg tl sa) s = .next s) ∧
    (done < (s.rs sa).toNat → exec (.tlwaitReg tl sa) s = .next (s.hold (.timeline tl.toNat (s.rs sa).toNat))) ∧
    ((s.cx.timeline 4).issued ≤ (s.cx.timeline 4).completed → exec .mwait s = .next s) ∧
    ((s.cx.timeline 4).completed < (s.cx.timeline 4).issued →
      exec .mwait s = .next (s.hold (.steps (s.cx.timeline 4).issued))))

/-- HALT and YIELD outside a handler, in lockstep and with their queues balanced, issue, and their stream stands at the
leave; in forked mode, in a handler, or with rows left in the queues they fault (R287, R310, R325). A strand at HALT
whose engines are done asks for its next chunk; the requests of a cycle, those of first binds among them, are served in
ascending context identifier, once every stream has had its turn (R287, R303): while records of the card remain, CURSOR
and ARGPTR name the chunk and execution begins at the entry point (R28, R153); else the slot is free (R287). HALT and
YIELD wait for the copies, matrix operations, routes, exit copies and paired stores (R99, R132, R219, R243, R259). A
strand that leaves at HALT is a member of no crew any more and keeps its registers (R153, R287). The size of a chunk is
min(remaining, max(cmin, min(cmax, ceil(remaining / 2S)))), and R303's example deals its 100 records so. A strand whose
waits at YIELD are over goes on at the bundle after it with every register kept, where no card waits for a slot, its
backfill is outstanding, or it is a member of a crew; else, its results landed, it is saved and its slot is free; a save
that meets an uncorrectable error tears it down (R334); one whose area does not translate lets it go on (the model's
reading, log 43). A save that a CTXSAVE asked for goes to that CTXSAVE's area, and its stream learns that it is made;
where it cannot be written the strand goes on (R333; log 43). -/
def Obligations.HaltAndNextChunk : Prop :=
  (∀ s : State,
    let trap := fun c : Nat => State.takeTrap s { origin := slotOrigin s.slot, cond := c, slot := some s.slot }
    let leaves := fun l : Leave => State.ends (s.upStream fun t => { t with leave := some l }) .moved
    let e := s.cx.eng
    (s.cx.trap.handler = true → exec .halt s = .next (trap 0x2E) ∧ exec .yield s = .next (trap 0x2E)) ∧
    (s.cx.trap.handler = false → s.cx.forked = true → exec .halt s = .next (trap 0x1E) ∧ exec .yield s = .next (trap 0x1E)) ∧
    (s.cx.trap.handler = false → s.cx.forked = false →
      (s.cx.stRows = e.stData.length → exec .halt s = .next (leaves .halt)) ∧
      (s.cx.stRows ≠ e.stData.length → exec .halt s = .next (trap 0x1C)) ∧
      (e.ldCmds = [] ∧ e.ldRows = [] ∧ e.stCmds = [] ∧ e.stData = [] → exec .yield s = .next (leaves .yield)) ∧
      (¬(e.ldCmds = [] ∧ e.ldRows = [] ∧ e.stCmds = [] ∧ e.stData = []) → exec .yield s = .next (trap 0x1C)))) ∧
  ((∀ (s : State) (c : Nat) (r : List Turn) (x : Ctx) (run : Run),
    s.fw = [] → s.agenda = [] → s.turn = .stream c 0 :: r → s.ctx c = x → x.idle 0 (x.streams.getD 0 {}) = false →
    (x.streams.getD 0 {}).leave = some .halt →
    x.drained = true → x.eng.crews = [] → s.run? x.bind.queue x.bind.card = some run → run.recs = [] →
    ∃ t, step s = .next t ∧ t.ctx c = { x with asks := true } ∧ t.runs = s.runs ∧
      t.turn = askTurn c (.chunk c) r) ∧
  (∀ (s : State) (c : Nat) (rec : BitVec 1024), bitOf rec.toNat 637 = true → bitsOf rec.toNat 639 638 = 0 →
    ∃ r, (s.writeSlot c rec).turn = askTurn c (.event (.bindNew c r)) s.turn ∧ (s.writeSlot c rec).agenda = s.agenda ∧
      bitsOf r.toNat 631 0 = bitsOf rec.toNat 631 0 ∧ bitsOf r.toNat 1023 637 = bitsOf rec.toNat 1023 637) ∧
  (∀ (c : Nat) (t : Turn) (us rs : List Turn), t.request = some c → (∀ u ∈ us, u.request = none) →
    (∀ v ∈ rs, v.request.isSome = true) → (rs.filterMap Turn.request).Pairwise (· ≤ ·) →
    askTurn c t (us ++ rs) = us ++ rs.filter (fun v => decide (v.request.getD 0 ≤ c)) ++
      t :: rs.filter (fun v => decide (c < v.request.getD 0))) ∧
  (∀ (s : State) (c : Nat) (r : List Turn), s.fw = [] → s.agenda = [] → s.turn = .chunk c :: r →
    step s = .next (if ((s.popTurn r).ctx c).bound = true ∧ ((s.popTurn r).ctx c).asks = true then (s.popTurn r).nextChunk c
      else s.popTurn r)) ∧
  ∀ (s : State) (c : Nat) (x : Ctx) (run : Run), s.ctx c = x → x.bound = true →
    s.run? x.bind.queue x.bind.card = some run →
    let k := cardNum run.card
    let t := s.nextChunk c
    (run.dealt < cardCount k →
      (t.ctx c).bound = true ∧ (t.ctx c).asks = false ∧ (t.ctx c).streams = [{ pc := x.bind.entry }] ∧
      (t.ctx c).regs.s = x.regs.s ∧ (t.ctx c).regs.rows = x.regs.rows ∧
      ∃ n, n = chunkSize (cardCount k - run.dealt) (cardCmin k) (cardCmax k)
          (run.strands.filter fun u => (s.byUid u).isSome).length ∧
        (t.ctx c).regs.cursor = word (n * 2 ^ 32 + run.dealt) ∧
        (t.ctx c).regs.argptr = addrAdd (cardArgs k) (run.dealt * cardRsize k : Nat)) ∧
    (cardCount k ≤ run.dealt → (t.ctx c).bound = false)) ∧
  ((∀ (s : State) (c : Nat) (r : List Turn) (x : Ctx),
    s.fw = [] → s.agenda = [] → s.turn = .stream c 0 :: r → s.ctx c = x → x.idle 0 (x.streams.getD 0 {}) = false →
    (x.streams.getD 0 {}).leave = some .halt → x.drained = true →
    ∃ t, step s = .next t ∧ (t.ctx c).asks = true ∧ (t.ctx c).eng.crews = [] ∧ (t.ctx c).regs = x.regs ∧
      .chunk c ∈ t.turn) ∧
  (∀ (s : State) (c : Nat) (r : List Turn) (l : Leave),
    let x := s.ctx c
    s.fw = [] → s.agenda = [] → s.turn = .stream c 0 :: r → x.idle 0 (x.streams.getD 0 {}) = false → (x.streams.getD 0 {}).leave = some l →
    (x.drained = true ↔ (∀ q ∈ x.eng.queues, q = []) ∧ x.eng.ops = [] ∧ (∀ t ∈ x.eng.routes, t.done = true) ∧ x.eng.exits = 0 ∧
      x.eng.stCmds = [] ∧ x.eng.stData = []) ∧
    (x.drained = false → ∃ t, step s = .next t ∧ t.ctx c = x ∧ t.mem = s.mem) ∧
    (x.drained = true → l = .halt → step s = .next ((((s.popTurn r).looking c 0).leaveHalt c).ends .moved))) ∧
  (∀ rem cmin cmax n : Nat, chunkSize rem cmin cmax n =
    min rem (max cmin (min cmax ((rem + 2 * n - 1) / (2 * n))))) ∧
  ([(100, 1), (84, 2), (68, 3), (10, 3), (6, 3), (2, 3)].map fun p : Nat × Nat => chunkSize p.1 4 16 p.2) =
    [16, 16, 12, 4, 4, 2] ∧
  ∀ (s : State) (c : Nat) (r : List Turn) (x : Ctx) (st : Stream) (ws : List Nat),
    s.fw = [] → s.agenda = [] → s.turn = .stream c 0 :: r → s.ctx c = x → x.streams = [st] →
    x.idle 0 st = false → st.leave = some .yield → st.loops = [] → x.drained = true →
    fetchBundle s x.bind.who [] st.pc = .ok ws →
    let after := pcAdd st.pc ws.length
    let kept := x.yieldAsk = false ∨ (x.timeline 6).completed ≠ (x.timeline 6).issued ∨ x.eng.crews ≠ []
    let saves := ((s.popTurn r).looking c 0).saveYield c after (dispatchAgent (dieOf (c / 16))) x.bind.who x.bind.save
    (x.yieldAsk = true → x.inFlight = true → ∃ t, step s = .next t ∧ t.ctx c = x) ∧
    ((x.yieldAsk = true → x.inFlight = false) →
      (kept → ∃ t, step s = .next t ∧ (t.ctx c).bound = true ∧ (t.ctx c).regs = x.regs ∧
        (t.ctx c).streams.map (fun u => (u.pc, u.leave)) = [(after, none)] ∧ sameMemory s t) ∧
      (¬ kept → x.yieldTo = none →
        (∀ u, saves = .ok u → ∃ t, step s = .next t ∧ (t.ctx c).bound = false ∧ t.mem = u.mem) ∧
        (∀ e, saves = .error e → e.cond = 0x11 → ∃ t, step s = .next t ∧ (t.ctx c).bound = false) ∧
        ∀ e, saves = .error e → e.cond ≠ 0x11 → ∃ t, step s = .next t ∧ (t.ctx c).bound = true ∧
          (t.ctx c).regs = x.regs ∧ (t.ctx c).streams.map (fun u => (u.pc, u.leave)) = [(after, none)]) ∧
      (¬ kept → ∀ i base, x.yieldTo = some (i, base) →
        let v := (s.popTurn r).looking c 0
        let asked := v.saveYield c after (streamAgent i 0) (v.ctx i).bind.who base
        (∀ u, asked = .ok u → step s = .next (((u.release c).tellSaver c i).ends .moved) ∧
          ((u.release c).ctx c).bound = false ∧
          ∀ (y : State) (g : Nat) (st : Stream) (w : Wait) (a : Word), (y.ctx i).streams[g]? = some st →
            st.wait = some w → w.hold = .save c 0 a →
            ((y.tellSaver c i).ctx i).streams[g]? = some { st with saved := true }) ∧
        ∀ e, asked = .error e → ∃ t, step s = .next t ∧ (t.ctx c).bound = true ∧ (t.ctx c).regs = x.regs ∧
          (t.ctx c).yieldAsk = false ∧ (t.ctx c).yieldTo = none ∧
          (t.ctx c).streams.map (fun u => (u.pc, u.leave)) = [(after, none)])))

/-! Traps. -/

/-- A trap by the issuing stream outside a handler, whose frame can be written: TCAUSE, TADDR, TINFO and TPC report it,
the frame stands at save area + 0x200, results in flight go to the replay buffer with the cycles that remain, and the
handler begins at TVEC in privileged mode and in one stream, or the context is trap-stopped where TVEC is disabled
(R322-R326, R329). The frame holds, word by word, TCAUSE, TADDR, TINFO, TPIDX, TPC0-TPC3, TSTATE, s56-s63, a14, a15, the
predicates, the gates and CTXMODE, as they are once the trap has been taken; then for each group and level a loop
level's start, count, total, and span, active bit and identifier; the rest is 0 (R322, R329). A trap inside a handler is
a double fault: the strand is torn down, its slot is free, and the teardown record names the double fault and the trap
(R325, R329, R334); a frame that cannot be written tears the strand down as a save-area failure (R324, R334). SVC
completes by the trap it takes, after its bundle: the pc saved is that of the next bundle, and TINFO holds the code
(R323, R333). In a forked strand the trap comes once the other streams have had their turns of the cycle (R323). While a
result that must land first is on its way, no stream of the strand issues, and the trap is taken when it has landed
(R324). -/
def Obligations.TrapEntry : Prop :=
  (∀ (s : State) (tr : Trap) (u : State), s.cx.trap.handler = false →
    let q := (s.note s.me 1 (tr.cause * 4 + s.grp)).quiesce s.me
    let x := q.trapped s.me s.grp tr
    saveMem q s.agent x.bind.who (x.saveAt 0x200) (x.frame x.mode x.streams) = .ok u →
    let t := s.takeTrap tr
    t.mem = u.mem ∧
    t.cx.trap.tcause = word (tr.origin * 64 + tr.cond + tr.detail * 2 ^ 12 + (if tr.async = true then 2 ^ 16 else 0) +
      (if tr.engine = true then 2 ^ 17 else 0) + (if tr.deferred = true then 2 ^ 18 else 0) + s.grp * 2 ^ 19) ∧
    t.cx.trap.taddr = tr.addr ∧ t.cx.trap.tinfo = tr.info ∧
    (∀ g, g < 4 → t.cx.trap.tpc[g]? = some ((s.cx.streams[g]?.map (·.pc)).getD 0)) ∧
    t.cx.pend = [] ∧
    (∀ b ∈ t.cx.board, b.owed = true ∧ (b.value = none ∨ ∃ r ∈ t.cx.trap.replay, r.dest = b.dest)) ∧
    (∀ e ∈ s.cx.pend, s.cycle < e.due → e.dest.isType = false → e.internal = false →
      ∃ r ∈ t.cx.trap.replay, r.dest = e.dest ∧ r.data = e.data ∧ r.due = e.due - s.cycle) ∧
    ((q.ctx s.me).trap.tvec.toNat % 2 = 1 → t.cx.trap.handler = true ∧ t.cx.priv = true ∧
      t.cx.streams = [{ pc := word ((q.ctx s.me).trap.tvec.toNat / 8 * 8) }]) ∧
    ((q.ctx s.me).trap.tvec.toNat % 2 = 0 → t.cx.trap.stopped = true ∧ t.cx.trap.handler = false ∧
      .trapStopped s.me ∈ t.told)) ∧
  (∀ (s : State) (c g : Nat) (tr : Trap),
    let x := s.trapped c g tr
    let f := x.frame x.mode x.streams
    let w := fun i : Nat => ofBytes ((f.drop (8 * i)).take 8)
    let enters := decide ((s.ctx c).trap.tvec.toNat % 2 = 1)
    f.length = 1024 ∧ w 0 = (tr.tcause g) % 2 ^ 64 ∧ w 1 = tr.addr.toNat ∧ w 2 = tr.info.toNat ∧
    w 3 = x.trap.tpidx.toNat ∧
    (∀ i, i < 4 → w (4 + i) = (((s.ctx c).streams[i]?.map Stream.pc).getD 0).toNat) ∧
    w 8 = (if enters = true then 1 else 0) + ((s.ctx c).streams.length - 1) % 4 * 2 ^ 7 +
      (s.ctx c).trap.replay.length % 512 * 2 ^ 9 ∧
    (∀ i, i < 8 → w (9 + i) = ((s.ctx c).s (56 + i)).toNat) ∧ w 17 = ((s.ctx c).a 14).toNat ∧
    w 18 = ((s.ctx c).a 15).toNat ∧ (∀ i, i < 32 → bitOf (w 19) i = (s.ctx c).p i) ∧ w 19 < 2 ^ 32 ∧
    w 20 = (s.ctx c).regs.g.toNat ∧
    w 21 = (if (s.ctx c).xchk = true then 1 else 0) + (if (s.ctx c).bind.priv = true ∨ enters = true then 2 else 0) +
      (s.ctx c).bind.pool % 4 * 2 ^ 4 + ((s.ctx c).streams.length - 1) % 4 * 2 ^ 6 ∧
    (∀ i, (22 ≤ i ∧ i < 32) ∨ (96 ≤ i ∧ i < 128) → w i = 0) ∧
    ∀ h l, h < 4 → l < 4 →
      let at_ := fun i : Nat => w (32 + 16 * h + 4 * l + i)
      (((s.ctx c).streams.getD h {}).loops[l]? = none → ∀ i, i < 4 → at_ i = 0) ∧
      ∀ v, ((s.ctx c).streams.getD h {}).loops[l]? = some v →
        at_ 0 = v.start.toNat ∧ at_ 1 = v.count.toNat ∧ at_ 2 = v.total.toNat ∧
        (bufOff v.start ≤ bufOff v.last → bufOff v.last < bufOff v.start + 2 ^ 12 →
          at_ 3 = (bufOff v.last - bufOff v.start) * 2 ^ 12 + 2 ^ 7 + v.id % 64)) ∧
  (∀ (s : State) (tr : Trap),
    (s.cx.trap.handler = true → (s.takeTrap tr).cx.bound = false ∧ s.takeTrap tr = State.ends
      ((s.note s.me 1 (tr.cause * 4 + s.grp)).tearDown s.me
        (tr.origin * 64 + 0x2E + 2 ^ 10 + (tr.origin * 64 + tr.cond) * 2 ^ 12)) (.trapped tr)) ∧
    (s.cx.trap.handler = false →
      let q := (s.note s.me 1 (tr.cause * 4 + s.grp)).quiesce s.me
      let x := q.trapped s.me s.grp tr
      ∀ e, saveMem q s.agent x.bind.who (x.saveAt 0x200) (x.frame x.mode x.streams) = .error e →
        (s.takeTrap tr).cx.bound = false ∧ s.takeTrap tr = State.ends
          ((q.setCtx s.me x).tearDown s.me (0x2C + 2 ^ 11 + (tr.origin * 64 + tr.cond) * 2 ^ 12)) (.trapped tr))) ∧
  (∀ (s : State) (code : BitVec 13),
    let trap : Trap := { origin := 0, cond := 0x26, info := BitVec.ofNat 64 code.toNat, slot := some 0 }
    (s.cx.forked = false → exec (.svc code) s = .next (s.advance.trapHere trap) ∧
      (s.advance.cx.answerDue = false → exec (.svc code) s = .next (s.advance.takeTrap trap))) ∧
    (s.cx.forked = true →
      exec (.svc code) s = .next { s with turn := putAfter s.me (.service s.me s.grp trap) s.turn }) ∧
    (∀ u : State, u.cx.answerDue = true → let v := u.trapHere trap
      v.cx.trapping = some (u.grp, trap) ∧ v.turn = dropTurns u.me u.turn ∧ v.cx.bound = u.cx.bound ∧
      v.cx.trap.handler = u.cx.trap.handler ∧ ∀ g st, v.cx.idle g st = true) ∧
    (∀ c ts r, (∀ u ∈ ts, u.streamOf c = true) → (∀ u ∈ r.head?, u.streamOf c = false) →
      putAfter c (.service c s.grp trap) (ts ++ r) = ts ++ .service c s.grp trap :: r) ∧
    (∀ c g r, s.fw = [] → s.agenda = [] → s.turn = .service c g trap :: r →
      step s = .next (((s.popTurn r).looking c g).trapHere trap)) ∧
    ∀ c g e r, s.fw = [] → s.agenda = [] → s.turn = .scan c :: r → (s.ctx c).trapping = some (g, e) →
      ((s.ctx c).answerDue = true → step s = .next (s.popTurn r)) ∧
      ((s.ctx c).answerDue = false →
        step s = .next (((s.popTurn r).onCtx c fun x => { x with trapping := none }).takeTrapOf c g e)))

/-- TRAPRET in a handler restores what the frame holds: s56-s63 (but not over a scoreboarded result that landed in one
of them since: that is log 42's reading of R336 against R333's restore), a14, a15, predicates, gates and loop levels,
the streams that were stopped at their TPC, unprivileged unless bound so; results in flight and stopped engines go on
(R97), and nothing else of the context changes. Outside a handler it faults; a frame that cannot be read is a save-area
failure (R327, R333, R334, log 22). In user mode CTXSAVE, CTXLOAD, TINV and TRAPRET fault with "privileged operation"
and do nothing else (R50, R321, R333). -/
def Obligations.TrapReturn : Prop :=
  (∀ s : State,
    (s.cx.priv = false → exec .trapret s = .next (s.takeTrap { origin := slotOrigin s.slot, cond := 0x03, slot := some s.slot })) ∧
    (s.cx.priv = true → s.cx.trap.handler = false →
      exec .trapret s = .next (s.takeTrap { origin := slotOrigin s.slot, cond := 0x2A, slot := some s.slot })) ∧
    (∀ e, s.cx.trap.handler = true → readFrame s s.cx = .error e →
      exec .trapret s = .next (State.ends (s.tearDown s.me (0x2C + 2 ^ 11)) .moved)) ∧
    ∀ f, s.cx.trap.handler = true → readFrame s s.cx = .ok f →
      ∃ t, exec .trapret s = .next t ∧ t.status = .moved ∧ sameMemory s t ∧
        t.cx.trap.handler = false ∧ t.cx.trap.stopped = false ∧ t.cx.trap.replay = [] ∧
        t.cx.streams.length = bitsOf (f.getD 21 0) 7 6 + 1 ∧
        (∀ g, g < t.cx.streams.length → (t.cx.streams.getD g {}).pc = s.cx.trap.tpc.getD g 0) ∧
        (∀ i, i < 8 → (∀ p ∈ s.cx.trap.kept, p.1 ≠ 56 + i) → t.cx.s (56 + i) = word (f.getD (9 + i) 0)) ∧
        (∀ i v, i < 8 → s.cx.trap.kept = [(56 + i, v)] → t.cx.s (56 + i) = v) ∧
        (∀ g, g < t.cx.streams.length →
          (t.cx.streams.getD g {}).loops.map (fun l => (l.start, l.count, l.total, l.id, l.last)) =
          (List.range 4).filterMap fun i =>
            (readLevel ((List.range 4).map fun j => f.getD (32 + 16 * g + 4 * i + j) 0)).map
              fun l => (l.start, l.count, l.total, l.id, l.last)) ∧
        t.cx.a 14 = word (f.getD 17 0) ∧ t.cx.a 15 = word (f.getD 18 0) ∧
        t.cx.regs.p = BitVec.ofNat 32 (f.getD 19 0) ∧ t.cx.regs.g = BitVec.ofNat 16 (f.getD 20 0) ∧
        (∀ n, 0 < n → n < 56 → t.cx.s n = s.cx.s n) ∧ (∀ n, n < 14 → t.cx.a n = s.cx.a n) ∧
        t.cx.priv = s.cx.bind.priv ∧ t.cx.bind = s.cx.bind ∧ t.cx.probe = s.cx.probe ∧
        { t.cx.regs with s := [], a := [], p := 0, g := 0 } = { s.cx.regs with s := [], a := [], p := 0, g := 0 } ∧
        t.cx.eng = { s.cx.eng with
          queues := s.cx.eng.queues.map (·.map fun k =>
            if k.stopped = true ∧ k.trap = none then { k with stopped := false, tables := s.mem } else k),
          ops := s.cx.eng.ops.map fun o => if o.stopped = true ∧ o.trap = none then { o with stopped := false } else o } ∧
        ∀ e ∈ s.cx.trap.replay, ∃ r ∈ t.cx.pend, r.dest = e.dest ∧ r.data = e.data ∧ r.due = s.cycle + 1 + e.due) ∧
  (∀ (s : State) (sa sb : SReg) (aa : AReg) (n : BitVec 2), s.cx.bind.priv = false → s.cx.trap.handler = false →
    ∀ i ∈ [Instr.trapret, .ctxsave sa aa n, .ctxload sa aa n, .tinv sa sb n],
      exec i s = .next (s.takeTrap { origin := slotOrigin s.slot, cond := 0x03, slot := some s.slot }))

/-- TINV in privileged mode counts an invalidation of the team that sa names and marks each copy queue of its bound
contexts at its newest command, and changes nothing else; operands out of range are detail 3 (log 26), and in user mode
it is a privileged operation. A firmware invalidation does the same. INVCNT reads the count, and INVDRN counts an
invalidation once every queue that it marked has passed it, by completing those commands or by leaving its slot (R82,
R98, R277, R278). -/
def Obligations.Invalidations : Prop :=
  ∀ (s : State) (sa sb : SReg) (size : BitVec 2) (buffer page : Word),
    let v := (s.rs sa).toNat
    (s.cx.priv = true → v < 2 ^ 32 → v % 2 ^ 16 < 0xFE00 →
      exec (.tinv sa sb size) s = .next (s.invalidate (v / 2 ^ 16))) ∧
    (s.cx.priv = true → ¬(v < 2 ^ 32 ∧ v % 2 ^ 16 < 0xFE00) → exec (.tinv sa sb size) s = .next
      (s.takeTrap { origin := slotOrigin s.slot, cond := 0x00, detail := 3, slot := some s.slot })) ∧
    (s.cx.priv = false → exec (.tinv sa sb size) s = .next
      (s.takeTrap { origin := slotOrigin s.slot, cond := 0x03, slot := some s.slot })) ∧
    exec (.firmwareInvalidation buffer page size) s = .next (s.invalidate (buffer.toNat / 2 ^ 16 % 2 ^ 16)) ∧
    ∀ team, Tab.get 0 (s.invalidate team).inv team = Tab.get 0 s.inv team + 1 ∧
      (∀ t, t ≠ team → Tab.get 0 (s.invalidate team).inv t = Tab.get 0 s.inv t) ∧
      (∀ m ∈ (s.invalidate team).marks, m ∈ s.marks ∨ (m.team = team ∧ m.num = Tab.get 0 s.inv team + 1)) ∧
      (∀ c x q, (c, x) ∈ s.ctxs → x.bound = true → x.bind.who.team = team → q < 4 →
        ∃ m ∈ (s.invalidate team).marks, m.team = team ∧ m.num = Tab.get 0 s.inv team + 1 ∧ m.ctx = c ∧
          m.uid = x.bind.uid ∧ m.queue = q ∧ m.position = (x.timeline q).issued) ∧
      (s.invalidate team).ctxs = s.ctxs ∧ (s.invalidate team).mem = s.mem ∧
      (s.who.team = team → specialNow s 0x054 = Tab.get 0 s.inv team ∧ specialNow s 0x055 = s.drained team) ∧
      (∀ m ∈ s.marks, m.team = team → 0 < m.num → s.passed m = false → s.drained team < m.num) ∧
      (∀ m, s.passed m = false ↔ (s.ctx m.ctx).bound = true ∧ (s.ctx m.ctx).bind.uid = m.uid ∧
        ((s.ctx m.ctx).timeline m.queue).completed < m.position) ∧
      (s.invalidate team).drained team ≤ Tab.get 0 s.inv team + 1 ∧
      ((∀ m ∈ (s.invalidate team).marks, m.team = team → (s.invalidate team).passed m = true) →
        (s.invalidate team).drained team = Tab.get 0 s.inv team + 1)

/-- Traps from outside a bundle: an engine's stopped command or operation, a strand of which every stream waits on a
gate, the lowest enabled pending notice, and the pending hit of the lowest watch, each with its condition, by a context
that may take them; a context that may not stays as it is (R97, R292, R323, R332, R335, R341). A notice posted is kept
pending (R332). While an answer that must land first is on its way the strand stops, and takes the trap then (R324). A
strand stops at the pass that an armed DBGCTL names, once, with the pass, the identifier, the stage predicates and the
level in TINFO (R338). A watch is hit by an access of its own index and team, or of the same scratchpad, that touches
its bytes (R339); an own access that the lowest such watch names traps with the first byte touched and the watch number,
except in the first bundle after TRAPRET (R340). Another writer's hit waits in the watch or is counted, at every context
but the writing stream's own, swapped out or not (R341). A stall begins with the cycle that does not issue; one of a
logged kind, of the threshold at least, is written when it ends as the next record of the ring; a fault turns the log
off (R342). Agent identifiers have the fields of R343. -/
def Obligations.AsynchronousTraps : Prop :=
  ((∀ (s : State) (c g : Nat) (t : Trap), ((s.ctx c).answerDue = false → s.trapTo c g t = s.takeTrapOf c g t) ∧
    ((s.ctx c).answerDue = true → let u := s.trapTo c g t
      (u.ctx c).trapping = some (g, t) ∧ u.turn = dropTurns c s.turn ∧ (u.ctx c).mayTrap = false ∧
      (u.ctx c).streams.length = (s.ctx c).streams.length ∧ (u.ctx c).trap.tcause = (s.ctx c).trap.tcause)) ∧
  ∀ (s : State) (c : Nat),
    (∀ n : BitVec 4, (s.ctx c).bound = true → exec (.noticePost c n) s = .next (s.onCtx c fun x =>
      { x with trap := { x.trap with pending := x.trap.pending ||| BitVec.ofNat 16 (2 ^ n.toNat) } })) ∧
    (∀ n, n < 16 → (s.ctx c).mayTrap = true → ((s.ctx c).trap.enable &&& (s.ctx c).trap.pending).getLsbD n = true →
      (∀ i, i < n → ((s.ctx c).trap.enable &&& (s.ctx c).trap.pending).getLsbD i = false) →
      exec (.noticeTrap c) s = .next (s.trapTo c 0 { origin := 0, cond := 0x30 + n, async := true })) ∧
    ((s.ctx c).mayTrap = false → exec (.noticeTrap c) s = .next s ∧ exec (.agentWatchTrap c) s = .next s) ∧
    (∀ w i, (s.ctx c).mayTrap = true → (s.ctx c).probe.watch[i]? = some w → w.pending = true →
      (∀ j v, j < i → (s.ctx c).probe.watch[j]? = some v → v.pending = false) →
      ∃ t, exec (.agentWatchTrap c) s = .next (t.trapTo c 0
          { origin := w.origin, cond := 0x28, addr := w.hitAddr, info := w.hitBy, async := true }) ∧
        t = s.onCtx c fun x => { x with probe := { x.probe with watch := x.probe.watch.set i { w with pending := false } } }) ∧
    (∀ g, (s.ctx c).bound = true → (s.ctx c).trap.stopped = false → (s.ctx c).freeze = false → (s.ctx c).trapping = none →
      (∀ t ∈ (s.ctx c).streams, t.joined = false → ∃ w k n, t.wait = some w ∧ w.hold = .gate k n ∧
        (s.ctx c).g n = (k == 2)) →
      ((s.ctx c).streams[g]?.map (·.joined)) = some false →
      (∀ h t, h < g → (s.ctx c).streams[h]? = some t → t.joined = true) →
      exec (.streamDeadlock c) s = .next (s.trapTo c g { origin := 0, cond := 0x20, async := true })) ∧
    ((s.ctx c).mayTrap = false → exec (.engineTrap c) s = .next s) ∧
    (∀ tr g, (s.ctx c).mayTrap = true → (s.ctx c).engineTrap? = some (tr, g) →
      exec (.engineTrap c) s = .next ((s.setCtx c (s.ctx c).dropEngineTrap).trapTo c
        (if g < (s.ctx c).streams.length then g else 0) tr)) ∧
    (∀ q k tr, q ∈ (s.ctx c).eng.queues → k ∈ q → k.trap = some tr → ∃ u g, (s.ctx c).engineTrap? = some (u, g)) ∧
    (∀ o tr, o ∈ (s.ctx c).eng.ops → o.trap = some tr → ∃ u g, (s.ctx c).engineTrap? = some (u, g)) ∧
    let y := (s.ctx c).dropEngineTrap
    y.eng.queues.map (·.map fun k => { k with trap := none }) =
        (s.ctx c).eng.queues.map (·.map fun k => { k with trap := none }) ∧
      y.eng.ops.map (fun o => { o with trap := none }) = (s.ctx c).eng.ops.map (fun o => { o with trap := none }) ∧
      y.regs = (s.ctx c).regs) ∧
  ((∀ (x : Ctx) (t : Stream),
    (t.loops = [] → debugStop x t = none) ∧
    ∀ ls l, t.loops = ls ++ [l] →
      let d := x.probe.dbgctl.toNat
      let pass := l.total.toNat - l.count.toNat + 1
      (t.checkStop = false ∨ d % 2 = 0 ∨ bitsOf d 31 26 ≠ l.id ∨ bitsOf d 63 32 ≠ pass → debugStop x t = none) ∧
      (t.checkStop = true → d % 2 = 1 → bitsOf d 31 26 = l.id → bitsOf d 63 32 = pass → ls.length < 4 →
        ∃ e, debugStop x t = some e ∧ e.origin = 0 ∧ e.cond = 0x29 ∧
          bitsOf e.info.toNat 63 32 = pass ∧ bitsOf e.info.toNat 31 26 = l.id ∧ bitsOf e.info.toNat 17 16 = ls.length ∧
          e.info.toNat % 2 ^ 16 = 0 ∧ ∀ i, i < 8 → (e.info.toNat.testBit (18 + i) = true ↔
            i ≤ bitsOf d 20 18 ∧ x.p (bitsOf d 25 21 + i) = true))) ∧
  (∀ (s : State) (c g : Nat) (r : List Turn) (e : Trap),
    let x := s.ctx c
    let st := x.streams.getD g {}
    let b := (s.popTurn r).issuer c g
    s.fw = [] → s.agenda = [] → s.turn = .stream c g :: r → x.idle g st = false → st.leave = none → st.barrier = none →
    x.answerDue = false → x.forked = false → debugStop x st = some e →
      step s = .next ((b.up fun x => { x with probe := { x.probe with dbgctl := x.probe.dbgctl &&& ~~~1 } }).takeTrap e)) ∧
  (∀ (w : Watch) (owner : Who) (team tile : Nat) (a : Word) (n : Nat),
    let same : Prop := match scratchSpace owner.tile (bufIdx w.base), scratchSpace tile (bufIdx a) with
      | some p, some q => p = q
      | none, none => bufIdx w.base = bufIdx a ∧ owner.team = team
      | _, _ => False
    let touched := fun o : Nat => bufOff w.base ≤ o ∧ o ≤ bufOff w.base + w.length ∧ bufOff a ≤ o ∧ o < bufOff a + n
    (¬ same → watchHit w owner team tile a n = none) ∧
    (same → (∀ o, touched o → (∀ p, p < o → ¬ touched p) →
        watchHit w owner team tile a n = some (addrOf (bufIdx w.base) o)) ∧
      ((∀ o, ¬ touched o) → watchHit w owner team tile a n = none)) ∧
    ∀ (g : Agent),
      (w.agent = false ∨ watchHit w owner team tile a n = none → w.see g owner team tile a n = w) ∧
      ∀ h, w.agent = true → watchHit w owner team tile a n = some h →
        (w.pending = true → w.see g owner team tile a n = { w with hits := min (w.hits + 1) 255 }) ∧
        (w.pending = false → w.see g owner team tile a n =
          { w with pending := true, hitAddr := h, hitBy := g.id, origin := g.origin })) ∧
  (∀ (s : State) (a : Word) (n : Nat) (reads writes : Bool),
    let named := fun v : Watch => (reads = true ∧ v.read = true ∨ writes = true ∧ v.write = true) ∧
      (watchHit v s.who s.who.team s.who.tile a n).isSome = true
    let ws := s.cx.probe.watch
    (s.stream.exempt = true ∨ (∀ v ∈ ws, ¬ named v) → ownWatch s a n reads writes = .ok ()) ∧
    ∀ us v vs h, s.stream.exempt = false → ws = us ++ v :: vs → named v → (∀ u ∈ us, ¬ named u) →
      watchHit v s.who s.who.team s.who.tile a n = some h → ownWatch s a n reads writes = .error (s.fault 0x27 h (word us.length))) ∧
  (∀ (s : State) (g : Agent) (team tile : Nat) (a : Word) (n : Nat),
    let t := noteWatches s g team tile a n
    t = { s with ctxs := t.ctxs, images := t.images } ∧ t.images.map (·.1) = s.images.map (·.1) ∧
    ∀ c, (s.ctx c).bound = true → (t.ctx c).probe.watch =
      if g.stream = true ∧ g.ctx = c then (s.ctx c).probe.watch
      else (s.ctx c).probe.watch.map (·.see g (s.ctx c).bind.who team tile a n)) ∧
  (∀ (s : State) (c g how kind obj : Nat) (w : Wait),
    let x := s.ctx c
    let at_ := addrAdd x.probe.wlbase (64 * (x.probe.wlpos % 2 ^ (x.probe.wlSize + 4)))
    let lasted := s.cycle - w.cycle
    let record := toBytes 8 w.time ++ toBytes 4 (min lasted (2 ^ 32 - 1)) ++ toBytes 1 kind ++ toBytes 1 (g + 4 * how) ++
      toBytes 2 0 ++ toBytes 8 obj ++ toBytes 8 (if how = 0 then w.setter.toNat else 0) ++
      toBytes 8 (x.streams.getD g {}).pc.toNat ++ toBytes 8 (w.hold.value s x) ++ toBytes 16 0
    (w.hold.logged = none ∨ x.probe.wlEnable = false ∨ lasted < x.probe.wlThreshold → s.logWait c g w how = s) ∧
    (w.hold.logged = some (kind, obj) → x.probe.wlEnable = true → x.probe.wlThreshold ≤ lasted →
      (∀ t, writeMem s (streamAgent c g) x.bind.who at_ record = .ok t →
        s.logWait c g w how = t.onCtx c fun x => { x with probe := { x.probe with wlpos := x.probe.wlpos + 1 } }) ∧
      (∀ f, writeMem s (streamAgent c g) x.bind.who at_ record = .error f →
        s.logWait c g w how = s.onCtx c fun x => { x with probe := { x.probe with wlError := true, wlEnable := false } }))) ∧
  (∀ (s : State) (h : Hold), s.stream.wait = none →
    s.hold h = { s.upStream fun t => { t with wait := some { hold := h, time := s.time, cycle := s.cycle } } with status := .held h }) ∧
  (∀ (i n : Nat) (a c : Word), i < 3 → n < 2 ^ 61 →
    [Hold.gate i n, .flag a i n, .timeline i n, .barrier c, .route c, .future a, .ldq, .scoreboard, .full].map (·.logged) =
      [some (i, n), some (3, a.toNat), some (4, i * 2 ^ 61 + n), some (5, c.toNat), some (6, c.toNat), some (7, a.toNat), some (8, 0),
        none, none]) ∧
  ∀ kind ctx grp detail : Nat, kind < 16 → ctx < 4096 → grp < 4 → detail < 2 ^ 46 →
    let w := (agentId kind ctx grp detail).toNat
    bitsOf w 63 60 = kind ∧ bitsOf w 59 48 = ctx ∧ bitsOf w 47 46 = grp ∧ bitsOf w 45 0 = detail)

/-! Scheduling. -/

/-- Slot-table actions that may not be done write their status and change nothing else: reserved field or a queue that
is none 8, tile not ready 9, slot index 2, slot occupied 3, NVER 0 4, no card with records 6, header or save area not to
be read 5, a reserved field of card, header or port record 8 (bind), slot not bound 7 (swap out, tear down) (R102, R304,
R305, R362; the order among them is log 23's). BIND_NEW of a card with undealt records: the context begins as at first
bind, in lockstep at the card's entry, with NVER, XCHK and privilege of the record, TVEC of the save area, the counts of
the header rounded up to their granules, and its first chunk, of S bound strands of the card, itself among them; status
1, go 0. A share that another team held last is zeroed, and no other memory changes; of other contexts nothing changes
but what their watches and flag waits note (R152, R297, R298, R299, R303, R305, R322). -/
def Obligations.SlotTableBinds : Prop :=
  (∀ (s : State) (c : Nat) (rec : BitVec 1024),
    let r := rec.toNat
    let q := bitsOf r 1009 1000
    let clean := bitsOf r 631 0 = 0 ∧ bitsOf r 1023 1010 = 0 ∧ (q < 0x10E ∨ q = 0x1FF)
    let bind := fun k : Nat => Refuses s c (exec (.bindNew c rec) s) k
    let both := fun k : Nat => bind k ∧ Refuses s c (exec (.restore c rec) s) k
    let ends := fun k : Nat => s.trip = false →
      Refuses s c (exec (.swapOut c rec) s) k ∧ Refuses s c (exec (.tearDown c rec) s) k
    (¬ clean → both 8 ∧ ends 8) ∧
    (clean → (s.ctx c).bound = false → ends 7) ∧
    (clean → s.readyT.getLsbD (c / 16) = false → both 9) ∧
    (clean → s.readyT.getLsbD (c / 16) = true →
      (poolSlots (s.poolOf (c / 16)) ≤ c % 16 → both 2) ∧
      (c % 16 < poolSlots (s.poolOf (c / 16)) → (s.ctx c).bound = true → both 3) ∧
      (c % 16 < poolSlots (s.poolOf (c / 16)) → (s.ctx c).bound = false →
        (bitsOf r 643 642 = 0 → bind 4) ∧
        (bitsOf r 643 642 ≠ 0 →
          (s.findRun q (dieOf (c / 16)) (bitsOf r 999 952) = none → bind 6) ∧
          ∀ t run, s.findRun q (dieOf (c / 16)) (bitsOf r 999 952) = some (t, run) →
            let k := cardNum run.card
            let w := recordWho s c r
            let header := readNum s w (cardHeader k) 64
            let vec := readNum s w (word (bitsOf r 951 888)) 8
            (cardCount k ≤ run.dealt → bind 6) ∧
            (run.dealt < cardCount k → (reservedField k cardReserved).isSome = true → bind 8) ∧
            (run.dealt < cardCount k → reservedField k cardReserved = none →
              (∀ e, header = .error e ∨ vec = .error e → bind 5) ∧
              ∀ h v, header = .ok h → vec = .ok v → (reservedField h headerReserved).isSome = true ∨
                ((s.portRecord (cardHeader k) run.team).map portsReserved).getD false = true → bind 8))))) ∧
  (∀ (s t : State) (c : Nat) (rec : BitVec 1024) (run : Run) (header vec : Nat), CanBind s t c rec run header vec →
    let r := rec.toNat
    let k := cardNum run.card
    let strands := ((run.strands ++ [s.uid]).filter fun i => decide (i = s.uid) || (s.byUid i).isSome).length
    let n := chunkSize (cardCount k - run.dealt) (cardCmin k) (cardCmax k) strands
    let mode := s.poolOf (c / 16)
    let share := keysFrom (keyOf (spaceUnit (c / 16)) (c % 16 * shareSize mode)) (shareSize mode)
    let foreign := ∃ i ∈ shareUnits mode c, ∃ team, Tab.find? s.holder i = some team ∧ team ≠ bitsOf r 791 776
    ∃ u, exec (.bindNew c rec) s = .next u ∧ slotStatus u c = 1 ∧ slotGo u c = false ∧
      (foreign → (∀ a ∈ share, memGet u.mem a = 0) ∧ ∀ a, a ∉ share → memGet u.mem a = memGet s.mem a) ∧
      (¬ foreign → sameMemory s u) ∧
      let x := u.ctx c
      x.bound = true ∧ x.streams = [{ pc := cardEntry k }] ∧ x.xchk = bitOf r 640 ∧ x.bind.priv = bitOf r 641 ∧
      x.bind.who = recordWho s c r ∧ x.bind.save = word (bitsOf r 951 888) ∧
      x.bind.queue = runQueue (bitsOf r 1009 1000) (dieOf (c / 16)) ∧ x.bind.card = bitsOf r 999 952 ∧
      x.bind.level = bitsOf r 647 644 ∧ x.bind.conts = word (bitsOf r 887 824) ∧ x.bind.ccount = bitsOf r 823 808 ∧
      x.bind.pool = mode ∧ x.bind.entry = cardEntry k ∧ x.bind.uid = s.uid ∧
      x.bind.rows % 16 = 0 ∧ bitsOf header 10 0 ≤ x.bind.rows ∧ x.bind.rows < bitsOf header 10 0 + 16 ∧
      x.bind.scalars % 8 = 0 ∧ min 56 (bitsOf header 23 18) ≤ x.bind.scalars ∧ x.bind.scalars ≤ 56 ∧
      x.bind.scalars < bitsOf header 23 18 + 8 ∧
      x.bind.scratch % 4096 = 0 ∧ bitsOf header 95 64 ≤ x.bind.scratch ∧ x.bind.scratch < bitsOf header 95 64 + 4096 ∧
      x.ports = s.portRecord (cardHeader k) run.team ∧ x.probe = {} ∧ x.map = 0 ∧
      x.regs = { nver := bitsOf r 643 642, cursor := word (n * 2 ^ 32 + run.dealt),
                 argptr := addrAdd (cardArgs k) (run.dealt * cardRsize k : Nat) } ∧
      x.trap = { tvec := word (vec % 2 ^ 64 / 8 * 8 + vec % 2) } ∧ x.pend = [] ∧ x.board = [] ∧ x.eng = {} ∧
      ∀ d, d ≠ c → { u.ctx d with probe := (s.ctx d).probe, streams := (s.ctx d).streams } = s.ctx d)

/-- RESTORE, SWAP_OUT, FREEZE_REQUEST, TEAR_DOWN and HANG on slots they suit (R305, R331, R334): a restore loads the
save area and answers 1, or 5 where it cannot; a swap-out asks the streams to stop, waits for the engines, writes the
save and frees the slot; a freeze request writes it and keeps the slot stopped (log 25); a save that meets an
uncorrectable error tears the context down, and after any other failed save it goes on with status 5 and memory as it
was (log 43, the model's reading); teardown and a hang free the slot. The streams stop in their turn, with their results
in the replay buffer. While every clock stands for heat the actions wait (R366). What a teardown does (R302, R329,
R334): results in flight land, the engines are flushed, the crews left, and the teardown record, the cause and the
counts of copy commands, of routes and matrix operations, and of cards discarded, goes to header words 4 to 7 or to
steward firmware; the cards that JOBQ and LAUNCH have queued in this cycle are discarded; the slot is free and the
strand's run is torn (R306). -/
def Obligations.SlotActions : Prop :=
  (∀ (s : State) (c : Nat) (rec : BitVec 1024),
    let r := rec.toNat
    let q := bitsOf r 1009 1000
    let b := recordBind s c r 0 0
    let f := s.freezeStart c none
    let y := f.ctx c
    let saves := f.saveFreeze c (dispatchAgent (dieOf (c / 16))) y.bind.who y.bind.save
    (slotRefusal s c r = none → ∀ t, s.restoreTo c b b.save b.who (bitsOf r 643 642) (bitOf r 640) = .ok t →
      ∃ u, exec (.restore c rec) s = .next u ∧ slotStatus u c = 1 ∧ slotGo u c = false ∧ u.ctxs = t.ctxs ∧ u.mem = t.mem) ∧
    (slotRefusal s c r = none → ∀ e, s.restoreTo c b b.save b.who (bitsOf r 643 642) (bitOf r 640) = .error e →
      Refuses s c (exec (.restore c rec) s) 5) ∧
    (s.trip = false → bitsOf r 631 0 = 0 → bitsOf r 1023 1010 = 0 → q < 0x10E ∨ q = 0x1FF → (s.ctx c).bound = true →
      (¬(y.freeze = true ∧ y.settled = true) → ∃ t, exec (.swapOut c rec) s = .next t ∧
        t.again = f.again ++ [.swapOut c rec] ∧ ((t.ctx c).freeze = true ∨ (t.ctx c).freezeAsk = true) ∧
        (t.ctx c).bound = true) ∧
      (y.freeze = true → y.settled = true →
        (∀ u, saves = .ok u → ∃ t, exec (.swapOut c rec) s = .next t ∧ slotStatus t c = 1 ∧ slotGo t c = false ∧
          (t.ctx c).bound = false ∧ t.mem = u.mem ∧ t.images = u.images) ∧
        ∀ e, saves = .error e → ∃ t, exec (.swapOut c rec) s = .next t ∧ slotStatus t c = 5 ∧ slotGo t c = false ∧
          (e.cond = 0x11 → (t.ctx c).bound = false) ∧
          (e.cond ≠ 0x11 → (t.ctx c).bound = true ∧ (t.ctx c).freeze = false ∧ t.mem = s.mem)) ∧
      ∃ t, exec (.tearDown c rec) s = .next t ∧ slotStatus t c = 1 ∧ slotGo t c = false ∧ (t.ctx c).bound = false) ∧
    (s.trip = false → (s.ctx c).bound = true →
      (¬(y.freeze = true ∧ y.settled = true) → ∃ t, exec (.freezeRequest c) s = .next t ∧
        t.again = f.again ++ [.freezeRequest c] ∧ ((t.ctx c).freeze = true ∨ (t.ctx c).freezeAsk = true)) ∧
      (y.freeze = true → y.settled = true → ∀ u, saves = .ok u → exec (.freezeRequest c) s = .next u) ∧
      ∃ t, exec (.hang c) s = .next t ∧ (t.ctx c).bound = false) ∧
    (s.trip = false → (s.ctx c).bound = false → exec (.freezeRequest c) s = .next s ∧ exec (.hang c) s = .next s) ∧
    (s.trip = true → ∀ i ∈ [Instr.swapOut c rec, .tearDown c rec, .freezeRequest c, .hang c],
      exec i s = .next { s with again := s.again ++ [i] }) ∧
    ∀ ts, s.fw = [] → s.agenda = [] → s.turn = .freeze c :: ts → (s.ctx c).bound = true → (s.ctx c).freezeAsk = true →
      ∃ t, step s = .next t ∧ (t.ctx c).freeze = true ∧ (t.ctx c).freezeAsk = false ∧ (t.ctx c).pend = [] ∧
        t.turn = dropTurns c ts ∧
        ∀ e ∈ (s.ctx c).pend, s.cycle < e.due → e.dest.isType = false → e.internal = false →
          ∃ p ∈ (t.ctx c).trap.replay, p.dest = e.dest ∧ p.data = e.data ∧ p.due = e.due - s.cycle) ∧
  (∀ (s : State) (c cause : Nat),
    let x := s.ctx c
    let u := (s.unpost x).abandon c
    let ws := [cause, (x.eng.queues.map (·.length)).sum,
      (x.eng.routes.filter (!·.done)).length * 2 ^ 32 + x.eng.ops.length,
      (x.eng.posted.filter fun p => p.2.2 == s.cycle).length]
    ((s.tearDown c cause).ctx c).bound = false ∧
    (u.ctx c).pend = [] ∧ (u.ctx c).trap.replay = [] ∧ (u.ctx c).eng.queues = [[], [], [], []] ∧ (u.ctx c).eng.ops = [] ∧
    (u.ctx c).eng.routes = [] ∧ (u.ctx c).eng.ldCmds = [] ∧ (u.ctx c).eng.ldRows = [] ∧ (u.ctx c).eng.stCmds = [] ∧
    (u.ctx c).eng.stData = [] ∧ (u.ctx c).eng.crews = [] ∧ (u.ctx c).regs.g = 0 ∧
    (∀ t, saveMem u (dispatchAgent (dieOf (c / 16))) x.bind.who (x.saveAt 32) (ws.flatMap (toBytes 8)) = .ok t →
      s.tearDown c cause = (t.release c).strandEnds x.bind.queue x.bind.card x.bind.uid true) ∧
    (∀ e, saveMem u (dispatchAgent (dieOf (c / 16))) x.bind.who (x.saveAt 32) (ws.flatMap (toBytes 8)) = .error e →
      s.tearDown c cause = (({ u with told := u.told ++ [Told.saveFailed c (ws.map word)] }).release c).strandEnds
        x.bind.queue x.bind.card x.bind.uid true) ∧
    (∀ (j : JobQ) (p : Nat), (j.tail = p + 1 → j.unpost p = { j with tail := p }) ∧
      (j.tail ≠ p + 1 → j.unpost p = { j with void := p :: j.void })) ∧
    ∀ (v : State) (q p uid : Nat) (r : Run), v.run? q p = some r →
      (v.strandEnds q p uid true).runs = v.runs.map (fun t => if t.queue = q ∧ t.pos = p then
        { r with strands := r.strands.filter (· != uid), torn := true } else t) ∨
      (v.strandEnds q p uid true).run? q p = none)

/-- A freeze save has header words 1 to 3 with version 1 and the grade, the trap frame of 1 KiB at 0x200 with TCAUSE,
TADDR and TINFO first, the declared scalars at 0x600, the port table at 0x1000, load-data rows at 0x2300, store-data
entries at 0x6700, the replay buffer at 0x10900, operand file and latches at 0x21900, row tags and tile types, two to a
byte, at 0x22D00, the declared rows at 0x23100 and the share at 0x63100 (R328, R329). An entry of the replay buffer has
its fields where R326 puts them. A freeze save that succeeds writes its sections to the area in this order, header words
1 to 3 last, with grade 3 for a trap-stopped context or a running handler, whose frame stands in its save area already,
and grade 2 otherwise; then free values to the sections whose bits the manual leaves open (R299, R328, R329, R331; log
11). A yield save writes its block of 16 words and header words 1 to 3 (R330). One section is written whole, where its
translation leads (R334). CTXSAVE in privileged mode (R333): a target that is the issuer, is not bound, or (trap grade)
is not trap-stopped, or a context scalar above 12 bits, is "context identifier invalid"; an area that is not 256-aligned
or does not fit is "save area fault"; a freeze or trap save waits until its target stands frozen with its engines
settled, writes the save and frees the slot; a yield save waits for the target's YIELD. -/
def Obligations.ContextSaves : Prop :=
  (∀ (x : Ctx) (frame share : List Byte) (c grade len : Nat),
    (0x200, frame) ∈ freezeParts x frame share ∧
    (0x600, (List.range (8 + x.bind.scalars)).flatMap fun i => toBytes 8 (x.s i).toNat) ∈ freezeParts x frame share ∧
    (0x23100, (List.range x.bind.rows).flatMap fun r => toBytes 256 (x.row r).data.toNat) ∈ freezeParts x frame share ∧
    (0x63100, share) ∈ freezeParts x frame share ∧
    (grade < 4 → wordAt (headerWords x c grade len) 0 % 4 = grade ∧ bitsOf (wordAt (headerWords x c grade len) 0) 15 8 = 1) ∧
    (∀ (mode : Nat) (parked : List Stream), x.trap.tpc.length = 4 → (x.frame mode parked).length = 1024 ∧
      wordAt (x.frame mode parked) 0 = x.trap.tcause.toNat ∧ wordAt (x.frame mode parked) 1 = x.trap.taddr.toNat ∧
      wordAt (x.frame mode parked) 2 = x.trap.tinfo.toNat) ∧
    (∀ p, x.ports = some p → (0x1000, p) ∈ freezeParts x frame share) ∧
    (x.ports = none → (0x1000, List.replicate 256 0) ∈ freezeParts x frame share) ∧
    let entry := fun r : Row => toBytes 16 r.tag.code ++ toBytes 256 r.data.toNat
    (0x2300, x.eng.ldRows.flatMap entry) ∈ freezeParts x frame share ∧
    (0x6700, x.eng.stData.flatMap fun d => toBytes 16 (d.tag.code + (if d.full = true then 0 else 16)) ++
      toBytes 256 d.data.toNat) ∈ freezeParts x frame share ∧
    (0x10900, x.trap.replay.zipIdx.flatMap fun e => e.1.entry e.2) ∈ freezeParts x frame share ∧
    (0x21900, (List.range 16).flatMap (fun i => entry (x.oper i)) ++ entry x.regs.lat0 ++ entry x.regs.lat1) ∈
      freezeParts x frame share ∧
    (∃ tags, (0x22D00, tags) ∈ freezeParts x frame share ∧ tags.length = 520 ∧
      (∀ r, r < 1024 → (tags.getD (r / 2) 0).toNat / 16 ^ (r % 2) % 16 = (x.row r).tag.code) ∧
      ∀ n, n < 16 → (tags.getD (512 + n / 2) 0).toNat / 16 ^ (n % 2) % 16 = (x.tileType n).code) ∧
    (freezeParts x frame share).map (·.1) = [0x200, 0x600, 0x1000, 0x2300, 0x6700, 0x10900, 0x21900, 0x22D00, 0x23100, 0x63100]) ∧
  (∀ (e : Pend) (seq n : Nat), seq < 2 ^ 64 → e.due < 32 → e.group < 4 → e.slot < 8 →
    let bs := e.entry seq
    let h := ofBytes (bs.take 16)
    bs.length = 272 ∧ bitsOf h 127 64 = seq ∧ bitsOf h 63 60 = e.dest.kind.1 ∧ bitsOf h 59 55 = e.due ∧
    bitsOf h 54 53 = e.group ∧ bitsOf h 52 50 = e.slot ∧ bitOf h 49 = e.latch ∧ bitsOf h 48 44 = e.ind.toNat ∧
    bitsOf h 43 40 = e.tag.code ∧ bitsOf h 39 12 = 0 ∧ bitsOf h 11 0 = e.dest.kind.2 % 4096 ∧
    ofBytes (bs.drop 16) = e.data % 2 ^ 2048 ∧
    [Dest.scalar n, .addr n, .pred n, .mask n, .row n, .oper n, .special n, .stq n].map (·.kind) =
      [(0, n), (1, n), (2, n), (3, n), (4, n), (5, n), (6, n), (7, n)]) ∧
  ((∀ (s t : State) (c : Nat) (g : Agent) (w : Who) (base : Word), s.saveFreeze c g w base = .ok t →
    let u := s.settle c
    let y := u.ctx c
    let x := y.declared
    let last := decide (y.trap.handler = true ∨ y.trap.stopped = true)
    (∀ i, x.s i = if i < 8 + y.bind.scalars then y.s i else 0) ∧
    (∀ r, x.row r = if r < y.bind.rows then y.row r else {}) ∧
    ∃ frame share n v l, (last = true → readMem u y.bind.who (y.saveAt 0x200) 1024 = .ok frame) ∧
      (last = false → frame = x.frame y.mode y.streams) ∧
      share = memGetAll u.mem (keysFrom (keyOf (spaceUnit y.bind.who.tile) y.bind.who.usBase) y.bind.scratch) ∧
      writeParts u g w base (freezeParts x frame share ++
        [(8, headerWords x c (if last = true then 3 else 2) n)]) = .ok v ∧
      openKeys u w base (openParts x) = .ok l ∧
      ∀ k, (∀ p ∈ l, k ∉ p.2) → memGet t.mem k = memGet v.mem k) ∧
  (∀ (s t : State) (c : Nat) (pc : Word) (g : Agent) (w : Who) (base : Word), s.saveYield c pc g w base = .ok t →
    let u := s.chargeSave c w base yieldParts
    let x := u.ctx c
    ∃ block v, writeParts u g w base [(0x100, block), (8, headerWords x c 1 152)] = .ok v ∧ t.mem = v.mem ∧
      block.length = 128 ∧ wordAt block 0 = x.regs.cursor.toNat ∧ wordAt block 1 = x.regs.argptr.toNat ∧
      wordAt block 2 = pc.toNat ∧ (∀ i, i < 8 → wordAt block (3 + i) = (x.s i).toNat) ∧
      wordAt block 11 < 2 ^ 32 ∧ (∀ i, i < 32 → bitOf (wordAt block 11) i = x.p i) ∧
      bitsOf (wordAt block 12) 47 0 = x.regs.enCount % 2 ^ 48 ∧ bitOf (wordAt block 12) 63 = x.regs.enSat ∧
      wordAt block 13 = x.regs.rngK.toNat ∧ wordAt block 14 + 2 ^ 64 * wordAt block 15 = x.regs.rngC.toNat) ∧
  (∀ (x : Ctx) (c grade n : Nat), c < 2 ^ 12 → x.bind.who.team < 2 ^ 16 → n < 2 ^ 64 → grade < 4 →
    let h := headerWords x c grade n
    h.length = 24 ∧ wordAt h 0 = 2 ^ 8 + grade ∧ wordAt h 1 = x.bind.who.team * 2 ^ 16 + c ∧ wordAt h 2 = n) ∧
  (∀ (s : State) (g : Agent) (w : Who) (base : Word), writeParts s g w base [] = .ok s) ∧
  (∀ (s : State) (g : Agent) (w : Who) (base : Word) (off : Nat) (bs : List Byte) (r : List (Nat × List Byte)),
    (∀ f, saveMem s g w (addrAdd base off) bs = .error f → writeParts s g w base ((off, bs) :: r) = .error f) ∧
    ∀ t, saveMem s g w (addrAdd base off) bs = .ok t →
      writeParts s g w base ((off, bs) :: r) = writeParts t g w base r) ∧
  ∀ (s : State) (g : Agent) (w : Who) (a : Word) (bs : List Byte),
    (∀ f, translate s w a bs.length .write = .error f → saveMem s g w a bs = .error f) ∧
    ∀ ks, translate s w a bs.length .write = .ok ks →
      (ks.any (keyBad s) = true → saveMem s g w a bs = .error ⟨0x11, a, 0⟩) ∧
      (ks.any (keyBad s) = false → ∃ t, saveMem s g w a bs = .ok t ∧ t.mem = memPutAll s.mem ks bs)) ∧
  (∀ (s : State) (sa : SReg) (aa : AReg) (grade : BitVec 2),
    let c := (s.rs sa).toNat
    let x := s.ctx c
    let a := s.ra aa
    let size := if grade = 0 then 0x180 else 0x63100 + x.bind.scratch
    let trap := fun (n : Nat) (w : Word) => s.takeTrap { origin := slotOrigin s.slot, cond := n, addr := w, slot := some s.slot }
    let runs := exec (.ctxsave sa aa grade) s
    s.cx.priv = true →
    (s.stream.saved = true → runs = .next (s.upStream fun t => { t with saved := false })) ∧
    (s.stream.saved = false →
      (2 ^ 12 ≤ c → runs = .next (trap 0x2B 0)) ∧
      (c < 2 ^ 12 →
        (c = s.me ∨ x.bound = false → runs = .next (trap 0x2B 0)) ∧
        (c ≠ s.me → x.bound = true →
          (a.toNat % 256 ≠ 0 → runs = .next (trap 0x2C a)) ∧
          (a.toNat % 256 = 0 → (∀ f, checkRange s s.who a size .write = .error f → runs = .next (trap 0x2C a)) ∧
            (checkRange s s.who a size .write = .ok () →
              (grade = 0 → (∀ bs, readMem s s.who a size .write = .ok bs → runs = .next (s.hold (.save c 0 a))) ∧
                ∀ f, readMem s s.who a size .write = .error f → runs = .next (trap 0x2C a)) ∧
              (grade = 2 → x.trap.stopped = false → runs = .next (trap 0x2B 0)) ∧
              (grade ≠ 0 → ¬(grade = 2 ∧ x.trap.stopped = false) →
                ((x.freeze && x.settled) = false → runs = .next (s.hold (.save c grade.toNat a))) ∧
                ((x.freeze && x.settled) = true →
                  (∀ f, s.saveFreeze c s.agent s.who a = .error f → runs = .next (trap 0x2C a)) ∧
                  ∀ t, s.saveFreeze c s.agent s.who a = .ok t → runs = .next (t.release c) ∧
                    ((t.release c).ctx c).bound = false))))))))

/-- CTXLOAD in privileged mode (R333) loads the image into a free slot that exists, with the grade that the image has
and the bind image it has (for a yield image the strand's that saved it, or a free one of the header's team, log 11); at
trap grade as TRAPRET resumes it; else it faults with "context identifier invalid", "save image invalid" (also for a
slot of another pool mode, log 47) or the fault of the read or load that fails. Which save an area holds is log 11's. A
restore of a yield save begins in lockstep after the YIELD with what the yield block holds: CURSOR, ARGPTR, s1-s7,
predicates, the energy count, charged for the restore's own three beats (R317, R330), and the random key and counter;
TVEC is the save-area header's, and everything else is as at first bind (R299, R310, R322, R330). It needs nothing but
the area and the record. A beat is charged by the space at its own address (R317, log 18). -/
def Obligations.ContextLoads : Prop :=
  (∀ (s : State) (sa : SReg) (aa : AReg) (grade : BitVec 2),
    let c := (s.rs sa).toNat
    let a := s.ra aa
    let free := (s.ctx c).bound = false ∧ c / 16 < 128 ∧ c % 16 < poolSlots (s.poolOf (c / 16))
    let trap := fun (n : Nat) (w : Word) => s.takeTrap { origin := slotOrigin s.slot, cond := n, addr := w, slot := some s.slot }
    let fails := fun e : MFault => s.takeTrap { origin := slotOrigin s.slot, cond := e.cond, addr := e.addr, info := word e.info, slot := some s.slot }
    let runs := exec (.ctxload sa aa grade) s
    let mode := s.poolOf (c / 16)
    s.cx.priv = true →
    (2 ^ 12 ≤ c ∨ ¬ free → runs = .next (trap 0x2B 0)) ∧
    (c < 2 ^ 12 → free → ∀ e, readMem s s.who a 32 = .error e → runs = .next (fails e)) ∧
    (c < 2 ^ 12 → free → ∀ h, readMem s s.who a 32 = .ok h →
      (bitsOf (wordAt h 1) 15 8 ≠ 1 ∨ wordAt h 1 % 4 ≠ grade.toNat + 1 → runs = .next (trap 0x2D a)) ∧
      (bitsOf (wordAt h 1) 15 8 = 1 → wordAt h 1 % 4 = grade.toNat + 1 →
        (grade = 0 → ∀ y, readMem s s.who (addrAdd a 0x100) 128 = .ok y →
          s.savedAt s.who c a h = .ok (some ((s.yieldAt h y).getD (s.unknownBind c h y))) ∧
          (s.unknownBind c h y).bind.who.team = bitsOf (wordAt h 2) 31 16 ∧ (s.unknownBind c h y).bind.pool = mode) ∧
        (∀ e, s.savedAt s.who c a h = .error e → runs = .next (fails e)) ∧
        (s.savedAt s.who c a h = .ok none → runs = .next (trap 0x2D a)) ∧
        ∀ old, s.savedAt s.who c a h = .ok (some old) →
          (old.bind.pool ≠ mode → runs = .next (trap 0x2D a)) ∧
          (old.bind.pool = mode →
            let b := { old.bind with who := { old.bind.who with
              ctx := c, tile := c / 16, usBase := c % 16 * shareSize mode, usSize := shareSize mode } }
            (∀ e, s.restoreTo c b a s.who old.regs.nver old.xchk = .error e →
              (e.cond = 0x2D → runs = .next (trap 0x2D a)) ∧ (e.cond ≠ 0x2D → runs = .next (fails e))) ∧
            ∀ t, s.restoreTo c b a s.who old.regs.nver old.xchk = .ok t →
                (grade ≠ 2 → runs = .next t) ∧
                (grade = 2 → ∀ e, readMem t t.who (addrAdd a 0x200) 1024 = .error e → runs = .next (fails e)) ∧
                (grade = 2 → ∀ f, readMem t t.who (addrAdd a 0x200) 1024 = .ok f → ∃ u, runs = .next u ∧
                  (u.ctx c).trap.handler = false ∧ (u.ctx c).trap.stopped = false ∧ u.mem = t.mem ∧
                  (u.ctx c).streams.map (·.pc) =
                    (List.range (bitsOf (wordAt f 21) 7 6 + 1)).map fun g => (t.ctx c).trap.tpc.getD g 0))))) ∧
  ((∀ (s : State) (c : Nat) (w : Who) (base : Word), c < 2048 →
    let beat := fun (u : State) (off : Nat) => u.chargeAt c w (addrAdd base off)
    s.chargeSave c w base yieldParts = beat (beat (beat s 0) 0x100) 0x140 ∧
    ∀ a k, translate s w a 1 .read = .ok [k] →
      let pj := fun i : Nat => Tab.get 0 s.weights (dieOf (c / 16) * 16 + i)
      let far := keySpace k = spaceHost ∨ spaceDieOf (keySpace k) ≠ dieOf (c / 16)
      let cost := (if keySpace k < 256 then pj 3 else if keySpace k < 320 then pj 4 else if far then 0 else pj 5) +
        (if far then pj 6 else 0)
      (s.chargeAt c w a).mem = s.mem ∧ (s.chargeAt c w a).weights = s.weights ∧
      ((s.chargeAt c w a).ctx c).regs.enCount = min ((s.ctx c).regs.enCount + cost) (2 ^ 48 - 1) ∧
      (∀ d, d ≠ c → (s.chargeAt c w a).ctx d = s.ctx d)) ∧
  ∀ (s : State) (c nver : Nat) (b : Bind) (base : Word) (w : Who) (xchk : Bool) (h y : List Byte),
    readMem s w base 32 = .ok h → wordAt h 1 % 4 = 1 → bitsOf (wordAt h 1) 15 8 = 1 →
    readMem s w (addrAdd base 0x100) 128 = .ok y → (∀ o, s.yieldAt h y = some o → o.bind.pool = b.pool) →
    ∃ t, s.restoreTo c b base w nver xchk = .ok t ∧
      let x := t.ctx c
      x.bound = true ∧ x.streams = [{ pc := word (wordAt y 2) }] ∧ x.regs.cursor = word (wordAt y 0) ∧
      x.regs.argptr = word (wordAt y 1) ∧ (∀ i, 0 < i → i < 8 → x.s i = word (wordAt y (3 + i))) ∧
      (∀ i, 8 ≤ i → x.s i = 0) ∧ x.regs.p = BitVec.ofNat 32 (wordAt y 11) ∧ x.regs.rngK = word (wordAt y 13) ∧
      x.regs.rngC = BitVec.ofNat 128 (wordAt y 14 + 2 ^ 64 * wordAt y 15) ∧
      (∃ u : State, u.weights = s.weights ∧ u.mem = (s.zeroShare c b.who).mem ∧ (u.ctx c).regs.enCount = wordAt y 12 % 2 ^ 48 ∧
        x.regs.enCount = ((u.chargeSave c w base yieldParts).ctx c).regs.enCount) ∧
      (bitOf (wordAt y 12) 63 = true → x.regs.enSat = true) ∧
      x.trap.tvec = word (bitsOf (wordAt h 0) 63 0 / 8 * 8 + wordAt h 0 % 2) ∧
      x.bind.who = b.who ∧ x.bind.save = b.save ∧ x.bind.priv = b.priv ∧
      x.regs.nver = nver ∧ x.xchk = xchk ∧ (∀ r, (x.row r).tag = .empty) ∧ x.pend = [] ∧ x.eng = {})

/-- A cadence queue releases one card at each release time: none there counts as a miss; outside the reserve as an
overrun; a queue without a period, or before its time, or switched out releases nothing (R309; switched out, log 36). A
queue switched out takes no card, and its tail writes go to the shadow; at switch-in the shadow is tested again and
becomes the tail, or sets the error bit; then it clears (R300, R355, R356). Cards that a tail takes in begin to wait
(R307). A descriptor with a reserved field that is not zero is refused (R9). -/
def Obligations.QueuesReleaseAndSwitch : Prop :=
  (∀ (s : State) (q : Nat) (j : JobQ), Tab.get ({} : JobQ) s.jobqs q = j →
    let d := j.desc.toNat
    let period := bitsOf d 223 192
    let at_ := bitsOf d 191 128 + j.released * period
    let slots := (s.ctxs.filter fun p => p.2.bound && p.2.bind.queue == q).length
    (period = 0 ∨ s.time < at_ → exec (.cadenceRelease q) s = .next s) ∧
    (period ≠ 0 → at_ ≤ s.time → ∃ t, exec (.cadenceRelease q) s = .next t ∧
      let k := Tab.get ({} : JobQ) t.jobqs q
      let e := k.desc.toNat
      k.released = j.released + 1 ∧ k.tail = j.tail ∧ k.head = j.head ∧ t.ctxs = s.ctxs ∧
      (bitOf d 100 = false → k.ready = j.ready ∧ k.desc = j.desc) ∧
      (bitOf d 100 = true → j.tail - j.head ≤ j.ready → k.ready = j.ready ∧
        bitsOf e 319 288 = (bitsOf d 319 288 + 1) % 2 ^ 32 ∧ bitsOf e 287 256 = bitsOf d 287 256) ∧
      (bitOf d 100 = true → j.ready < j.tail - j.head → k.ready = j.ready + 1 ∧ .release q ∈ t.told ∧
        bitsOf e 319 288 = bitsOf d 319 288 ∧
        (slots < bitsOf d 239 224 → bitsOf e 287 256 = bitsOf d 287 256) ∧
        (bitsOf d 239 224 ≤ slots → bitsOf e 287 256 = (bitsOf d 287 256 + 1) % 2 ^ 32)))) ∧
  (∀ (s : State) (q : Nat) (desc : BitVec 512) (j : JobQ), Tab.get ({} : JobQ) s.jobqs q = j →
    let clean := fun d : BitVec 512 => bitsOf d.toNat 103 101 = 0 ∧ bitsOf d.toNat 511 320 = 0
    (clean j.desc → ∃ t, exec (.queueSwitchOut q) s = .next t ∧
      let k := Tab.get ({} : JobQ) t.jobqs q
      bitOf k.desc.toNat 100 = false ∧ k.tail = j.tail ∧ k.head = j.head ∧ k.shadow = j.shadow ∧
      ∀ pos die, q < 256 → t.takeCard q die pos = none) ∧
    (¬ clean desc → ∃ t, exec (.queueSwitchIn q desc) s = .next t ∧ t.jobqs = s.jobqs ∧
      ∃ low, .reserved q low ∈ t.told) ∧
    (clean desc → ∃ t, exec (.queueSwitchIn q desc) s = .next t ∧
      let k := Tab.get ({} : JobQ) t.jobqs q
      bitOf k.desc.toNat 100 = true ∧ bitsOf k.desc.toNat 63 0 = bitsOf desc.toNat 63 0 ∧
      bitsOf k.desc.toNat 127 104 = bitsOf desc.toNat 127 104 ∧ bitsOf k.desc.toNat 319 256 = bitsOf j.desc.toNat 319 256 ∧
      bitsOf k.desc.toNat 511 320 = 0 ∧ k.head = j.head ∧
      (bitOf j.desc.toNat 100 = true ∨ j.shadow = none → k.tail = j.tail ∧ k.shadow = j.shadow ∧ k.error = j.error) ∧
      ∀ v, bitOf j.desc.toNat 100 = false → j.shadow = some v → k.shadow = none ∧
        let d := (v % 2 ^ 64 + 2 ^ 64 - j.tail % 2 ^ 64) % 2 ^ 64
        let room := 2 ^ bitsOf desc.toNat 107 104 - (j.tail - j.head)
        (d ≤ room → k.tail = j.tail + d ∧ k.error = j.error) ∧ (room < d → k.tail = j.tail ∧ k.error = true)) ∧
    ∀ v now, let d := (v + 2 ^ 64 - j.tail % 2 ^ 64) % 2 ^ 64
      let room := 2 ^ bitsOf j.desc.toNat 107 104 - (j.tail - j.head)
      let k := j.writeTail v now
      (room < d → k = { j with error := true }) ∧ (d = 0 → k = j) ∧
      (0 < d → d ≤ room → bitOf j.desc.toNat 100 = false → k = { j with shadow := some (j.tail + d) }) ∧
      (0 < d → d ≤ room → bitOf j.desc.toNat 100 = true → k = { j with tail := j.tail + d, since := k.since } ∧
        ∀ i, i < d → Tab.get 0 k.since (j.tail + i) = now))

/-- A waiting card below level 13 that has waited longer than the ageing period gains one level and waits anew, and no
other changes (R307). Of the cards that a slot could bind, one of the highest level is next, and among the queues of
that level the next after the one served last, round-robin (R307). A swapped-out context comes back before none of its
level or higher that was swapped out before it, but of its own swap group: the strands that share a team or a crew with
it, directly or through others (R308). Firmware writes no slot entry that would swap out or restore part of a group, or
out of turn (log 25). A quantum's end swaps out whole swap groups, each context at the end of its quantum, and never
part of a group; one team, or members of one crew, are of one group (R308). A card without records completes at
dispatch, binds nothing and resolves its future with 0 (R306). The static charge of a tile is divided evenly among its
resident contexts, the remainder to the lowest slot; counts saturate at 2^48 - 1 (R316, R317). No memory and no other
register changes. -/
def Obligations.AgeingEmptyCardsAndCharges : Prop :=
  ((∀ (s : State) (q : Nat) (j : JobQ), q < 256 → Tab.get ({} : JobQ) s.jobqs q = j →
    ∃ t, exec (.cardAgeing q) s = .next t ∧
      let k := Tab.get ({} : JobQ) t.jobqs q
      k = { j with ages := k.ages, since := k.since } ∧
      ∀ p, let waits := j.head ≤ p ∧ p < j.tail ∧ p ∉ j.void ∧ Tab.get 0 j.since p + s.agePeriod < s.ticks ∧
          bitsOf j.desc.toNat 111 108 + Tab.get 0 j.ages p < 13
        (waits → Tab.get 0 k.ages p = Tab.get 0 j.ages p + 1 ∧ Tab.get 0 k.since p = s.ticks) ∧
        (¬ waits → Tab.get 0 k.ages p = Tab.get 0 j.ages p ∧ Tab.get 0 k.since p = Tab.get 0 j.since p)) ∧
  (∀ (s : State) (die level : Nat) (l : LaunchQ), level < 16 → Tab.get ({} : LaunchQ) s.launch (die * 16 + level) = l →
    (l.cards.map (·.pos)).Nodup → ∃ t, exec (.cardAgeing (die * 1024 + 0x100 + level)) s = .next t ∧
      let k := Tab.get ({} : LaunchQ) t.launch (die * 16 + level)
      k = { l with ages := k.ages, since := k.since } ∧
      ∀ c ∈ l.cards, Tab.get 0 k.ages c.pos = Tab.get 0 l.ages c.pos +
        (if Tab.get 0 l.since c.pos + s.agePeriod < s.ticks ∧ level + Tab.get 0 l.ages c.pos < 13 then 1 else 0)) ∧
  (∀ (s : State) (c : Nat) (o : Offer), s.nextToBind c = some o →
    o ∈ s.offers (dieOf (c / 16)) ∧ bitsOf o.header 17 16 = s.poolOf (c / 16) ∧
    ∀ p ∈ s.offers (dieOf (c / 16)), bitsOf p.header 17 16 = s.poolOf (c / 16) → p.level ≤ o.level ∧
      let last := Tab.get 0 s.served o.level
      (p.level = o.level → last < p.queue → last < o.queue ∧ o.queue ≤ p.queue) ∧
      (p.level = o.level → p.queue ≤ last → last < o.queue ∨ o.queue ≤ p.queue)) ∧
  (∀ (s : State) (k : Nat) (x : Ctx), Tab.find? s.images k = some x →
    (s.restoresNext k = true ↔ ∀ p ∈ s.images, p.2.bound = true → p.1 < k → x.bind.level ≤ p.2.bind.level →
      s.grouped x p.2 = true)) ∧
  (∀ (s : State) (x y : Ctx), x ∈ s.strandsHeld → (s.grouped x y = true ↔
    ∃ (n : Nat) (via : Nat → Ctx), via 0 = x ∧ via n = y ∧ ∀ i, i < n → via (i + 1) ∈ s.strandsHeld ∧
      ((via i).bind.who.team = (via (i + 1)).bind.who.team ∨
        ∃ m ∈ (via i).eng.crews, ∃ k ∈ (via (i + 1)).eng.crews, k.crew = m.crew))) ∧
  (∀ (s : State) (c d : Nat) (y : Ctx) (r : BitVec 1024), bitOf r.toNat 637 = true →
    (bitsOf r.toNat 639 638 = 2 → (s.ctx c).bound = true → (d, y) ∈ s.bound → d ≠ c → s.grouped (s.ctx c) y = true →
      s.swapsOut d = false → s.writeSlot c r = s) ∧
    (bitsOf r.toNat 639 638 = 1 → ∀ i x, s.imageOf c r = some (i, x) →
      s.restoresNext i = false ∨ ((d, y) ∈ s.images ∧ d ≠ i ∧ y.bound = true ∧ s.grouped x y = true ∧ s.restores d = false) →
      s.writeSlot c r = s)) ∧
  ∀ (s : State) (cs : List Nat),
    ((∃ c d x y, (c, x) ∈ s.bound ∧ (d, y) ∈ s.bound ∧ c ∈ cs ∧ d ∉ cs ∧ (x.bind.who.team = y.bind.who.team ∨
        ∃ m ∈ x.eng.crews, ∃ n ∈ y.eng.crews, n.crew = m.crew)) →
      exec (.quantumExpiry cs) s = .next s) ∧
    ((∃ c x, (c, x) ∈ s.bound ∧ c ∈ cs ∧ s.ticks < x.since + s.quantum) → exec (.quantumExpiry cs) s = .next s) ∧
    ((∀ c d x y, (c, x) ∈ s.bound → (d, y) ∈ s.bound → c ∈ cs → d ∉ cs → swapsWith x y = false) →
      (∀ c x, (c, x) ∈ s.bound → c ∈ cs → x.since + s.quantum ≤ s.ticks) →
      ∃ t, exec (.quantumExpiry cs) s = .next t ∧ t.ctxs = s.ctxs ∧
        ∀ c x, (c, x) ∈ s.bound → c ∈ cs → ∃ rec, .swapOut c rec ∈ t.agenda ∧ bitsOf rec.toNat 639 638 = 2)) ∧
  (∀ (s t : State) (q : Nat) (r : Run), q < 256 →
    s.takeCard q 0 (Tab.get ({} : JobQ) s.jobqs q).front = some (t, r) → cardCount (cardNum r.card) = 0 → r.dealt = 0 →
    (∀ u ∈ t.runs, ¬(u.queue = r.queue ∧ u.pos = r.pos)) → r.strands = [] →
    ∃ u, exec (.cardCountZeroDispatch q) s = .next u ∧ u.runs = t.runs ∧
      (∀ c, (u.ctx c).bound = (t.ctx c).bound) ∧
      (Tab.get ({} : JobQ) u.jobqs q).head = (Tab.get ({} : JobQ) s.jobqs q).front + 1 ∧
      (cardFuture (cardNum r.card) = none → u.mem = t.mem) ∧
      ∀ a old ks, cardFuture (cardNum r.card) = some a → r.torn = false → readFuture t r.who a = .ok old → futState old < 2 →
        translate t r.who a 8 .atomic = .ok ks → u.mem = memPutAll t.mem ks (toBytes 8 (2 * 2 ^ 62))) ∧
  (∀ (s : State) (tile : Nat), tile < 128 → s.ctxs.Pairwise (fun p q => p.1 < q.1) →
    let here := s.bound.filter fun p => p.1 / 16 == tile
    let w := s.weight (dieOf tile) 8
    let r := here.length
    ∃ t, exec (.staticEnergyCharge tile) s = .next t ∧ sameMemory s t ∧
      (∀ c, c / 16 ≠ tile ∨ (s.ctx c).bound = false → t.ctx c = s.ctx c) ∧
      ∀ c x, (c, x) ∈ here →
        let n := x.regs.enCount + w / r + (if (∀ p ∈ here, c ≤ p.1) then w % r else 0)
        (t.ctx c).regs.enCount = min n (2 ^ 48 - 1) ∧ (2 ^ 48 - 1 < n → (t.ctx c).regs.enSat = true) ∧
        (t.ctx c).regs.s = x.regs.s ∧ (t.ctx c).trap = x.trap)

/-! Copies. -/

/-- A command that issues takes the next number of its queue and the last place in it, with its group, its numeric
version and the tables as they stand; its token register, unless s0, is pending; nothing else of the machine changes
(R88, R90, R91). CPY, TMOV, RWR, PREF and EVICT with a place in their queue, over ranges that pass R94, issue what R109,
R112 and R113 say; a queue of 64 holds them (R90). TMOV runs between scratchpads of one die at multiples of 256; RWR to
another tile's scratchpad, with a flag there; PREF goes from the capacity tier to the fast tier and EVICT back. Other
tiers and places are "copy operand invalid", but for the host aperture, whose rights fault (R358). A command with room
that passes its own operand checks faults at the first check of R94 that fails, and issues nothing: a token register
outside its group's partition (partition write, 0x06), then its ranges in order, source, destination and atomic target,
with the fault of the range; CPY into the aperture past 2^48 is out of bounds, and without a channel of the team an
owner fault (R358). A count of GATH or SCAT above 1,024 or with other bits set is "copy operand invalid", an index row
past the window or the context 0x12, one not INT32 a tag fault; CRED's crew may be invalid, or not one of the strand's.
-/
def Obligations.CopyCommandsIssue : Prop :=
  (∀ (s : State) (q : Queue) (k : Cmd), q.toNat < s.cx.eng.time.length →
    let n := (s.cx.timeline q.toNat).issued + 1
    let t := s.issueCmd q.toNat k
    t.cx.eng.queues = s.cx.eng.queues.set q.toNat (s.cx.eng.queues.getD q.toNat [] ++
      [{ k with num := n, group := s.grp, nver := s.cx.regs.nver, tables := s.mem }]) ∧
    t.cx.timeline q.toNat = { s.cx.timeline q.toNat with issued := n } ∧
    (∀ h, h ≠ q.toNat → t.cx.timeline h = s.cx.timeline h) ∧
    t.cx.board = s.cx.board ++ (if k.token = 0 then [] else [{ dest := .scalar k.token, issued := s.cycle }]) ∧
    t.cx.regs = s.cx.regs ∧ t.cx.trap = s.cx.trap ∧ t.cx.pend = s.cx.pend ∧ t.cx.streams = s.cx.streams ∧
    t.mem = s.mem ∧ t.status = s.status ∧ ∀ c, c ≠ s.me → t.ctx c = s.ctx c) ∧
  (∀ (s : State) (st : SReg) (ad as : AReg) (sn : SReg) (q : Queue) (cls : Sys2Proof.Class) (sf : SReg) (ch : Nat),
    let a := s.ra as
    let d := s.ra ad
    let n := (s.rs sn).toNat
    let cmd := fun kind : CopyKind => ({ kind := kind, token := st.toNat, cls := cls.toNat, dst := d, src := a, count := n } : Cmd)
    let issues := fun (o : Host.Outcome State Fault Refusal) (k : Cmd) => o = .next (s.issueCmd q.toNat k)
    let inTier := fun (x : Word) (k : Nat) => bufIdx x < 0xFE00 ∧
      (bufIdx x < s.who.btCount → ∃ e, readEntry s s.mem s.who x = .ok e ∧ bitsOf e 96 96 = k)
    let outside := fun (x : Word) (k : Nat) => scratchSpace s.tile (bufIdx x) ≠ none ∨
      bufIdx x < 0xFE00 ∧ bufIdx x < s.who.btCount ∧ ∃ e, readEntry s s.mem s.who x = .ok e ∧ bitsOf e 96 96 ≠ k
    let bad := s.takeTrap { origin := slotOrigin s.slot, cond := 0x16, slot := some s.slot }
    (Placed s q.toNat cls.toNat st.toNat → Usable s a n .read →
      (Reaching s d n ch → (sf ≠ 0 → Usable s (s.rs sf) 8 .atomic) →
        issues (exec (.cpy st ad as sn q cls sf) s)
          { cmd .cpy with future := if sf = 0 then none else some (s.rs sf), aux := word ch }) ∧
      (Usable s d n .write →
        ((∃ x y, scratchSpace s.tile (bufIdx d) = some x ∧ scratchSpace s.tile (bufIdx a) = some y ∧
            spaceDieOf x = spaceDieOf y) → bufOff d % 256 = 0 → bufOff a % 256 = 0 → n % 256 = 0 →
          (sf ≠ 0 → Usable s (s.rs sf) 8 .atomic) →
          issues (exec (.tmov st ad as sn q cls sf) s)
            { cmd .tmov with future := if sf = 0 then none else some (s.rs sf) }) ∧
        (0xFE00 ≤ bufIdx d → bufIdx d < 0xFE80 →
          (sf = 0 → issues (exec (.rwr st ad as sn q cls sf) s) (cmd .rwr)) ∧
          (sf ≠ 0 → (s.rs sf).toNat < 2 ^ 48 → Usable s (addrOf (bufIdx d) (s.rs sf).toNat) 8 .atomic →
            issues (exec (.rwr st ad as sn q cls sf) s) { cmd .rwr with aux := addrOf (bufIdx d) (s.rs sf).toNat })) ∧
        (Usable s (s.rs sf) 8 .atomic →
          (inTier a 1 → inTier d 0 → issues (exec (.pref st ad as sn q cls sf) s) { cmd .pref with aux := s.rs sf }) ∧
          (inTier a 0 → inTier d 1 → issues (exec (.evict st ad as sn q cls sf) s) { cmd .evict with aux := s.rs sf })))) ∧
    (Placed s q.toNat cls.toNat st.toNat →
      (outside a 1 ∨ outside d 0 → exec (.pref st ad as sn q cls sf) s = .next bad) ∧
      (outside a 0 ∨ outside d 1 → exec (.evict st ad as sn q cls sf) s = .next bad) ∧
      (bufOff d % 256 ≠ 0 ∨ bufOff a % 256 ≠ 0 ∨ n % 256 ≠ 0 ∨ scratchSpace s.tile (bufIdx d) = none ∧ bufIdx d ≠ 0xFE80 ∨
          scratchSpace s.tile (bufIdx a) = none ∧ bufIdx a ≠ 0xFE80 →
        exec (.tmov st ad as sn q cls sf) s = .next bad)) ∧
    (64 ≤ (s.cx.eng.queues.getD q.toNat []).length →
      ∀ i ∈ [Instr.cpy st ad as sn q cls sf, .tmov st ad as sn q cls sf, .rwr st ad as sn q cls sf,
          .pref st ad as sn q cls sf, .evict st ad as sn q cls sf], exec i s = .next (s.hold .full)) ∧
    (Placed s q.toNat cls.toNat st.toNat → bufIdx d < 0xFE00 ∨ 0xFE80 < bufIdx d →
      exec (.rwr st ad as sn q cls sf) s = .next bad)) ∧
  (∀ (s : State) (st : SReg) (ad as : AReg) (sn : SReg) (q : Queue) (cls : Sys2Proof.Class) (sf : SReg) (esz ty : BitVec 2),
    let trap := fun (f : MFault) => Host.Outcome.next (s.takeTrap
      { origin := slotOrigin s.slot, cond := f.cond, addr := f.addr, info := word f.info, slot := some s.slot })
    let a := s.ra as
    let d := s.ra ad
    let n := (s.rs sn).toNat
    let room := (s.cx.eng.queues.getD q.toNat []).length < 64 ∧ s.tileCommands s.tile < 512 ∧
      s.storesBefore (2 ^ cls.toNat) = false
    (room → st ≠ 0 → mayWrite s.cx s.grp [.scalar st.toNat] = false → exec (.cpy st ad as sn q cls sf) s = trap ⟨0x06, 0, 0⟩) ∧
    (Placed s q.toNat cls.toNat st.toNat →
      (∀ f, checkRange s s.who a n .read = .error f → exec (.cpy st ad as sn q cls sf) s = trap f) ∧
      (checkRange s s.who a n .read = .ok () →
        (bufIdx d ≠ 0xFE80 →
          (∀ f, checkRange s s.who d n .write = .error f → exec (.cpy st ad as sn q cls sf) s = trap f) ∧
          (checkRange s s.who d n .write = .ok () → sf ≠ 0 → ∀ f, checkRange s s.who (s.rs sf) 8 .atomic = .error f →
            exec (.cpy st ad as sn q cls sf) s = trap f)) ∧
        (bufIdx d = 0xFE80 →
          (2 ^ 48 < bufOff d + n → exec (.cpy st ad as sn q cls sf) s = trap ⟨0x0C, d, 0⟩) ∧
          (bufOff d + n ≤ 2 ^ 48 → s.apertureChannel s.who.team = none →
            exec (.cpy st ad as sn q cls sf) s = trap ⟨0x0A, d, 0⟩))) ∧
      (1024 < bitsOf n 31 16 ∨ bitsOf n 63 32 ≠ 0 ∨ bitsOf n 15 13 ≠ 0 ∨ bitsOf n 4 0 ≠ 0 →
        exec (.gath st ad as sn q cls esz) s = trap ⟨0x16, 0, 0⟩ ∧ exec (.scat st ad as sn q cls esz) s = trap ⟨0x16, 0, 0⟩) ∧
      (0 < bitsOf n 31 16 → bitsOf n 31 16 ≤ 1024 → bitsOf n 63 32 = 0 → bitsOf n 15 13 = 0 → bitsOf n 4 0 = 0 →
        let r := 256 * s.cx.regs.rowwin + bitsOf n 12 5
        (s.cx.rowCount ≤ r → exec (.gath st ad as sn q cls esz) s = trap ⟨0x12, 0, 0⟩ ∧
          exec (.scat st ad as sn q cls esz) s = trap ⟨0x12, 0, 0⟩) ∧
        (r < s.cx.rowCount → s.cx.pend.any (fun p => p.dest == .row r) = true →
          exec (.gath st ad as sn q cls esz) s = .next (s.hold .scoreboard)) ∧
        (r < s.cx.rowCount → s.cx.pend.any (fun p => p.dest == .row r) = false → (s.cx.row r).tag = .fp32 →
          exec (.gath st ad as sn q cls esz) s = trap ⟨0x13, 0, 0⟩)) ∧
      (2 ^ 24 < n → exec (.credSum st ad as sn q cls sf ty) s = trap ⟨0x16, 0, 0⟩) ∧
      (n ≤ 2 ^ 24 → (crewInvalid (s.rs sf) = true → exec (.credMax st ad as sn q cls sf ty) s = trap ⟨0x21, 0, 0⟩) ∧
        (crewInvalid (s.rs sf) = false → s.cx.member? (s.rs sf) = none →
          exec (.credMax st ad as sn q cls sf ty) s = trap ⟨0x22, 0, 0⟩))))

/-- CPYL reads its layout record from s_b to s_b+11 (R103). A reserved field that is not zero, then a rank, fill policy,
type, bank mode, bank width, pitch, dense side or plane that R107 refuses, faults; else, with ranges that pass, it
issues the copy to or from the tensor (R108, R110). GATH and SCAT take n ≤ 1,024 indices from rows of the row window, 64
lanes of INT32 a row, and issue over the bytes that the indices reach (R111), with no result of another bundle in flight
to these rows; CRED names a crew of which its strand is a member, and counts its CREDs there (R114, R115). KVGATH and
KVAPP with a table that passes R247 and operands in its ranges issue over the ranges of R250 and R254; operands out of
range are "copy operand invalid", 0x16. -/
def Obligations.IndexedCopiesIssue : Prop :=
  (∀ (s : State) (ad as : AReg) (sb : SReg) (q : Queue) (ch : Nat),
    let ws := (List.range 12).map fun i => s.cx.s (sb.toNat + i)
    let w0 := (ws.headD 0).toNat
    let l := Layout.of ws
    let sf := BitVec.ofNat 6 (bitsOf w0 45 40)
    let dense := if l.put = true then s.ra as else s.ra ad
    let (da, dn) := l.denseRange dense
    let tensor := if l.put = true then s.ra ad else s.ra as
    let (ta, tn) := match l.tensorRange with
      | none => (tensor, 0)
      | some (lo, n) => (addrAdd tensor lo, n)
    let word2 := (ws.getD 2 0).toNat
    let type := bitsOf w0 39 36
    let bank := bitsOf word2 39 38
    let pitch := bitsOf word2 31 0
    let inScratch := 0xFFFD ≤ bufIdx dense ∨ 0xFE00 ≤ bufIdx dense ∧ bufIdx dense < 0xFE80
    let refused := bitsOf w0 35 33 = 0 ∨ bitsOf w0 35 33 = 7 ∨ bitsOf w0 32 31 = 3 ∨ type = 0 ∨ 7 < type ∨ 2 ≤ bank ∨
      5 < bitsOf word2 34 32 ∨ pitch ≠ 0 ∧ pitch < bitsOf (ws.getD 3 0).toNat 63 48 * (Tag.ofCode type).laneBytes ∨
      bank ≠ 0 ∧ ¬ inScratch ∨ bitsOf w0 30 30 = 1 ∧ (bitsOf w0 29 29 = 1 ∨ type = 1 ∨ type = 2 ∨
        bufIdx (s.ra ad) ≠ 0xFFFF ∨ pitch ≠ 0 ∨ bank ≠ 0)
    (l.invalid type (bufIdx dense) (bufIdx (s.ra ad)) = true ↔ refused) ∧
    (bitsOf w0 29 29 = 1 ↔ l.put = true) ∧
    (Placed s q.toNat (bitsOf w0 49 46) (bitsOf w0 55 50) →
    (∀ lo, layoutReserved ws = some lo → exec (.cpyl ad as sb q) s =
      .next (s.takeTrap { origin := slotOrigin s.slot, cond := 0x05, addr := word sb.toNat, info := word lo, slot := some s.slot })) ∧
    (layoutReserved ws = none → refused →
      exec (.cpyl ad as sb q) s = .next (s.takeTrap { origin := slotOrigin s.slot, cond := 0x17, slot := some s.slot })) ∧
    (layoutReserved ws = none → ¬ refused →
      (sf ≠ 0 → Usable s (s.rs sf) 8 .atomic) →
      (if l.put = true then Usable s da dn .read ∧ Reaching s ta tn ch
       else Usable s ta tn .read ∧ Reaching s da dn ch) →
      exec (.cpyl ad as sb q) s = .next (s.issueCmd q.toNat
        { kind := .cpyl, token := bitsOf w0 55 50, cls := bitsOf w0 49 46, dst := s.ra ad, src := s.ra as, layout := ws,
          future := if sf = 0 then none else some (s.rs sf), aux := word ch })))) ∧
  ((∀ (s : State) (st : SReg) (ad as : AReg) (sn : SReg) (q : Queue) (cls : Sys2Proof.Class) (esz : BitVec 2) (is : List Nat),
    let v := (s.rs sn).toNat
    let n := bitsOf v 31 16
    let first := bitsOf v 12 5
    let e := 2 ^ esz.toNat
    let top := (is.filter (· != 0xFFFFFFFF)).foldl (fun m i => max m (i * e + e)) 0
    Placed s q.toNat cls.toNat st.toNat → n ≤ 1024 → bitsOf v 63 32 = 0 → bitsOf v 15 13 = 0 → bitsOf v 4 0 = 0 →
    is.length = n →
    (∀ j, j < n → let r := 256 * s.cx.regs.rowwin + (first + j / 64)
      first + j / 64 < 256 ∧ r < s.cx.rowCount ∧ (∀ p ∈ s.cx.pend, p.dest = .row r → p.issued = s.cycle ∧ p.group = s.grp) ∧
      (s.cx.row r).tag = .int32 ∧ is.getD j 0 = laneOf .int32 (s.cx.row r).data.toNat (j % 64)) →
    let cmd := fun kind : CopyKind => ({ kind := kind, token := st.toNat, cls := cls.toNat, dst := s.ra ad, src := s.ra as,
                                         count := n, esz := e, index := is } : Cmd)
    (Usable s (s.ra as) top .read → Usable s (s.ra ad) (n * e) .write →
      exec (.gath st ad as sn q cls esz) s = .next (s.issueCmd q.toNat (cmd .gath))) ∧
    (Usable s (s.ra as) (n * e) .read → Usable s (s.ra ad) top .write →
      exec (.scat st ad as sn q cls esz) s = .next (s.issueCmd q.toNat (cmd .scat)))) ∧
  ∀ (s : State) (st : SReg) (ad as : AReg) (sn : SReg) (q : Queue) (cls : Sys2Proof.Class) (sc : SReg) (ty : BitVec 2) (m : Member),
    let n := (s.rs sn).toNat
    let bytes := n * (if ty = 1 then 2 else 4)
    let issues := fun (o : Host.Outcome State Fault Refusal) (op : Nat) =>
      o = .next ((s.issueCmd q.toNat {
        kind := .cred, token := st.toNat, cls := cls.toNat, dst := s.ra ad, src := s.ra as,
        count := n, esz := ty.toNat, aux := m.crew, layout := [word op], index := [m.creds] }).up
        (·.onMember m.crew fun m => { m with creds := m.creds + 1 }))
    Placed s q.toNat cls.toNat st.toNat → n ≤ 2 ^ 24 → crewInvalid (s.rs sc) = false → s.cx.member? (s.rs sc) = some m →
    Usable s (s.ra as) bytes .read → Usable s (s.ra ad) bytes .write →
    issues (exec (.credSum st ad as sn q cls sc ty) s) 0 ∧ issues (exec (.credMax st ad as sn q cls sc ty) s) 1 ∧
    (ty = 0 → 3 ≤ n → issues (exec (.credSmerge st ad as sn q cls sc ty) s) 2) ∧
    (ty ≠ 0 ∨ n < 3 → exec (.credSmerge st ad as sn q cls sc ty) s =
      .next (s.takeTrap { origin := slotOrigin s.slot, cond := 0x16, slot := some s.slot }))) ∧
  (∀ (s : State) (st : SReg) (ad ab : AReg) (sp : SReg) (q : Queue) (cls : Sys2Proof.Class) (sl : SReg) (v mode : BitVec 1)
    (pol : BitVec 2) (t : BlockTable),
    let p := (s.rs sp).toNat
    let l := (s.rs sl).toNat
    let layer := bitsOf l 31 16
    let head := bitsOf l 15 0
    let n := bitsOf p 47 32
    let from_ := bitsOf p 31 0
    let bad := State.takeTrap s { origin := slotOrigin s.slot, cond := 0x16, slot := some s.slot }
    Placed s q.toNat cls.toNat st.toNat → bitsOf l 63 32 = 0 →
    (1024 < n → exec (.kvgath st ad ab sp q cls sl v pol) s = .next bad) ∧
    (bufOff (s.ra ad) % 64 ≠ 0 → exec (.kvapp st ab ad sp q cls sl mode) s = .next bad) ∧
    (readTable s (s.ra ab) 0x16 = .ok t → layer < t.layers → head < t.heads →
      (bitsOf p 63 48 = 0 → n ≤ 1024 → from_ + n ≤ 16 * t.perList → Usable s (s.ra ad) (257 * n) .write →
        exec (.kvgath st ad ab sp q cls sl v pol) s = .next (s.issueCmd q.toNat
          { kind := .kvgath, token := st.toNat, cls := cls.toNat, dst := s.ra ad, src := s.ra ab, count := n,
            esz := 4 * v.toNat + pol.toNat, aux := s.rs sl, index := [from_], layout := t.words })) ∧
      (p < 16 * t.perList → bitsOf p 63 32 = 0 → bufOff (s.ra ad) % 64 = 0 → Usable s (s.ra ad) 512 .read →
        Usable s (addrAdd t.at_ (64 + 4 * ((layer * t.heads + head) * t.perList + p / 16) : Nat)) 4 .atomic →
        Usable s t.free 8 .atomic →
        exec (.kvapp st ab ad sp q cls sl mode) s = .next (s.issueCmd q.toNat
          { kind := .kvapp, token := st.toNat, cls := cls.toNat, src := s.ra ad, dst := s.ra ab, count := 1,
            esz := mode.toNat, aux := s.rs sl, index := [p], layout := t.words }))))

/-- A beat of a plain copy, not to the aperture, moves at most 64 bytes, over no boundary of 64, from source to
destination and no other byte; a byte that the command has itself overwritten delivers its original value or the one now
there (R90, R109, log 8). Bytes that an uncorrectable error, in them or in the tables, keeps from being read leave the
destination, with status 0x01; a source that translates no more stops the command, and its trap waits (R86, R92, R97). A
context not bound, an empty queue and a stopped head take no step. GATH and SCAT move elements, in order, between the
place of their index and their place in the list; index 0xFFFFFFFF writes zeros in GATH and nothing in SCAT (R111). CPYL
(R108): an element has the coordinates of its digits, dimension 0 fastest, from the origin; inside the tensor it stands
at the strides; outside it is the fill, under policy 1 the nearest inside, or skipped. Its dense place is its run's
pitch and its place in the run, swizzled under bank mode 1. A plane-layout CPYL reads groups row by row of 32 elements,
64 runs a band, +0 outside the window and where skipped, and writes each in MPLANE's layout behind those before it
(R108, R204, R206). A copy whose bytes are moved completes: its token holds status, queue and number, its number
completes on the queue's timeline, its place is free (R89, R91, R109). RWR's flag, and PREF's and EVICT's barrier
object, gain 1 first (R112, R113). Its future is resolved with bits 47:0 of its number, or faulted with its status, and
a continuation's credit queued; one resolved before is left, with status 0x05; one that cannot be resolved is left, with
0x07 (R92, R109, R313). -/
def Obligations.CopiesMoveAndComplete : Prop :=
  (∀ (s : State) (c : Nat) (q : Queue) (k : Cmd) (r : List Cmd),
    let w := (s.ctx c).bind.who
    let n := beatSize k
    let a := addrAdd k.src k.pos
    let d := addrAdd k.dst k.pos
    (∀ (now j : Nat) (b : Byte), (Tab.find? k.orig j = none → k.source now j b = b) ∧
      ∀ v, Tab.find? k.orig j = some v → k.source now j b = v ∨ k.source now j b = b) ∧
    (Moving s c q.toNat k r → k.kind ∈ [.cpy, .tmov, .rwr, .pref, .evict] → k.pos < k.count → bufIdx k.dst ≠ 0xFE80 →
      0 < n ∧ n ≤ 64 ∧ k.pos + n ≤ k.count ∧ (bufOff k.src + k.pos) / 64 = (bufOff k.src + k.pos + n - 1) / 64 ∧
      (∀ ks kd, translateWith s k.tables w a n .read = .ok ks → ks.any (keyBad s) = false →
        translateWith s k.tables w d n .write = .ok kd → keysReady s kd = true →
        ∃ t bs, exec (.copyBeat c q) s = .next t ∧ wrote s t kd bs ∧
          bs = ks.map (fun j => k.source s.cycle j (memGet s.mem j)) ∧
          (t.ctx c).eng.queues = (s.ctx c).eng.queues.set q.toNat ({ k with
            pos := k.pos + n, ended := decide (k.count ≤ k.pos + n),
            orig := k.orig ++ kd.map fun j => (j, memGet s.mem j) } :: r) ∧
          (t.ctx c).regs.s = (s.ctx c).regs.s ∧ (t.ctx c).eng.time = (s.ctx c).eng.time) ∧
      (∀ kd, (∃ ks, translateWith s k.tables w a n .read = .ok ks ∧ ks.all (keyBad s) = true) ∨
          (∃ f, translateWith s k.tables w a n .read = .error f ∧ f.cond = 0x11) →
        translateWith s k.tables w d n .write = .ok kd → keysReady s kd = true →
        ∃ t h, exec (.copyBeat c q) s = .next t ∧ t.mem = s.mem ∧
          (t.ctx c).eng.queues = (s.ctx c).eng.queues.set q.toNat (h :: r) ∧
          h.pos = k.pos + n ∧ h.status = max k.status 1 ∧ h.stopped = false) ∧
      ∀ f, translateWith s k.tables w a n .read = .error f → f.cond ≠ 0x11 →
        ∃ t, exec (.copyBeat c q) s = .next t ∧ t.mem = s.mem ∧
          (t.ctx c).eng.queues = (s.ctx c).eng.queues.set q.toNat ({ k with
            stopped := true, trap := some { origin := 2, cond := f.cond, addr := f.addr, engine := true,
                                            info := word (q.toNat * 2 ^ 62 + k.num % 2 ^ 56) } } :: r)) ∧
    ((s.ctx c).bound = false ∨ (s.ctx c).eng.queues.getD q.toNat [] = [] → exec (.copyBeat c q) s = .next s) ∧
    ((s.ctx c).eng.queues.getD q.toNat [] = k :: r → k.stopped = true → exec (.copyBeat c q) s = .next s)) ∧
  (∀ (s : State) (c : Nat) (q : Queue) (k : Cmd) (r : List Cmd),
    Moving s c q.toNat k r → k.kind ∈ [.gath, .scat] → k.pos < k.count → k.sub < k.esz →
    let w := (s.ctx c).bind.who
    let i := k.index.getD k.pos 0
    let list := k.pos * k.esz + k.sub
    let there := i * k.esz + k.sub
    let a := addrAdd k.src (if k.kind = .gath then there else list : Nat)
    let d := addrAdd k.dst (if k.kind = .gath then list else there : Nat)
    let next := fun m : Nat => if k.esz ≤ k.sub + m then { k with pos := k.pos + 1, sub := 0, ended := decide (k.count ≤ k.pos + 1) }
      else { k with sub := k.sub + m }
    let moves := fun (m : Nat) (kd : List Nat) (bs : List Byte) => ∃ t, exec (.copyBeat c q) s = .next t ∧ wrote s t kd bs ∧
      (t.ctx c).eng.queues = (s.ctx c).eng.queues.set q.toNat (next m :: r)
    bufIdx d ≠ 0xFE80 →
    (i ≠ 0xFFFFFFFF → let m := min (k.esz - k.sub) (min (64 - bufOff a % 64) (64 - bufOff d % 64))
      ∀ ks kd, translateWith s k.tables w a m .read = .ok ks → ks.any (keyBad s) = false →
        translateWith s k.tables w d m .write = .ok kd → keysReady s kd = true → moves m kd (memGetAll s.mem ks)) ∧
    (i = 0xFFFFFFFF → k.kind = .gath → let m := min (k.esz - k.sub) (64 - bufOff d % 64)
      ∀ kd, translateWith s k.tables w d m .write = .ok kd → keysReady s kd = true → moves m kd (List.replicate m 0)) ∧
    (i = 0xFFFFFFFF → k.kind = .scat → k.sub = 0 → moves k.esz [] [])) ∧
  ((∀ (l : Layout) (e : Nat),
    let cs := (digits l.win e).zipWith (fun (j : Nat) (o : Int) => o + j) l.org
    let inside := ∀ p ∈ cs.zip l.size, 0 ≤ p.1 ∧ p.1 < p.2
    let near := (cs.zip l.size).map fun p => max 0 (min p.1 ((p.2 : Int) - 1))
    let at_ := fun xs : List Int => Cell.at_ ((xs.zipWith (· * ·) l.stride).sum)
    (inside → l.cell e = at_ cs) ∧
    (¬ inside → l.put = true ∨ l.policy = 2 → l.cell e = .skip) ∧
    (¬ inside → l.put = false → l.policy = 0 → l.cell e = .fill) ∧
    (¬ inside → l.put = false → l.policy = 1 → 0 ∈ l.size → l.cell e = .fill) ∧
    (¬ inside → l.put = false → l.policy = 1 → 0 ∉ l.size → l.cell e = at_ near)) ∧
  (∀ (ws : List Nat) (e : Nat), 0 ∉ ws → (digits ws e).length = ws.length ∧ (∀ p ∈ (digits ws e).zip ws, p.1 < p.2) ∧
    ((digits ws e).zip ws).foldr (fun p n => p.1 + p.2 * n) 0 = e % ws.prod) ∧
  (∀ (l : Layout) (a : Word) (e : Nat),
    let p := addrAdd a (e / l.w0 * l.step + e % l.w0 * l.eb : Nat)
    (l.bank ≠ 1 → l.dense a e = p) ∧
    (l.bank = 1 → (l.dense a e).toNat % 64 = p.toNat % 64 ∧ (l.dense a e).toNat / 2048 = p.toNat / 2048 ∧
      bitsOf (l.dense a e).toNat 10 6 = bitsOf p.toNat 10 6 ^^^ (e / l.w0 / 2 ^ l.shift % 2 ^ l.width % 32))) ∧
  ∀ (s : State) (c : Nat) (q : Queue) (k : Cmd) (r : List Cmd),
    let l := Layout.of k.layout
    let n := l.runs * l.w0
    let w := (s.ctx c).bind.who
    let next := fun m : Nat => if l.eb ≤ k.sub + m then { k with pos := k.pos + 1, sub := 0, ended := decide (n ≤ k.pos + 1) }
      else { k with sub := k.sub + m }
    let moves := fun (m : Nat) (kd : List Nat) (bs : List Byte) => ∃ t, exec (.copyBeat c q) s = .next t ∧ wrote s t kd bs ∧
      (t.ctx c).eng.queues = (s.ctx c).eng.queues.set q.toNat (next m :: r)
    let copies := fun src dst : Word =>
      let a := addrAdd src k.sub
      let d := addrAdd dst k.sub
      let m := min (l.eb - k.sub) (min (64 - bufOff a % 64) (64 - bufOff d % 64))
      ∀ ks kd, translateWith s k.tables w a m .read = .ok ks → ks.any (keyBad s) = false → bufIdx d ≠ 0xFE80 →
        translateWith s k.tables w d m .write = .ok kd → keysReady s kd = true → moves m kd (memGetAll s.mem ks)
    Moving s c q.toNat k r → k.kind = .cpyl → l.plane = false → k.pos < n → k.sub < l.eb → bufIdx k.dst ≠ 0xFE80 →
    (l.cell k.pos = .skip → k.sub = 0 → moves l.eb [] []) ∧
    (l.cell k.pos = .fill →
      let d := addrAdd (l.dense k.dst k.pos) k.sub
      let m := min (l.eb - k.sub) (64 - bufOff d % 64)
      ∀ kd, bufIdx d ≠ 0xFE80 → translateWith s k.tables w d m .write = .ok kd → keysReady s kd = true →
        moves m kd (((toBytes l.eb l.fill).drop k.sub).take m)) ∧
    ∀ off, l.cell k.pos = .at_ off →
      (l.put = false → copies (addrAdd k.src (l.eb * off)) (l.dense k.dst k.pos)) ∧
      (l.put = true → copies (l.dense k.src k.pos) (addrAdd k.dst (l.eb * off)))) ∧
  ((∀ (k : Cmd) (l : Layout),
    let per := (l.w0 + 31) / 32
    let i := k.data.length / l.eb
    let run := 64 * (k.pos / per) + i / 32
    let j := 32 * (k.pos % per) + i % 32
    (run < l.runs → j < l.w0 → planeCell k l = l.cell (run * l.w0 + j)) ∧ (l.runs ≤ run ∨ l.w0 ≤ j → planeCell k l = .skip)) ∧
  ∀ (s : State) (c : Nat) (q : Queue) (k : Cmd) (r : List Cmd),
    let l := Layout.of k.layout
    let w := (s.ctx c).bind.who
    let set := fun h : Cmd => (s.ctx c).eng.queues.set q.toNat (h :: r)
    let reads := fun bs : List Byte => ∃ t, exec (.copyBeat c q) s = .next t ∧ t.mem = s.mem ∧
      (t.ctx c).eng.queues = set { k with data := k.data ++ bs }
    Moving s c q.toNat k r → k.kind = .cpyl → l.plane = true → k.pos < (l.runs + 63) / 64 * ((l.w0 + 31) / 32) →
    bufIdx k.dst ≠ 0xFE80 →
    (k.data.length < 2048 * l.eb →
      (planeCell k l = .skip → reads (List.replicate l.eb 0)) ∧
      (planeCell k l = .fill → reads (toBytes l.eb l.fill)) ∧
      ∀ off, planeCell k l = .at_ off →
        let o := k.data.length % l.eb
        let a := addrAdd k.src (l.eb * off + o)
        let m := min (l.eb - o) (64 - bufOff a % 64)
        ∀ ks, translateWith s k.tables w a m .read = .ok ks → ks.any (keyBad s) = false → reads (memGetAll s.mem ks)) ∧
    (k.data.length = 2048 * l.eb →
      let bytes := groupBytes l.tag ((List.range 2048).map fun i => splitElem l.tag (ofBytes ((k.data.drop (l.eb * i)).take l.eb)) 0) []
      let d := addrAdd (addrAdd k.dst (k.pos * bytes.length : Nat)) k.sub
      let m := min (bytes.length - k.sub) (64 - bufOff d % 64)
      ∀ kd, bufIdx d ≠ 0xFE80 → translateWith s k.tables w d m .write = .ok kd → keysReady s kd = true →
        ∃ t, exec (.copyBeat c q) s = .next t ∧ wrote s t kd ((bytes.drop k.sub).take m) ∧
          (t.ctx c).eng.queues = set (if bytes.length ≤ k.sub + m then { k with pos := k.pos + 1, sub := 0, data := [] }
            else { k with sub := k.sub + m }))) ∧
  (∀ (s : State) (c : Nat) (q : Queue) (k : Cmd) (r : List Cmd),
    (s.ctx c).bound = true → (s.ctx c).eng.queues.getD q.toNat [] = k :: r → k.stopped = false → k.ended = true →
    k.sent = 0 →
    let done := fun t : State =>
      (t.ctx c).eng.queues = (s.ctx c).eng.queues.set q.toNat r ∧
      (t.ctx c).eng.time = (s.ctx c).eng.time.set q.toNat (((s.ctx c).timeline q.toNat).complete k.num) ∧
      (t.ctx c).board = (s.ctx c).board.map (fun b => if b.dest = .scalar k.token ∧ b.value = none then
        { b with value := some (k.status % 64 * 2 ^ 58 + q.toNat * 2 ^ 56 + k.num % 2 ^ 56), due := s.cycle } else b) ∧
      (t.ctx c).regs = (s.ctx c).regs
    (k.kind ∈ [.cpy, .cpyl, .tmov] ∧ k.future = none ∨ k.kind = .rwr ∧ k.aux = 0 →
      ∃ t, exec (.copyBeat c q) s = .next t ∧ t.mem = s.mem ∧ done t) ∧
    (k.kind = .rwr ∧ k.aux ≠ 0 ∧ k.unbound = false ∨ k.kind = .pref ∨ k.kind = .evict →
      ∀ ks, translateWith s k.tables (s.ctx c).bind.who k.aux 8 .atomic = .ok ks → ks.any (keyBad s) = false →
        ∃ t, exec (.copyBeat c q) s = .next t ∧ wrote s t ks (toBytes 8 (ofBytes (memGetAll s.mem ks) + 1)) ∧ done t) ∧
    ∀ x : Timeline, k.num = x.completed + 1 → x.ahead = [] →
      (x.complete k.num).completed = k.num ∧ (x.complete k.num).ahead = [] ∧ (x.complete k.num).issued = x.issued) ∧
  (∀ (s : State) (c : Nat) (q : Queue) (k : Cmd) (r : List Cmd) (a : Word),
    (s.ctx c).bound = true → (s.ctx c).eng.queues.getD q.toNat [] = k :: r → k.stopped = false → k.ended = true →
    k.sent = 0 → k.kind ∈ [.cpy, .cpyl, .tmov] → k.future = some a →
    let ends := fun (t : State) (status : Nat) => exec (.copyBeat c q) s = .next t ∧
      (t.ctx c).eng.queues = (s.ctx c).eng.queues.set q.toNat r ∧
      (t.ctx c).board = (s.ctx c).board.map (fun b => if b.dest = .scalar k.token ∧ b.value = none then
        { b with value := some (status % 64 * 2 ^ 58 + q.toNat * 2 ^ 56 + k.num % 2 ^ 56), due := s.cycle } else b)
    let lost := ∃ t, ends t (if k.status = 0 then 7 else k.status) ∧ t.mem = s.mem ∧ t.credits = s.credits
    (∀ f, translateWith s k.tables (s.ctx c).bind.who a 8 .atomic = .error f → lost) ∧
    ∀ ks, translateWith s k.tables (s.ctx c).bind.who a 8 .atomic = .ok ks →
      let old := ofBytes (memGetAll s.mem ks)
      (ks.any (keyBad s) = true → lost) ∧
      (ks.any (keyBad s) = false → (futReserved old).isSome = true → lost) ∧
      (ks.any (keyBad s) = false → futReserved old = none →
        (2 ≤ old / 2 ^ 62 → ∃ t, ends t (if k.status = 0 then 5 else k.status) ∧ t.mem = s.mem ∧ t.credits = s.credits) ∧
        (old / 2 ^ 62 < 2 → ∃ t, ends t k.status ∧
          wrote s t ks (toBytes 8 (if k.status = 0 then 2 * 2 ^ 62 + k.num % 2 ^ 48 else 3 * 2 ^ 62 + k.status % 64)) ∧
          (old / 2 ^ 62 = 0 → t.credits = s.credits) ∧
          (old / 2 ^ 62 = 1 → ∃ p, t.credits = s.credits ++ [p]))))

/-- A gather's positions, in order (R251): a missing page is 0xC0, an identifier at or above the count or an invalid
header 0xA0, a word or header in error 0x90, an absent row 0x80; a final row, and under policy 0 a provisional one, goes
to its place with its state; policy 2 skips a provisional row, 0x81, policy 1 waits for it. Then the state bytes follow
the rows, and the status is R252's. A gather that waits for a final row looks at its slot again, in the page found
before the wait: a final slot's 256 bytes go to its position with its state byte, and the gather goes on; a slot that is
not final leaves it waiting; one that is unwritten again, or a header that cannot be read, gives its state byte alone
(R251). The append unit's action (R255) on an existing page, with one reference, makes its writes together: the row
pair, the slot's state and the fill count of an unwritten slot in order. An empty identifier pops a new page for slot 0,
and a page with more references is copied to a popped one, status 0x18. A slot out of order ends with status 0x16, a
final slot or a provisional one rewritten provisionally with 0x15, an invalid page with 0x17, an empty free list with
0x14 (R256), and KVAPP's command carries the status. A pop that an action made stands, whatever ends it. -/
def Obligations.PagedCopiesRun : Prop :=
  ((∀ (s : State) (c : Nat) (q : Queue) (k : Cmd) (r : List Cmd), Moving s c q.toNat k r → k.kind = .kvgath → k.stage = 0 →
    let w := (s.ctx c).bind.who
    let t := BlockTable.ofWords k.layout
    let set := fun h : Cmd => (s.ctx c).eng.queues.set q.toNat (h :: r)
    (k.pos < k.count →
      let p := k.index.headD 0 + k.pos
      let at_ := t.idAt (bitsOf k.aux.toNat 31 16) (bitsOf k.aux.toNat 15 0) (p / 16)
      let marks := fun v : Nat => ∃ u, exec (.copyBeat c q) s = .next u ∧ u.mem = s.mem ∧
        (u.ctx c).eng.queues = set { k with pos := k.pos + 1, map := k.map ++ [v] }
      (readId s k.tables w at_ = .ok none → marks 0x90) ∧
      ∀ id, readId s k.tables w at_ = .ok (some id) →
        (id = 0xFFFFFFFF → marks 0xC0) ∧
        (id ≠ 0xFFFFFFFF → t.pages ≤ id → marks 0xA0) ∧
        (id ≠ 0xFFFFFFFF → id < t.pages →
          (readUnit s k.tables w (t.hdrAt id) 64 = .ok none → marks 0x90) ∧
          ∀ hb, readUnit s k.tables w (t.hdrAt id) 64 = .ok (some hb) →
            let state := slotState (ofBytes hb) (p % 16)
            let policy := k.esz % 4
            (pageInvalid (ofBytes hb) = true → marks 0xA0) ∧
            (pageInvalid (ofBytes hb) = false →
              (state = 0 → marks 0x80) ∧ (state = 1 → policy = 2 → marks 0x81) ∧
              (state = 1 → policy = 1 → ∃ u, exec (.copyBeat c q) s = .next u ∧ u.mem = s.mem ∧
                (u.ctx c).eng.queues = set { k with stage := 1, page := id }) ∧
              (state = 2 ∨ state = 1 ∧ policy = 0 →
                let row := addrAdd (t.rowAt id (p % 16)) (if bitOf k.esz 2 = true then 256 else 0)
                ∀ ks kd, translateWith s k.tables w row 256 .read = .ok ks → bufIdx k.dst ≠ 0xFE80 →
                  translateWith s k.tables w (addrAdd k.dst (256 * k.pos : Nat)) 256 .write = .ok kd → keysReady s kd = true →
                  (ks.any (keyBad s) = false → ∃ u, exec (.copyBeat c q) s = .next u ∧ wrote s u kd (memGetAll s.mem ks) ∧
                    (u.ctx c).eng.queues = set { k with pos := k.pos + 1, map := k.map ++ [state] }) ∧
                  (ks.all (keyBad s) = true → ∃ u h, exec (.copyBeat c q) s = .next u ∧ u.mem = s.mem ∧
                    (u.ctx c).eng.queues = set h ∧ h.pos = k.pos + 1 ∧ h.map = k.map ++ [state + 0x90]))))) ∧
    (k.count ≤ k.pos → 0 < k.count → k.sub < k.map.length →
      let d := addrAdd (addrAdd k.dst (256 * k.count : Nat)) k.sub
      let m := min (k.map.length - k.sub) (64 - bufOff d % 64)
      ∀ kd, bufIdx d ≠ 0xFE80 → translateWith s k.tables w d m .write = .ok kd → keysReady s kd = true →
        ∃ u, exec (.copyBeat c q) s = .next u ∧ wrote s u kd (((k.map.drop k.sub).take m).map (BitVec.ofNat 8)) ∧
          (u.ctx c).eng.queues = set (if k.map.length ≤ k.sub + m
            then { k with sub := 0, status := gatherStatus k.status k.map, ended := true } else { k with sub := k.sub + m }))) ∧
  ∀ (met : Nat) (map : List Nat), let v := gatherStatus met map
    ((∃ b ∈ map, bitOf b 4 = true) → v = 1) ∧
    ((∀ b ∈ map, bitOf b 4 = false) →
      let missing := ∃ b ∈ map, bitOf b 7 = true ∨ bitOf b 5 = true
      ((∃ b ∈ map, bitOf b 5 = true) → v = max met 0x17) ∧
      ((∀ b ∈ map, bitOf b 5 = false) →
        (missing → 1 ∈ map → v = max met 0x13) ∧ (missing → 1 ∉ map → v = max met 0x12) ∧
        (¬ missing → 1 ∈ map → v = max met 0x11) ∧ (¬ missing → 1 ∉ map → v = met)))) ∧
  (∀ (s : State) (c : Nat) (q : Queue) (k : Cmd) (r : List Cmd),
    Moving s c q.toNat k r → k.kind = .kvgath → k.stage = 1 → k.pos < k.count → bufIdx k.dst ≠ 0xFE80 →
    let w := (s.ctx c).bind.who
    let t := BlockTable.ofWords k.layout
    let p := k.index.headD 0 + k.pos
    let row := addrAdd (t.rowAt k.page (p % 16)) (if bitOf k.esz 2 = true then 256 else 0)
    let marks := fun v : Nat => ∃ u, exec (.kvgathSlotWake c q) s = .next u ∧ u.mem = s.mem ∧
      (u.ctx c).eng.queues = (s.ctx c).eng.queues.set q.toNat
        ({ k with pos := k.pos + 1, stage := 0, map := k.map ++ [v] } :: r)
    (readUnit s k.tables w (t.hdrAt k.page) 64 = .ok none → marks 0x90) ∧
    ∀ hb, readUnit s k.tables w (t.hdrAt k.page) 64 = .ok (some hb) →
      (slotState (ofBytes hb) (p % 16) = 0 → marks 0x80) ∧
      (slotState (ofBytes hb) (p % 16) = 2 → ∀ ks kd, translateWith s k.tables w row 256 .read = .ok ks →
        ks.any (keyBad s) = false → translateWith s k.tables w (addrAdd k.dst (256 * k.pos : Nat)) 256 .write = .ok kd →
        keysReady s kd = true →
        ∃ u, exec (.kvgathSlotWake c q) s = .next u ∧ wrote s u kd (memGetAll s.mem ks) ∧
          (u.ctx c).eng.queues = (s.ctx c).eng.queues.set q.toNat
            ({ k with pos := k.pos + 1, stage := 0, map := k.map ++ [2] } :: r)) ∧
      (slotState (ofBytes hb) (p % 16) = 1 → k.esz % 4 = 1 ∨ k.esz % 4 = 3 →
        ∃ u, exec (.kvgathSlotWake c q) s = .next u ∧ u.mem = s.mem ∧ (u.ctx c).eng.queues.getD q.toNat [] = k :: r)) ∧
  ((∀ (s : State) (g : Agent) (ts : List Host.Cell) (w : Who) (t : BlockTable) (a : Append) (ib hb : List Byte),
    let slot := a.pos % 16
    let ida := t.idAt a.layer a.head (a.pos / 16)
    let id := ofBytes ib
    let h := ofBytes hb
    let mark := if a.final = true then 2 else 1
    let state := addrAdd (t.hdrAt id) 8
    let states := toBytes 4 (setBits (bitsOf h 95 64) (2 * slot + 1) (2 * slot) mark)
    let row := (addrAdd t.data (8192 * id + 512 * slot : Nat), a.rows)
    let ends := fun v : Nat => appendAct s g ts w t a = .error (.status s v)
    readUnit s ts w ida 4 .atomic = .ok (some ib) →
    (id = 0xFFFFFFFF → slot ≠ 0 → ends 0x16) ∧
    (∀ cb, readUnit s ts w t.free 8 .atomic = .ok (some cb) →
      (ofBytes cb = 0 → allocPage s g ts w t = .error (.status s 0x14)) ∧
      ∀ pb u, ofBytes cb ≠ 0 → readUnit s ts w (addrAdd t.free (8 + 4 * (ofBytes cb - 1) : Nat)) 4 = .ok (some pb) →
        writeUnit s g ts w [(t.free, toBytes 8 (ofBytes cb - 1))] = .ok u →
        allocPage s g ts w t = if ofBytes pb < t.pages then .ok (u, ofBytes pb) else .error (.status u 0x17)) ∧
    (id = 0xFFFFFFFF → slot = 0 →
      (∀ e, allocPage s g ts w t = .error e → appendAct s g ts w t a = .error e) ∧
      ∀ u n v, allocPage s g ts w t = .ok (u, n) →
        writeUnit (u.renewId ts w ida n) g ts w [(t.rowAt n 0, a.rows), (ida, toBytes 4 n),
          (t.hdrAt n, toBytes 64 (1 + 2 ^ 32 + mark * 2 ^ 64))] = .ok v → appendAct s g ts w t a = .ok (v, 0)) ∧
    (id ≠ 0xFFFFFFFF → t.pages ≤ id → ends 0x17) ∧
    (id ≠ 0xFFFFFFFF → id < t.pages → readUnit s ts w (t.hdrAt id) 64 = .ok (some hb) →
      (pageInvalid h = true → ends 0x17) ∧
      (pageInvalid h = false →
        (slotState h slot = 0 → slot ≠ pageFill h → ends 0x16) ∧
        (slotState h slot = 2 → ends 0x15) ∧ (slotState h slot = 1 → a.final = false → ends 0x15) ∧
        (slotState h slot = 0 → slot = pageFill h → pageRefs h = 1 → ∀ u,
          writeUnit s g ts w [row, (state, states), (addrAdd (t.hdrAt id) 4, toBytes 4 (slot + 1))] = .ok u →
          appendAct s g ts w t a = .ok (u, 0)) ∧
        (slotState h slot = 0 → slot = pageFill h → 2 ≤ pageRefs h →
          (∀ e, allocPage s g ts w t = .error e → appendAct s g ts w t a = .error e) ∧
          ∀ u n ob v, allocPage s g ts w t = .ok (u, n) →
            readUnit u ts w (t.rowAt id 0) (512 * slot) = .ok (some ob) →
            writeUnit (u.renewId ts w ida n) g ts w [(t.rowAt n slot, a.rows), (t.rowAt n 0, ob), (ida, toBytes 4 n),
              (t.hdrAt id, toBytes 4 (pageRefs h - 1)), (t.hdrAt n, toBytes 64 (1 + (slot + 1) * 2 ^ 32 +
                setBits (bitsOf h 95 64 % 2 ^ (2 * slot)) (2 * slot + 1) (2 * slot) mark * 2 ^ 64))] = .ok v →
            appendAct s g ts w t a = .ok (v, 0x18)) ∧
        (slotState h slot = 1 → a.final = true → ∀ u,
          writeUnit s g ts w [row, (state, states)] = .ok u → appendAct s g ts w t a = .ok (u, 0))))) ∧
  ∀ (s : State) (c : Nat) (q : Queue) (k : Cmd) (r : List Cmd) (ks : List Nat), Moving s c q.toNat k r →
    k.kind = .kvapp → translateWith s k.tables (s.ctx c).bind.who k.src 512 .read = .ok ks → ks.any (keyBad s) = false →
    let act := appendAct s (appendAgent c k.group) k.tables (s.ctx c).bind.who (BlockTable.ofWords k.layout)
      { layer := bitsOf k.aux.toNat 31 16, head := bitsOf k.aux.toNat 15 0, pos := k.index.headD 0,
        final := bitOf k.esz 0, rows := memGetAll s.mem ks }
    (∀ u v, act = .ok (u, v) → ∃ t, exec (.appendAction c q) s = .next t ∧ t.mem = u.mem ∧
      ∃ y ∈ (t.ctx c).eng.queues.getD q.toNat [], y = { k with status := v, ended := true }) ∧
    (∀ u v, act = .error (.status u v) → ∃ t, exec (.appendAction c q) s = .next t ∧ t.mem = u.mem ∧
      ∃ y ∈ (t.ctx c).eng.queues.getD q.toNat [], y = { k with status := v, ended := true }) ∧
    ∀ u f, act = .error (.fault u f) → exec (.appendAction c q) s = .next (u.setHead c q.toNat (k.stop q.toNat f)))

/-- A round of a crew completes when every member still counted has contributed whole, or a device of it is lost; its
outcome goes to its members and it is gone (R114). Status 4 for a lost device, 3 where a member left, 2 where the
contributions disagree, in their numeric version too (log 30, the model's), and no data then; else the reduction in
ascending rank, of which an INT32 SUM wraps and an INT32 MAX is the greatest (R115). CRED makes its contribution, once
those before it of its context on the crew are made, with the rank of its member, and then waits; its result goes to its
destination in beats (R90, R114). A contribution joins the oldest round that counts its rank and lacks its contribution,
or opens the next, of the crew's members then (log 29, the model's). The reductions of a round (R115, R147), whose
contributions agree, in ascending rank: SUM of FP32 rounds every sum, of BF16 sums in FP32 and rounds once at the end;
MAX gives the larger, +0 above -0, and the default NaN where any is a NaN; SMERGE folds partials, each with the factors
of R115 on the difference rounded to FP32 first (log 30, the model's), 1.0 for the partial of the greater m. -/
def Obligations.RoundsComplete : Prop :=
  ((∀ (s : State) (crew : Word) (c : Crew) (r : Round), s.crew? crew = some c →
    c.rounds.find? (fun r => r.ready || s.roundDead r) = some r →
    let lost := s.roundDead r
    let o := Round.outcome { r with dead := lost }
    exec (.credRoundCompletion crew) s = .next (r.members.foldl (fun u m => u.tellRound crew m.2 o.1 o.2)
      (s.setCrew { c with rounds := c.rounds.filter (·.index != r.index) })) ∧
    (lost = true ↔ r.dead = true ∨ ∃ m ∈ r.members, 2 ^ 64 ≤ m.2 ∧ s.peer? (memberDevice m.2) = none) ∧
    (lost = true → o = (4, [])) ∧
    (lost = false → ∀ m ∈ r.members, ∃ k ∈ r.contribs, k.rank = m.1 ∧ k.count * credBytes k.ty ≤ k.data.length) ∧
    (lost = false → r.left = true → o.1 = 3) ∧
    (lost = false → ∀ k ∈ r.contribs, ∀ l ∈ r.contribs, k.op ≠ l.op ∨ k.ty ≠ l.ty ∨ k.count ≠ l.count ∨ k.nver ≠ l.nver →
      o.2 = [] ∧ (r.left = false → o.1 = 2)) ∧
    (lost = false → r.left = false → (∀ k ∈ r.contribs, ∀ l ∈ r.contribs,
      k.op = l.op ∧ k.ty = l.ty ∧ k.count = l.count ∧ k.nver = l.nver) → o = (0, reduceRound (byRank r.contribs)))) ∧
  (∀ (s : State) (crew : Word), (∀ c, s.crew? crew = some c → c.rounds.find? (fun r => r.ready || s.roundDead r) = none) →
    exec (.credRoundCompletion crew) s = .next s) ∧
  (∀ ks : List Contrib, (byRank ks).Pairwise (fun k l => k.rank ≤ l.rank) ∧ (byRank ks).Perm ks) ∧
  ∀ (n : Nat) (x : Nat) (xs : List Nat), (∀ y ∈ x :: xs, y < 2 ^ 32) →
    sumElem n 2 (x :: xs) = (x :: xs).sum % 2 ^ 32 ∧
    (∀ y ∈ x :: xs, signed y 32 ≤ signed (xs.foldl (maxElem 2) x) 32) ∧ xs.foldl (maxElem 2) x ∈ x :: xs) ∧
  ((∀ (s : State) (c : Nat) (q : Queue) (k : Cmd) (r : List Cmd), Moving s c q.toNat k r → k.kind = .cred →
    let set := fun h : Cmd => (s.ctx c).eng.queues.set q.toNat (h :: r)
    (k.stage = 0 → (∀ l ∈ (s.ctx c).eng.queues, ∀ h ∈ l, h.kind = .cred → h.aux = k.aux → h.stage = 0 →
        k.index.headD 0 ≤ h.index.headD 0) →
      ((s.ctx c).member? k.aux = none → ∃ t, exec (.copyBeat c q) s = .next t ∧ t.mem = s.mem ∧
        (t.ctx c).eng.queues = set { k with status := max k.status 3, ended := true }) ∧
      ∀ m, (s.ctx c).member? k.aux = some m →
        (k.data.length < k.count * credBytes k.esz →
          let a := addrAdd k.src k.data.length
          let n := min (k.count * credBytes k.esz - k.data.length) (64 - bufOff a % 64)
          ∀ ks, translateWith s k.tables (s.ctx c).bind.who a n .read = .ok ks → ks.any (keyBad s) = false →
            ∃ t, exec (.copyBeat c q) s = .next t ∧ t.mem = s.mem ∧
              (t.ctx c).eng.queues = set { k with data := k.data ++ memGetAll s.mem ks }) ∧
        (k.count * credBytes k.esz ≤ k.data.length → s.crewLocal k.aux = true → ∀ w, s.crew? k.aux = some w →
          ∃ t, exec (.copyBeat c q) s = .next t ∧ t.mem = s.mem ∧
            (t.ctx c).eng.queues = set { k with stage := 1, data := [] } ∧
            t.crew? k.aux = some (w.contribute { rank := m.rank, op := (k.layout.headD 0).toNat, ty := k.esz, nver := k.nver,
                                                 count := k.count, data := k.data }))) ∧
    (k.stage = 1 → s.crewLocal k.aux = true → exec (.copyBeat c q) s = .next s) ∧
    (k.stage = 2 → k.pos < k.data.length → k.map = [] →
      let d := addrAdd k.dst k.pos
      let n := min (k.data.length - k.pos) (64 - (bufOff k.dst + k.pos) % 64)
      ∀ kd, bufIdx d ≠ 0xFE80 → translateWith s k.tables (s.ctx c).bind.who d n .write = .ok kd → keysReady s kd = true →
        ∃ t, exec (.copyBeat c q) s = .next t ∧ wrote s t kd ((k.data.drop k.pos).take n) ∧
          (t.ctx c).eng.queues = set { k with pos := k.pos + n, ended := decide (k.data.length ≤ k.pos + n) })) ∧
  ∀ (c : Crew) (k : Contrib), (∀ r ∈ c.rounds, ∀ d ∈ r.contribs, d.rank = k.rank → d.whole = true) →
    (c.rounds.map (·.index)).Nodup →
    let takes := fun r : Round => (∃ m ∈ r.members, m.1 = k.rank) ∧ ∀ d ∈ r.contribs, d.rank ≠ k.rank
    ((∀ r ∈ c.rounds, ¬ takes r) → c.contribute k = { c with
      rounds := c.rounds ++ [{ index := c.begun + 1, members := c.members, contribs := [k] }], begun := c.begun + 1 }) ∧
    ∀ us r vs, c.rounds = us ++ r :: vs → (∀ u ∈ us, ¬ takes u) → takes r →
      c.contribute k = { c with rounds := us ++ { r with contribs := r.contribs ++ [k] } :: vs }) ∧
  ((∀ (c : Contrib) (r : List Contrib) (i : Nat), i < c.count →
    let eb := credBytes c.ty
    let code := fun (d : Contrib) (j : Nat) => flushSource c.nver (credTag c.ty) (ofBytes ((d.data.drop (eb * j)).take eb))
    let out := fun j : Nat => ofBytes (((reduceRound (c :: r)).drop (eb * j)).take eb)
    (c.op = 0 → out i = sumElem c.nver c.ty ((c :: r).map (code · i)) % 2 ^ (8 * eb)) ∧
    (c.op = 1 → out i = (c :: r).foldl (fun m d => maxElem c.ty m (code d i)) (code c i) % 2 ^ (8 * eb)) ∧
    (c.op = 2 → reduceRound (c :: r) = (r.foldl (fun p d => mergePartials c.nver p ((List.range c.count).map (code d)))
      ((List.range c.count).map (code c))).flatMap (toBytes eb))) ∧
  (∀ (n x : Nat) (xs : List Nat),
    let add := fun a b : Nat => (roundFloat false n ((decodeFloat .fp32 (flushSource n .fp32 a)).add
      (decodeFloat .fp32 (flushSource n .fp32 b))).1 .fp32).1
    sumElem n 0 (x :: xs) = xs.foldl add x ∧
    sumElem n 1 (x :: xs) = (roundFloat false n (decodeFloat .fp32 (xs.foldl (fun a b => add a (b * 2 ^ 16)) (x * 2 ^ 16))) .bf16).1) ∧
  (∀ (ty a b : Nat), ty < 2 →
    let t := credTag ty
    let x := decodeFloat t a
    let y := decodeFloat t b
    (x.isNan = true ∨ y.isNan = true → maxElem ty a b = t.nan) ∧
    (x.isNan = false → y.isNan = false →
      (x.lt y = true → maxElem ty a b = b) ∧ (y.lt x = true → maxElem ty a b = a)) ∧
    maxElem 0 (2 ^ 31) 0 = 0 ∧ maxElem 0 0 (2 ^ 31) = 0 ∧ maxElem 1 (2 ^ 15) 0 = 0 ∧ maxElem 1 0 (2 ^ 15) = 0) ∧
  ∀ (n : Nat) (a b : Nat) (as bs : List Nat),
    let value := fun v : Nat => decodeFloat .fp32 (flushSource n .fp32 v)
    let round := fun v : Val => (roundFloat false n v .fp32).1
    let mx := maxElem 0 a b
    let factor := fun m : Nat => if (decodeFloat .fp32 m).eqv (decodeFloat .fp32 mx) = true then 0x3F800000
      else (exp2Round n (value (round ((value m).add (value mx).negate).1)) .fp32).1
    let times := fun f v : Nat => round ((value f).mul (value v)).1
    mergePartials n (a :: as) (b :: bs) = mx :: as.zipWith (fun v u => round ((value (times (factor a) v)).add
      (value (times (factor b) u))).1) bs)

/-! Vectors. -/

/-- VMASK.AND, OR and ANDN combine masks bit by bit, COUNT counts ones, and FROM sets the lanes of a row that are not
zero (a float's sign apart); latency 2 (R43, R198). Row index i of a level-00 field reaches the row that the window and
the rotation give it: indices outside the rotating region keep their place, those in it turn by RRB and stay in it, no
two on one row; rows beyond the slot's share are not there, and the pool mode gives the share (R157, R158, R23). The
sources of a vector syllable (R55, R129, R149, R161, R162): a context row, an operand-file entry, a latch, the row
popped from the load-data queue, the random row, whose counter moves by 16, or a constant; the load-data queue without a
row, or with a matrix operation that takes its rows, holds the bundle, and so does a random row that is not yet filled:
one is filled a cycle (R46, R149), up to a depth that log 4 leaves free. What sources deliver: the constant table's
fixed entries; a scalar's low bits and a constant in the lane format, rounded under NVER 3 or clamped (R161, R162);
random rows of Philox4x32-10 blocks (R148). A DEFERRED source traps with its own cause, an EMPTY one is 0x14, another
element size 0x15, another format 0x13 (R133, R183). -/
def Obligations.MasksAndVectorSources : Prop :=
  (∀ (s : State) (mk mi mj : BitVec 3) (d x : VField) (r : Row) (t : State),
    let a := s.cx.m mi.toNat
    let b := s.cx.m mj.toNat
    (∃ v, exec (.vmaskAnd mk mi mj) s = .next (s.expose 2 (.mask mk.toNat) v) ∧
      ∀ i, i < 256 → v.testBit i = (a.getLsbD i && b.getLsbD i)) ∧
    (∃ v, exec (.vmaskOr mk mi mj) s = .next (s.expose 2 (.mask mk.toNat) v) ∧
      ∀ i, i < 256 → v.testBit i = (a.getLsbD i || b.getLsbD i)) ∧
    (∃ v, exec (.vmaskAndn mk mi mj) s = .next (s.expose 2 (.mask mk.toNat) v) ∧
      ∀ i, i < 256 → v.testBit i = (a.getLsbD i && !b.getLsbD i)) ∧
    exec (.vmaskCount d mi) s = .next (s.expose 2 (.scalar (d.index - 0x40)) ((List.range 256).countP a.getLsbD)) ∧
    (readSource s x = .ok (.row r, t) → r.tag ≠ .empty → r.tag ≠ .deferred →
      ∃ v, exec (.vmaskFrom mk x) s = .next (t.expose 2 (.mask mk.toNat) v) ∧
        ∀ i, v.testBit i = decide (i < r.tag.lanes ∧
          (if r.tag.isFloat = true then laneOf r.tag r.data.toNat i % r.tag.signBit else laneOf r.tag r.data.toNat i) ≠ 0))) ∧
  (∀ (x : Ctx) (i : Nat),
    let b := x.regs.rotBase
    let n := x.regs.rotSize
    let w := 256 * x.regs.rowwin
    (x.bind.pool = 0 → x.rowCount = 64 ∧ x.tileCount = 1) ∧ (x.bind.pool = 1 → x.rowCount = 256 ∧ x.tileCount = 4) ∧
    (x.bind.pool = 2 → x.rowCount = 1024 ∧ x.tileCount = 16) ∧
    (∀ r, rowOf x i = some r → r < x.rowCount ∧ w ≤ r) ∧
    (n = 0 ∨ i < b ∨ b + n ≤ i → rowOf x i = if w + i < x.rowCount then some (w + i) else none) ∧
    (b ≤ i → i < b + n → ∃ j, b ≤ j ∧ j < b + n ∧ (∃ k, i + x.regs.rrb = j + n * k) ∧
      rowOf x i = if w + j < x.rowCount then some (w + j) else none) ∧
    ∀ k r, rowOf x i = some r → rowOf x k = some r → i = k) ∧
  (∀ (s : State) (f : VField),
    (f.level = 0 → ∀ r, rowOf s.cx f.index = some r → readSource s f = .ok (.row (s.cx.row r), s)) ∧
    (f.level = 0 → rowOf s.cx f.index = none → readSource s f = .error (s.fault 0x12)) ∧
    (f.level = 1 → readSource s f = .ok (.row (s.cx.oper f.index), s)) ∧
    (f.level = 2 → readSource s f = .ok (.row (if f.index = 0 then s.cx.regs.lat0 else s.cx.regs.lat1), s)) ∧
    (2 < f.level → f.isLdq = true →
      s.cx.eng.ops.all (fun o => !(decide (o.kind = .mgo) && bitOf (o.nest.fields.getD 13 0).toNat 1)) = true →
      (s.cx.eng.ldRows = [] → readSource s f = .error (.hold .ldq)) ∧
      ∀ r rest, s.cx.eng.ldRows = r :: rest →
        readSource s f = .ok (.row r, s.up fun x => { x with eng := { x.eng with ldRows := rest } })) ∧
    (2 < f.level → f.isLdq = true →
      (∃ o ∈ s.cx.eng.ops, o.kind = .mgo ∧ bitOf (o.nest.fields.getD 13 0).toNat 1 = true) →
      readSource s f = .error (.hold .owned)) ∧
    (2 < f.level → f.isLdq = false → f.isRnd = false → f.isScalar = false →
      readSource s f = .ok (.const (constEntry s.cx (f.index - 0x80)), s)) ∧
    (2 < f.level → f.isLdq = false → f.isRnd = true →
      let n := s.cx.rnd.rows + (s.cycle - s.cx.rnd.upto)
      (n = 0 → readSource s f = .error (.hold .rnd)) ∧
      (0 < n → readSource s f = .ok (.bits (philoxRow s.cx.regs.rngC s.cx.regs.rngK),
        s.up fun x => { x with rnd := ⟨min (n - 1) (Config.rndDepth + 5), s.cycle⟩, regs := { x.regs with rngC := x.regs.rngC + 16 } }))) ∧
    (2 < f.level → f.isLdq = false → f.isRnd = false → f.isScalar = true →
      readSource s f = .ok (.scalar (s.cx.s (f.index - 0x40)), s))) ∧
  ((∀ x : Ctx, (List.range 32).map (constEntry x) =
      [0x00000000, 0x3F800000, 0xBF800000, 0x40000000, 0x3F000000, 0xBF000000, 0x40400000, 0x40800000, 0x3E800000,
       0x41000000, 0x3E000000, 0x41800000, 0x3FC00000, 0x41200000, 0x3DCCCCCD, 0xC0000000, 0x3F317218, 0x3FB8AA3B,
       0x40490FDB, 0x3F3504F3, 0x3FB504F3, 0x7F800000, 0xFF800000, 0x7F7FFFFF, 0xFF7FFFFF, 0x00800000, 0x7FC00000,
       0x43E00000, 0x47600000, 0x477FE000, 0x40C00000, 0x40E00000] ∧
    ∀ i, i < 32 → (decodeFloat .fp32 (constEntry x (32 + i))).eqv (Val.ofInt i) = true) ∧
  (∀ (t : Tag) (un : Bool) (w : Word) (c i : Nat), i < t.lanes →
    ((Src.scalar w).lanes t un).getD i 0 = w.toNat % 2 ^ t.laneBits ∧
    (t.isFloat = true → ((Src.const c).lanes t un).getD i 0 = (roundFmt 3 (decodeFloat .fp32 c) t).1) ∧
    (t.isInt = true →
      let lane := ((Src.const c).lanes t un).getD i 0
      let lo : Int := if un = true then 0 else -(2 ^ (t.laneBits - 1) : Nat)
      let hi : Int := if un = true then (2 ^ t.laneBits - 1 : Nat) else (2 ^ (t.laneBits - 1) - 1 : Nat)
      match decodeFloat .fp32 c with
      | .nan | .zero _ => lane = 0
      | .inf neg => lane = wrapBits (if neg = true then lo else hi) t.laneBits
      | .fin neg mag exp st =>
        lane = wrapBits (max lo (min hi (signInt neg (roundMag false mag exp st 0).1))) t.laneBits)) ∧
  (∀ (c : BitVec 128) (k : Word) (i : Nat), i < 16 →
    (philoxRow c k).toNat / 2 ^ (128 * i) % 2 ^ 128 = philox (c + BitVec.ofNat 128 i) k) ∧
  (∀ (n x0 x1 x2 x3 k0 k1 : Nat), philoxRounds (n + 1) (x0, x1, x2, x3) k0 k1 =
    philoxRounds n ((0xCD9E8D57 * x2 / 2 ^ 32) ^^^ x1 ^^^ k0, 0xCD9E8D57 * x2 % 2 ^ 32,
      (0xD2511F53 * x0 / 2 ^ 32) ^^^ x3 ^^^ k1, 0xD2511F53 * x0 % 2 ^ 32) ((k0 + 0x9E3779B9) % 2 ^ 32)
      ((k1 + 0xBB67AE85) % 2 ^ 32)) ∧
  (∀ (c : BitVec 128) (k : Word), ∃ x0 x1 x2 x3, philox c k = x0 + 2 ^ 32 * x1 + 2 ^ 64 * x2 + 2 ^ 96 * x3 ∧
    philoxRounds 10 ((c.extractLsb' 0 32).toNat, (c.extractLsb' 32 32).toNat, (c.extractLsb' 64 32).toNat,
      (c.extractLsb' 96 32).toNat) (k.extractLsb' 0 32).toNat (k.extractLsb' 32 32).toNat = (x0, x1, x2, x3)) ∧
  ∀ (s t : State) (d x y : VField) (m mk : BitVec 3) (lane : BitVec 8) (tag : BitVec 4) (r : Row) (f : Tag),
    readSource s x = .ok (.row r, t) →
    let trap := fun c : Nat => Host.Outcome.next (s.takeTrap { origin := slotOrigin s.slot, cond := c, slot := some s.slot })
    let deferred := Host.Outcome.next (s.takeTrap
      { origin := r.data.toNat / 2 ^ 64 % 512 / 64, cond := r.data.toNat / 2 ^ 64 % 512 % 64, addr := word r.data.toNat,
        deferred := true })
    let any := [Instr.vmaskFrom mk x, .vext d x lane, .vtag d x m tag, .vcvt d x y m tag]
    let lanes := [Instr.vbcast d x m lane, .vins d x y m lane, .vredAdd d x m, .vredMax d x m, .vredMin d x m, .vredAnd d x m,
      .vredOr d x m, .vscanAdd d x m, .vscanMax d x m, .vscanMin d x m, .vscanAnd d x m, .vscanOr d x m]
    (r.tag = .deferred → ∀ i ∈ any, exec i s = deferred) ∧ (r.tag = .empty → ∀ i ∈ any, exec i s = trap 0x14) ∧
    (opFormat t.cx d [.row r] .fp32 = f → f ≠ .nq4 → f ≠ .nq4s →
      (r.tag = .deferred → ∀ i ∈ lanes, exec i s = deferred) ∧ (r.tag = .empty → ∀ i ∈ lanes, exec i s = trap 0x14) ∧
      (r.tag ≠ .deferred → r.tag ≠ .empty → f ≠ .deferred → f ≠ .empty → r.tag ≠ .nq4 → r.tag ≠ .nq4s →
        (r.tag.laneBytes ≠ f.laneBytes → ∀ i ∈ lanes, exec i s = trap 0x15) ∧
        (r.tag.laneBytes = f.laneBytes → r.tag ≠ f → ∀ i ∈ lanes, exec i s = trap 0x13))) ∧
    (opFormat t.cx d [.row r] .fp32 = .nq4 → ∀ i ∈ lanes.drop 2, exec i s = trap 0x13))

/-- VMOV and a VCH of three PASS units deliver the bits and the tag of a row, any tag but that a DEFERRED row may not go
to the store-data queue (R130, R186, R200); VTAG changes the tag (R199). A scalar, constant or random source is moved in
F: the tile type of a row destination, else FP32, or INT32 in the integer classes (R181, R186, R200). VBCAST, VINS,
VEXT, VPERM and VSHUF place lanes (R196, R197, R201): one lane everywhere, one lane replaced, one lane to a scalar,
lanes by index modulo the lane count, and the patterns interleave low and high, even, odd, slide and reverse. F is the
tile type of a row destination, else the first source's tag (R181). -/
def Obligations.RowsAndLanesMove : Prop :=
  ((∀ (s t : State) (d x y z : VField) (m : BitVec 3) (tag : BitVec 4) (cc : BitVec 2) (r : Row),
    readSource s x = .ok (.row r, t) → Takes t d →
    let mask := s.cx.m m.toNat
    (¬(r.tag = .deferred ∧ d.isStq = true) →
      (∃ u, exec (.vmov d x m) s = .next u ∧ Gives t u 2 d mask r.tag r.data.toNat 0) ∧
      ∃ u, exec (.vch cc 0 0 0 d x y z m) s = .next u ∧ Gives t u 8 d mask r.tag r.data.toNat 0) ∧
    (r.tag = .deferred → d.isStq = true → ∀ i ∈ [Instr.vmov d x m, .vch cc 0 0 0 d x y z m], exec i s = .next (s.takeTrap
      { origin := r.data.toNat / 2 ^ 64 % 512 / 64, cond := r.data.toNat / 2 ^ 64 % 512 % 64, addr := word r.data.toNat,
        deferred := true })) ∧
    (r.tag ≠ .deferred → r.tag ≠ .empty →
      ∃ u, exec (.vtag d x m tag) s = .next u ∧ Gives t u 2 d mask (Tag.ofCode tag.toNat) r.data.toNat 0) ∧
    (r.tag = .empty → exec (.vtag d x m tag) s = .next (s.takeTrap { origin := slotOrigin s.slot, cond := 0x14, slot := some s.slot }))) ∧
  ∀ (s t : State) (d x y z : VField) (m : BitVec 3) (cc : BitVec 2) (v : Src),
    readSource s x = .ok (v, t) → v.tag? = none → Takes t d →
    let gives := fun (i : Instr) (n : Nat) (other : Tag) (un : Bool) =>
      let f := if d.level = 0 then ((rowOf s.cx d.index).map fun r => s.cx.tileType (r / 64)).getD other else other
      ∃ u data, exec i s = .next u ∧ Gives t u n d (s.cx.m m.toNat) f data 0 ∧
        ∀ l, l < f.lanes → laneOf f data l = (v.lanes f un).getD l 0 % 2 ^ f.laneBits
    gives (.vmov d x m) 2 .fp32 false ∧
    gives (.vch cc 0 0 0 d x y z m) 8 (if cc = 0 then .fp32 else .int32) (cc == 2)) ∧
  (∀ (s t u : State) (d x y : VField) (m : BitVec 3) (lane : BitVec 8) (n : BitVec 6) (v w : Src) (f : Tag),
    let mask := s.cx.m m.toNat
    let a := fun i => (v.lanes f false).getD i 0
    let b := fun i => (w.lanes f false).getD i 0
    let gives := fun (from_ : State) (o : Host.Outcome State Fault Refusal) (lat : Nat) (g : Nat → Nat) =>
      Takes from_ d → ∃ q data, o = .next q ∧ Gives from_ q lat d mask f data 0 ∧
        ∀ i, i < f.lanes → laneOf f data i = g i % 2 ^ f.laneBits
    readSource s x = .ok (v, t) →
    (opFormat t.cx d [v] .fp32 = f → laneCheck t v f = .ok () →
      gives t (exec (.vbcast d x m lane) s) 2 (fun _ => a (lane.toNat % f.lanes)) ∧
      gives t (exec (.vins d x y m lane) s) 2
        (fun i => if i = lane.toNat % f.lanes then (t.cx.s (y.index - 0x40)).toNat else a i) ∧
      gives t (exec (.vshuf d x y m 5 n) s) 4 (fun i => a (f.lanes - 1 - i))) ∧
    (∀ r, v = .row r → r.tag ≠ .empty → r.tag ≠ .deferred → exec (.vext d x lane) s =
      .next (t.expose 4 (.scalar (d.index - 0x40)) (laneOf r.tag r.data.toNat (lane.toNat % r.tag.lanes)))) ∧
    (readSource t y = .ok (w, u) → opFormat u.cx d [v, w] .fp32 = f → laneCheck u v f = .ok () →
      (tagPresent u w = .ok () → gives u (exec (.vperm d x y m) s) 4 (fun i => a (b i % f.lanes))) ∧
      (laneCheck u w f = .ok () →
        gives u (exec (.vshuf d x y m 0 n) s) 4 (fun i => if i % 2 = 0 then a (i / 2) else b (i / 2)) ∧
        gives u (exec (.vshuf d x y m 1 n) s) 4
          (fun i => if i % 2 = 0 then a (f.lanes / 2 + i / 2) else b (f.lanes / 2 + i / 2)) ∧
        gives u (exec (.vshuf d x y m 2 n) s) 4
          (fun i => if 2 * i < f.lanes then a (2 * i) else b (2 * i - f.lanes)) ∧
        gives u (exec (.vshuf d x y m 3 n) s) 4
          (fun i => if 2 * i + 1 < f.lanes then a (2 * i + 1) else b (2 * i + 1 - f.lanes)) ∧
        gives u (exec (.vshuf d x y m 4 n) s) 4
          (fun i => if i + n.toNat < f.lanes then a (i + n.toNat) else b (i + n.toNat - f.lanes)))))

/-- A chain of units over the lanes of its sources (R185): x through unit a with y, then unit b with z, then unit c with
y, each result rounded, under the tag F; indications of enabled lanes only. The integer units wrap or saturate as R188
says. A class and an F that do not agree fault with "format tag mismatch" (R183). The float units (R187): sums and
products of the exact values, rounded once; MIN and MAX with -0 below +0; compares and bit operations; the NaN of F
where a computing unit meets a NaN; under NVER 1 subnormal inputs read as zeros, for PASS too (R147). RCP and RSQRT have
the 12-bit table values of R190, EXP2 and LOG2 the values of R189 where those are powers of 2 or integers, RCPN and RSQN
one exact step (R191). VCVT of one row to one row of the same lane size, unscaled (R193, R194): each element converted
and rounded once, in order, latency 6; a non-zero y without NQ4 is an illegal encoding. An INT32 result clamps the
nearest integer. VCVT over whole rows (R193, R194): as many source rows as a target element is smaller, as many
destination rows as it is larger, NQ4 counting half a byte; element j comes from element j, an NQ4 code under scale byte
j / 32 of y; the latch takes the last row. NQ4 with INT or NQ4, and NQ4S, are format mismatches, a latch of several rows
and a tile type of another element size width mismatches, and a scale row that is none a format mismatch. -/
def Obligations.ChainsAndConversions : Prop :=
  ((∀ (s t : State) (cc : BitVec 2) (a b c : BitVec 5) (d x y z : VField) (m : BitVec 3) (v w q : Src) (f : Tag),
    ¬(a = 0 ∧ b = 0 ∧ c = 0) →
    readSources s ([x] ++ (if vchReadsY a c = true then [y] else []) ++ (if vchReadsZ b = true then [z] else [])) =
      .ok ([v] ++ (if vchReadsY a c = true then [w] else []) ++ (if vchReadsZ b = true then [q] else []), t) →
    let vs := [v] ++ (if vchReadsY a c = true then [w] else []) ++ (if vchReadsZ b = true then [q] else [])
    opFormat t.cx d vs (if cc = 0 then .fp32 else .int32) = f → f ≠ .empty → f ≠ .deferred →
    let lane := fun (e : Src) i => (e.lanes f (cc == 2)).getD i 0
    let out := fun i => chainLane cc a.toNat b.toNat c.toNat t.cx.regs.nver f (lane v i)
      (lane (if vchReadsY a c = true then w else v) i) (lane (if vchReadsZ b = true then q else v) i)
    ((if cc = 0 then f.isFloat else f.isInt) = false →
      exec (.vch cc a b c d x y z m) s = .next (s.takeTrap { origin := slotOrigin t.slot, cond := 0x13, slot := some t.slot })) ∧
    ((if cc = 0 then f.isFloat else f.isInt) = true → tagChecks t vs f = .ok () → Takes t d →
      ∃ u data ind, exec (.vch cc a b c d x y z m) s = .next u ∧ Gives t u 8 d (s.cx.m m.toNat) f data ind ∧
        (∀ i, i < f.lanes → laneOf f data i = (out i).1 % 2 ^ f.laneBits) ∧
        ∀ j : Nat, ind.getLsbD j = (List.range f.lanes).any fun i => (s.cx.m m.toNat).getLsbD i && (out i).2.getLsbD j)) ∧
  ∀ (un : Bool) (b u w : Nat), b = 8 ∨ b = 32 → u < 2 ^ b → w < 2 ^ b →
    let x : Int := if un = true then u else signed u b
    let y : Int := if un = true then w else signed w b
    let lo : Int := if un = true then 0 else -(2 ^ (b - 1) : Nat)
    let hi : Int := if un = true then (2 ^ b - 1 : Nat) else (2 ^ (b - 1) - 1 : Nat)
    let clamps := fun (p : Nat × Ind) (v : Int) => p.1 = wrapBits (max lo (min hi v)) b ∧
      (p.2 = 0 ↔ lo ≤ v ∧ v ≤ hi)
    clamps (intUnit 1 un b u w) (x + y) ∧ clamps (intUnit 2 un b u w) (x - y) ∧ clamps (intUnit 3 un b u w) (y - x) ∧
    clamps (intUnit 4 un b u w) (x * y) ∧ clamps (intUnit 8 un b u w) (x.natAbs : Int) ∧ clamps (intUnit 9 un b u w) (-x) ∧
    (intUnit 5 un b u w).1 = wrapBits (min x y) b ∧ (intUnit 6 un b u w).1 = wrapBits (max x y) b ∧
    (intUnit 11 un b u w).1 = Nat.land u w ∧ (intUnit 15 un b u w).1 = u * 2 ^ (w % b) % 2 ^ b ∧
    (intUnit 16 un b u w).1 = u / 2 ^ (w % b) ∧ (intUnit 19 un b u w).1 = (if x < y then 1 else 0)) ∧
  (∀ (nver a b : Nat) (t : Tag), t.isFloat = true → a < 2 ^ t.laneBits → b < 2 ^ t.laneBits →
    let u := flushSource nver t a
    let w := flushSource nver t b
    let x := decodeFloat t u
    let y := decodeFloat t w
    let r := fun op : Nat => floatUnit op nver t a b
    let flag := fun (c : Prop) [Decidable c] (i : Ind) => if c then i else (0 : Ind)
    let rounds := fun (op : Nat) (p : Val × Bool) => r op = ((roundFmt nver p.1 t).1, (roundFmt nver p.1 t).2 ||| flag (p.2 = true) 16)
    let gives := fun (op : Nat) (v : Val) => r op = roundFloat false nver v t
    let bool := fun (op : Nat) (c : Bool) => r op = (if c = true then t.one else 0, 0)
    let lesser := x.lt y || decide (x = .zero true ∧ y = .zero false)
    r 0 = (u, 0) ∧ rounds 1 (x.add y) ∧ rounds 2 (x.add y.negate) ∧ rounds 3 (y.add x.negate) ∧ rounds 4 (x.mul y) ∧
    rounds 10 (x.mul x) ∧
    (x.isNan = true ∨ y.isNan = true → r 5 = (t.nan, 0) ∧ r 6 = (t.nan, 0) ∧ r 26 = (t.nan, 0) ∧ r 27 = (t.nan, 0)) ∧
    (x.isNan = false → y.isNan = false → (decodeFloat t (r 5).1).eqv (if lesser then x else y) = true ∧
      (decodeFloat t (r 6).1).eqv (if lesser then y else x) = true ∧ (r 5).2 = 0 ∧ (r 6).2 = 0 ∧
      (x = .zero true → y = .zero false → r 5 = (u, 0) ∧ r 6 = (w, 0)) ∧
      (x = .zero false → y = .zero true → r 5 = (w, 0) ∧ r 6 = (u, 0))) ∧
    (x.isNan = true → ∀ op ∈ [7, 22, 23, 24, 25, 28, 29], r op = (t.nan, 0)) ∧
    (x.isNan = false → r 7 = (if (Val.zero false).lt x = true then u else 0, 0)) ∧
    r 8 = (u % 2 ^ (t.laneBits - 1), 0) ∧ r 9 = (u ^^^ 2 ^ (t.laneBits - 1), 0) ∧
    r 11 = (u &&& w, 0) ∧ r 12 = (u ||| w, 0) ∧ r 13 = (u ^^^ w, 0) ∧ (r 14).2 = 0 ∧
    (∀ i, (r 14).1.testBit i = (u.testBit i && !w.testBit i)) ∧
    bool 18 (x.eqv y) ∧ bool 19 (x.lt y) ∧ bool 20 (x.lt y || x.eqv y) ∧ r 21 = (if x.isZero = true then 0 else w, 0) ∧
    r 30 = (if x.isNan = true ∨ x.isZero = true then u else if x.neg? = true then t.one + 2 ^ (t.laneBits - 1) else t.one, 0) ∧
    (decodeFloat t t.one).eqv (Val.ofInt 1) = true ∧
    (∀ n, x = .inf n → r 24 = (if n = true then 2 ^ (t.laneBits - 1) else 0, 0) ∧ r 28 = (u, 0) ∧ r 29 = (u, 0) ∧
      (n = false → r 25 = (0, 0) ∧ gives 22 x ∧ gives 23 x) ∧
      (n = true → r 25 = (t.nan, 16) ∧ r 23 = (t.nan, 16) ∧ r 22 = (0, 0))) ∧
    (∀ n, x = .zero n → gives 24 (.inf n) ∧ gives 25 (.inf n) ∧ r 22 = (t.one, 0) ∧ gives 23 (.inf true) ∧ r 28 = (u, 0) ∧
      r 29 = (u, 0)) ∧
    (∀ neg mag exp, x = .fin neg mag exp false →
      let l := Nat.log2 mag
      let e := exp + l
      let sign := if neg = true then 2 ^ (t.laneBits - 1) else 0
      let beyond := ∃ k : Nat, (k : Int) = t.manBits - t.emax - exp ∧ t.maxSig * mag < 2 ^ k
      let i := mag * 2 ^ 11 / 2 ^ l
      let k := e / 2
      let j := mag * 2 ^ (10 + (e - 2 * k).toNat) / 2 ^ l
      (beyond → r 24 = if t.hasInf = true then (sign + t.infCode, 5) else (sign + t.maxCode, 9)) ∧
      (¬ beyond → mag = 2 ^ l → gives 24 (.fin neg 1 (-e) false)) ∧
      (¬ beyond → mag ≠ 2 ^ l → ∃ q : Nat, q * (2 * i + 1) * 2 ≤ 2 ^ 25 + (2 * i + 1) ∧ 2 ^ 25 ≤ q * (2 * i + 1) * 2 + (2 * i + 1) ∧
        gives 24 (.fin neg q (-12 - e) false)) ∧
      (neg = true → r 25 = (t.nan, 16) ∧ r 23 = (t.nan, 16)) ∧
      (neg = false → (mag = 2 ^ l → e = 2 * k → gives 25 (.fin false 1 (-k) false)) ∧
        (¬(mag = 2 ^ l ∧ e = 2 * k) → ∃ q : Nat, (2 * q - 1) ^ 2 * (2 * j + 1) ≤ 2 ^ 37 ∧ 2 ^ 37 < (2 * q + 1) ^ 2 * (2 * j + 1) ∧
          gives 25 (.fin false q (-12 - k) false)) ∧
        (mag = 2 ^ l → gives 23 (Val.ofInt e))) ∧
      (0 ≤ exp → mag * 2 ^ exp.toNat ≤ 2048 → gives 22 (.fin false 1 (signInt neg (mag * 2 ^ exp.toNat)) false)) ∧
      (0 ≤ exp → r 28 = (u, 0) ∧ r 29 = (u, 0)) ∧
      (exp < 0 → let one := 2 ^ (-exp).toNat
        (∃ n : Int, n * (one : Nat) ≤ signInt neg mag ∧ signInt neg mag < (n + 1) * (one : Nat) ∧
          (decodeFloat t (r 28).1).eqv (Val.ofInt n) = true ∧ (r 28).2 = 0) ∧
        ∃ n : Nat, 2 * (n * one) ≤ 2 * mag + one ∧ 2 * mag ≤ 2 * (n * one) + one ∧
          (2 * (n * one) = 2 * mag + one ∨ 2 * mag = 2 * (n * one) + one → n % 2 = 0) ∧
          (decodeFloat t (r 29).1).eqv (Val.ofMag neg n 0) = true ∧ (decodeFloat t (r 29).1).neg? = neg ∧ (r 29).2 = 0)) ∧
    (x.isNan = false → y.isNan = false →
      (x.isZero = true ∨ x = .inf false ∨ x = .inf true → r 26 = (u, 0) ∧ r 27 = (u, 0)) ∧
      (∀ n1 m1 e1, x = .fin n1 m1 e1 false →
        (∀ n, y = .zero n → gives 26 (.inf n) ∧ gives 27 (.inf n)) ∧
        (∀ n, y = .inf n → gives 26 (.zero n) ∧ (n = false → gives 27 (.zero false)) ∧ (n = true → r 27 = (t.nan, 16))) ∧
        (∀ n m e, y = .fin n m e false →
          gives 26 (x.mul ((Val.ofInt 2).add (y.mul x).1.negate).1).1 ∧
          (n = true → r 27 = (t.nan, 16)) ∧
          (n = false → gives 27 ((x.mul ((Val.ofInt 3).add (y.mul (x.mul x).1).1.negate).1).1.mul (.fin false 1 (-1) false)).1))))) ∧
  (∀ (s t : State) (d x : VField) (m : BitVec 3) (tag : BitVec 4) (r : Row),
    let dst := Tag.ofCode tag.toNat
    readSource s x = .ok (.row r, t) → r.tag ≠ .empty → r.tag ≠ .deferred → r.tag ≠ .nq4 → r.tag ≠ .nq4s →
    dst.isFloat = true ∨ dst.isInt = true → r.tag.laneBytes = dst.laneBytes → runFits x 1 = true → runFits d 1 = true →
    (∀ y, y ≠ 0 → exec (.vcvt d x y m tag) s = .next (s.takeTrap { origin := slotOrigin s.slot, cond := 0x00, detail := 2, slot := some s.slot })) ∧
    (Takes t d → d.level ≠ 2 →
      (∀ q, d.level = 0 → rowOf s.cx d.index = some q → halfBytes (s.cx.tileType (q / 64)) = halfBytes dst) →
      ∃ u data ind, exec (.vcvt d x 0 m tag) s = .next u ∧ Gives t u 6 d (s.cx.m m.toNat) dst data ind ∧
        ∀ i, i < dst.lanes → laneOf dst data i = (roundFmt t.cx.regs.nver
          (decodeElem r.tag (flushSource t.cx.regs.nver r.tag (laneOf r.tag r.data.toNat i))) dst).1 % 2 ^ dst.laneBits)) ∧
  ((∀ (s : State) (d x y : VField) (m : BitVec 3) (tag : BitVec 4) (src : Tag) (rows : List Row) (scale : Row),
    let dst := Tag.ofCode tag.toNat
    let bs := if src = .nq4 then 4 else src.laneBits
    let bt := if dst = .nq4 then 4 else dst.laneBits
    let n := if bt < bs then bs / bt else 1
    let k := if bt < bs then 1 else bt / bs
    let plain := fun t : Tag => t.isFloat = true ∨ t.isInt = true
    x.level ≤ 1 → runFits x n = true → d.level ≤ 1 → runFits d k = true → rows.length = n →
    (∀ i, i < n → readSource s (x + BitVec.ofNat 10 i) = .ok (.row (rows.getD i {}), s) ∧ (rows.getD i {}).tag = src) →
    (plain src ∧ plain dst ∧ y = 0 ∨
      (src = .nq4 ∧ dst.isFloat = true ∨ src.isFloat = true ∧ dst = .nq4) ∧ y.level ≤ 2 ∧
        readSource s y = .ok (.row scale, s) ∧ scale.tag = .nq4s) →
    (∀ i, i < k → d.level = 0 → ∃ q, rowOf s.cx (d + BitVec.ofNat 10 i).index = some q ∧
      (dst ≠ .nq4 → (s.cx.tileType (q / 64)).laneBits = bt ∧ s.cx.tileType (q / 64) ≠ .nq4)) →
    ∃ es : List Pend, exec (.vcvt d x y m tag) s = .next (s.up fun c => { c with pend := c.pend ++ es }) ∧ es.length = k ∧
      ∀ i p, es[i]? = some p →
        (d.level = 0 → (rowOf s.cx (d + BitVec.ofNat 10 i).index).map Dest.row = some p.dest) ∧
        (d.level = 1 → p.dest = .oper (d + BitVec.ofNat 10 i).index) ∧
        p.due = s.cycle + 6 ∧ p.tag = dst ∧ p.mask = s.cx.m m.toNat ∧ p.latch = decide (i + 1 = k) ∧
        ∀ l, l < 2048 / bt →
          let j := i * (2048 / bt) + l
          let code := (rows.getD (j / (2048 / bs)) {}).data.toNat / 2 ^ (bs * (j % (2048 / bs))) % 2 ^ bs
          let sb := scale.data.toNat / 2 ^ (8 * (j / 32)) % 256
          let v := if src = .nq4 then decodeNq4 code sb else decodeElem src (flushSource s.cx.regs.nver src code)
          p.data / 2 ^ (bt * l) % 2 ^ bt =
            (if dst = .nq4 then (roundNq4 v sb).1 else (roundFmt s.cx.regs.nver v dst).1) % 2 ^ bt) ∧
  ∀ (s t : State) (d x y : VField) (m : BitVec 3) (tag : BitVec 4) (r : Row),
    let dst := Tag.ofCode tag.toNat
    let trap := fun c : Nat => Host.Outcome.next (s.takeTrap { origin := slotOrigin s.slot, cond := c, slot := some s.slot })
    readSource s x = .ok (.row r, t) → 0 < tag.toNat → tag.toNat < 9 →
    (r.tag = .nq4s ∨ r.tag = .nq4 ∧ (dst.isInt = true ∨ dst = .nq4) ∨ r.tag.isInt = true ∧ dst = .nq4 →
      exec (.vcvt d x y m tag) s = trap 0x13) ∧
    (r.tag.isFloat = true → dst.isFloat = true →
      (dst.laneBits < r.tag.laneBits → x.level = 2 → d.level = 1 → d.index < 16 → exec (.vcvt d x 0 m tag) s = trap 0x15) ∧
      (dst.laneBits = r.tag.laneBits → d.level = 0 → (∀ q, rowOf s.cx d.index = some q →
          (s.cx.tileType (q / 64)).laneBits ≠ dst.laneBits) → (rowOf s.cx d.index).isSome = true →
        (∀ q, rowOf s.cx d.index = some q → s.cx.tileType (q / 64) ≠ .nq4) → exec (.vcvt d x 0 m tag) s = trap 0x15)) ∧
    (r.tag.isFloat = true → dst = .nq4 → x.level ≤ 1 → runFits x (r.tag.laneBits / 4) = true → d.level = 1 → d.index < 16 →
      (∀ i, i < r.tag.laneBits / 4 → ∃ q, readSource s (x + BitVec.ofNat 10 i) = .ok (.row q, s) ∧ q.tag = r.tag) →
      (y.level = 3 → exec (.vcvt d x y m tag) s = trap 0x13) ∧
      (∀ q, y.level ≤ 1 → readSource s y = .ok (.row q, s) →
        (q.tag = .empty → exec (.vcvt d x y m tag) s = trap 0x14) ∧
        (q.tag ≠ .empty → q.tag ≠ .deferred → q.tag ≠ .nq4s → exec (.vcvt d x y m tag) s = trap 0x13))))

/-- VRED delivers the reduction of all lanes to every lane and VSCAN each prefix, latency 10 (R195). Prefix i of ADD is
the exact sum of lanes 0 to i, clamped (INT) or rounded once (float); AND, OR, MAX and MIN combine lane by lane. Float
prefixes (R195): ADD rounds the exact sum of the lanes to that one once, a NaN lane or both infinities give the NaN of
F, the latter invalid, one infinity that infinity; MAX and MIN deliver a lane that none is beyond, or the NaN; AND and
OR combine codes. Under NVER 1 subnormal lanes read as zeros. -/
def Obligations.ReductionsAndScans : Prop :=
  ((∀ (s t : State) (d x : VField) (m : BitVec 3) (v : Src) (f : Tag),
    readSource s x = .ok (v, t) → opFormat t.cx d [v] .fp32 = f → f ≠ .nq4 → f ≠ .nq4s → tagCheck t v f = .ok () →
    Takes t d →
    let p := fun (op : Red) i => ((prefixes op t.cx.regs.nver f (v.lanes f false)).getD i (0, 0)).1 % 2 ^ f.laneBits
    let gives := fun (o : Host.Outcome State Fault Refusal) (g : Nat → Nat) =>
      ∃ u data ind, o = .next u ∧ Gives t u 10 d (s.cx.m m.toNat) f data ind ∧ ∀ i, i < f.lanes → laneOf f data i = g i
    let last := f.lanes - 1
    gives (exec (.vredAdd d x m) s) (fun _ => p .add last) ∧ gives (exec (.vscanAdd d x m) s) (p .add) ∧
    gives (exec (.vredMax d x m) s) (fun _ => p .max last) ∧ gives (exec (.vscanMax d x m) s) (p .max) ∧
    gives (exec (.vredMin d x m) s) (fun _ => p .min last) ∧ gives (exec (.vscanMin d x m) s) (p .min) ∧
    gives (exec (.vredAnd d x m) s) (fun _ => p .and last) ∧ gives (exec (.vscanAnd d x m) s) (p .and) ∧
    gives (exec (.vredOr d x m) s) (fun _ => p .or last) ∧ gives (exec (.vscanOr d x m) s) (p .or)) ∧
  ∀ (nver i : Nat) (f : Tag) (ls : List Nat), f.isInt = true → (∀ l ∈ ls, l < 2 ^ f.laneBits) → i < ls.length →
    let p := fun op => (prefixes op nver f ls).getD i (0, 0)
    p .add = clampLane false f.laneBits ((ls.take (i + 1)).map (signed · f.laneBits)).sum ∧
    (∀ j, (p .and).1.testBit j = (ls.take (i + 1)).all fun l => l.testBit j) ∧
    (∀ j, (p .or).1.testBit j = (ls.take (i + 1)).any fun l => l.testBit j) ∧
    (∀ l ∈ ls.take (i + 1), signed l f.laneBits ≤ signed (p .max).1 f.laneBits ∧
      signed (p .min).1 f.laneBits ≤ signed l f.laneBits) ∧
    (p .max).1 ∈ ls.take (i + 1) ∧ (p .min).1 ∈ ls.take (i + 1)) ∧
  (∀ (nver i : Nat) (f : Tag) (ls : List Nat), f.isFloat = true → (∀ l ∈ ls, l < 2 ^ f.laneBits) → i < ls.length →
    let p := fun op => (prefixes op nver f ls).getD i (0, 0)
    let us := (ls.take (i + 1)).map (flushSource nver f)
    let vs := us.map (decodeFloat f)
    let nan := ∃ v ∈ vs, v.isNan = true
    (nan → p .add = (f.nan, 0) ∧ p .max = (f.nan, 0) ∧ p .min = (f.nan, 0)) ∧
    (¬ nan →
      (.inf true ∈ vs → .inf false ∈ vs → p .add = (f.nan, 16)) ∧
      (∀ b, .inf b ∈ vs → .inf (!b) ∉ vs → p .add = roundFmt nver (.inf b) f) ∧
      (.inf true ∉ vs → .inf false ∉ vs → ∃ v : Val, p .add = roundFmt nver v f ∧ v.isNan = false ∧ v ≠ .inf true ∧
        v ≠ .inf false ∧ ∀ e : Int, (∀ x ∈ vs, e ≤ x.expOr e) → e ≤ v.expOr e ∧ v.scaled e = (vs.map (·.scaled e)).sum) ∧
      (p .max).1 ∈ us ∧ (p .min).1 ∈ us ∧
      ∀ v ∈ vs, (decodeFloat f (p .max).1).lt v = false ∧ v.lt (decodeFloat f (p .min).1) = false) ∧
    (∀ j, (p .and).1.testBit j = us.all fun l => l.testBit j) ∧ ∀ j, (p .or).1.testBit j = us.any fun l => l.testBit j)

/-! The matrix engine. -/

/-- MSET and MSET.I write one field of the loop-nest table where the value is in its range, and fault else (R208, R209,
R211). MCFG changes the type of a free tile from the next cycle, waiting for results of other bundles that land in it
(R222). MSTOP asks every operation to stop (R221), and MPROV reads a word of the last record (R227). A tile that the
context does not have faults, an owned one waits. A level above 5, a field code that is not listed, and a global code
with another level than 0 are detail 3. MCLR of a free tile issues an operation of one step that owns it; the step
writes 64 rows of zeros under the tile's type and completes (R203, R217, R223). MSNAP copies the 64 rows of a tile, as
they stand, with latency 12, and names the operation that owns it with the count of its completed steps (R224). A fifth
operation, an owned tile and an earlier result of the M slot in flight make it wait (R203, R216, R326); a tile beyond
the pool, and two types, fault. -/
def Obligations.MatrixControlAndTiles : Prop :=
  (∀ (s : State) (level field : BitVec 6) (sa sd : SReg) (imm : BitVec 13) (t : TReg) (fmt : BitVec 4) (w : BitVec 3),
    let sets := fun (o : Host.Outcome State Fault Refusal) (v : Int) =>
      let r := fieldRange field.toNat
      (r.1 ≤ v → v ≤ r.2 → ∃ n : Nest, o = .next (s.up fun x => { x with eng := { x.eng with nest := n } }) ∧
        (field.toNat < 8 → n.fields = s.cx.eng.nest.fields ∧ n.levels = s.cx.eng.nest.levels.set level.toNat
          ((s.cx.eng.nest.levels.getD level.toNat []).set field.toNat v)) ∧
        (8 ≤ field.toNat → n.levels = s.cx.eng.nest.levels ∧ n.fields = s.cx.eng.nest.fields.set (field.toNat - 8) v)) ∧
      (v < r.1 ∨ r.2 < v → o = .next (s.takeTrap { origin := slotOrigin s.slot, cond := 0x18, slot := some s.slot }))
    sets (exec (.mset level field sa) s) (s.rs sa).toInt ∧ sets (exec (.msetI level field imm) s) imm.toInt ∧
    (s.cx.tileCount ≤ t.toNat → exec (.mcfg t fmt) s = .next (s.takeTrap { origin := slotOrigin s.slot, cond := 0x12, slot := some s.slot })) ∧
    (t.toNat < s.cx.tileCount → t.toNat ∈ s.cx.owned → exec (.mcfg t fmt) s = .next (s.hold .owned)) ∧
    (t.toNat < s.cx.tileCount → t.toNat ∉ s.cx.owned → s.cx.landingIn s.grp s.cycle [t.toNat] = false →
      exec (.mcfg t fmt) s = .next (s.expose 1 (.tileType t.toNat) fmt.toNat)) ∧
    (t.toNat < s.cx.tileCount → t.toNat ∉ s.cx.owned → s.cx.landingIn s.grp s.cycle [t.toNat] = true →
      exec (.mcfg t fmt) s = .next (s.hold .scoreboard)) ∧
    exec .mstop s = .next (s.up fun x => { x with eng := { x.eng with ops := x.eng.ops.map fun o => { o with stop := true } } }) ∧
    exec (.mprov sd w) s = .next (s.promise 1 (.scalar sd.toNat) (s.cx.eng.prov.getD w.toNat 0).toNat) ∧
    ([0, 1, 2, 3, 4, 8, 9, 10, 11, 12, 13, 14, 15, 16, 17, 18, 19, 20, 21].map fieldRange =
      [(0, 2 ^ 32 - 1), (-2 ^ 31, 2 ^ 31 - 1), (-2 ^ 31, 2 ^ 31 - 1), (-15, 15), (0, 15), (0, 2 ^ 21 - 1), (0, 2 ^ 21 - 1),
       (0, 2 ^ 21 - 1), (0, 15), (3, 8), (3, 7), (0, 11), (0, 64), (0, 64), (0, 32), (0, 64), (0, 64), (0, 32), (0, 63)]) ∧
    (encode 6 0 false (.mset level field sa)).map opcode = [(0x00, 1)] ∧
    (encode 6 0 false (.msetI level field imm)).map opcode = [(0x00, 2)] ∧
    (5 < level.toNat ∨ 21 < field.toNat ∨ 5 ≤ field.toNat ∧ field.toNat < 8 ∨ 8 ≤ field.toNat ∧ level ≠ 0 →
      decodeBundle (encode 6 0 false (.mset level field sa)) = .error ⟨3, 6⟩ ∧
      decodeBundle (encode 6 0 false (.msetI level field imm)) = .error ⟨3, 6⟩)) ∧
  ((∀ (s : State) (t td : TReg) (sd : SReg),
    let trap := fun c : Nat => s.takeTrap { origin := slotOrigin s.slot, cond := c, slot := some s.slot }
    (s.cx.tileCount ≤ t.toNat → exec (.mclr t) s = .next (trap 0x12) ∧ exec (.msnap t td sd) s = .next (trap 0x12) ∧
      (td.toNat < s.cx.tileCount → exec (.msnap td t sd) s = .next (trap 0x12))) ∧
    (t.toNat < s.cx.tileCount → t.toNat ∉ s.cx.owned → 4 ≤ s.cx.eng.ops.length → exec (.mclr t) s = .next (s.hold .full)) ∧
    (t.toNat < s.cx.tileCount → td.toNat < s.cx.tileCount →
      (s.cx.tileType td.toNat ≠ s.cx.tileType t.toNat → exec (.msnap td t sd) s = .next (trap 0x13)) ∧
      (s.cx.tileType td.toNat = s.cx.tileType t.toNat →
        (td.toNat ∈ s.cx.owned → exec (.msnap td t sd) s = .next (s.hold .owned)) ∧
        (td.toNat ∉ s.cx.owned → (∃ e ∈ s.cx.pend, e.slot = 6 ∧ e.dest.isType = false) →
          exec (.msnap td t sd) s = .next (s.hold .scoreboard))))) ∧
  ∀ (s : State) (t td : TReg) (sd : SReg), t.toNat < s.cx.tileCount →
    (t.toNat ∈ s.cx.owned → exec (.mclr t) s = .next (s.hold .owned)) ∧
    (t.toNat ∉ s.cx.owned → s.cx.eng.ops.length < 4 → 4 < s.cx.eng.time.length →
      ∃ u o, exec (.mclr t) s = .next u ∧ u.cx.eng.ops = s.cx.eng.ops ++ [o] ∧ o.tiles = [t.toNat] ∧ o.kind = .mclr ∧
        o.tile = t.toNat ∧ o.steps = 1 ∧ o.step = 0 ∧ o.num = (s.cx.timeline 4).issued + 1 ∧
        (u.cx.timeline 4).issued = o.num ∧ u.cx.regs = s.cx.regs ∧ sameMemory s u) ∧
    (∀ o r, s.cx.bound = true → s.cx.eng.ops = o :: r → o.kind = .mclr → o.tile = t.toNat → o.steps = 1 → o.step = 0 →
      o.stop = false → o.stopped = false → o.trap = none → s.cx.writtenTo o.after = true →
      ∃ u, exec (.matrixStep s.me) s = .next u ∧ u.cx.eng.ops = r ∧
        (∀ i, i < 64 → u.cx.row (64 * t.toNat + i) = ⟨s.cx.tileType t.toNat, 0⟩) ∧
        (∀ q, q / 64 ≠ t.toNat → u.cx.row q = s.cx.row q) ∧ u.cx.regs.s = s.cx.regs.s ∧
        u.cx.eng.time = s.cx.eng.time.set 4 ((s.cx.timeline 4).complete o.num) ∧ sameMemory s u) ∧
    (td.toNat < s.cx.tileCount → s.cx.tileType td.toNat = s.cx.tileType t.toNat → td.toNat ∉ s.cx.owned →
      (∀ e ∈ s.cx.pend, e.slot ≠ 6 ∨ e.dest.isType = true) →
      ∃ u v, exec (.msnap td t sd) s = .next u ∧ u.cx.regs = s.cx.regs ∧ u.cx.eng = s.cx.eng ∧ sameMemory s u ∧
        u.cx.pend = s.cx.pend ++ (List.range 64).map (fun i =>
          ({ due := s.cycle + 12, dest := .row (64 * td.toNat + i), data := (s.cx.row (64 * t.toNat + i)).data.toNat,
             tag := (s.cx.row (64 * t.toNat + i)).tag, group := s.grp, slot := s.slot, issued := s.cycle } : Pend)) ++
          [{ due := s.cycle + 12, dest := .scalar sd.toNat, data := v, group := s.grp, slot := s.slot, issued := s.cycle }] ∧
        ((∀ o ∈ s.cx.eng.ops, t.toNat ∉ o.tiles) → v = 2 ^ 64 - 1) ∧
        ∀ us o vs, s.cx.eng.ops = us ++ o :: vs → (∀ p ∈ us, t.toNat ∉ p.tiles) → t.toNat ∈ o.tiles →
          v = o.num % 2 ^ 24 * 2 ^ 40 + o.step % 2 ^ 40))

/-- MGO whose table passes the checks of R212 issues an operation with the table as it stands, which owns every tile
that a step of it writes and starts once its own bundle's stores are written (R131); each failing check faults in its
order, and a result of another bundle that lands in such a tile holds it. MPLANE issues a conversion over the own unit
scratchpad, or a no-op (R225). A fifth operation waits (R203). The loop nest (R208, R210, R212): S is the product of the
bounds; the digits of a step, level 0 fastest; a base and its strides; edges and initialisation; and what all the steps
reach, a bound of 0 as 1. A step of the oldest operation (R203, R210, R217, R218, R221): its own step, then the next or
its completion, which frees its tiles and records it; an operation that is to stop, or has no step, completes without
one; a fault of a step stops it there and its trap waits. INT8 by INT8 adds the products of a step to each cell modulo
2^32 (R215). The sum of a float step (R213, R214): each cell takes its K-groups of 32, 16 or 8 elements in turn, each
added with one rounding. A group is NaN where a product is or both infinities meet, an infinity, a zero, or the exact
sum of its products truncated 47, or 26, bits below the greatest, rounded once, toward zero under NVER 1. A step of MGO
whose granules hold no error (R207, R210, R213): the cells of its tile below its limits become the sums of its A group
and its B block, from the scratchpad or the oldest rows of the load-data queue, over the old cells or zeros; every other
row and lane stays. Too few rows wait; a row of another tag stops the step, with nothing popped (R218). A group of
planes as MPLANE writes it reads back, with every plane, as the values of its elements (R204, R205, R206): a NaN as +0,
an infinity as the largest finite value of its sign. A step of MPLANE reads 32 elements of each row, +0 for the rows
beyond M′, and writes its group behind those before it (R225). -/
def Obligations.MatrixOperations : Prop :=
  (∀ (s : State) (ad as : AReg) (sn : SReg) (fmt : BitVec 4),
    let n := s.cx.eng.nest
    let inPool := fun t : Int => decide (0 ≤ t ∧ t < (s.cx.tileCount : Int))
    let here := (n.tiles.filter inPool).map Int.toNat
    let writes := here.filter fun t => n.rowsOf t ≠ 0
    let mask := 2 ^ (n.nat 21 / 4)
    let trap := fun c : Nat => State.takeTrap s { origin := slotOrigin s.slot, cond := c, slot := some s.slot }
    let outside := fun (i : Instr) (lo hi : Int) =>
      let at_ := fun a : Word =>
        exec i s = .next (s.takeTrap { origin := slotOrigin s.slot, cond := 0x0C, addr := a, slot := some s.slot })
      (lo < s.who.usBase → at_ (ownUnit lo)) ∧
      ((s.who.usBase : Int) ≤ lo → (s.who.usBase + s.who.usSize : Int) < hi → at_ (ownUnit (hi - 1)))
    (4 ≤ s.cx.eng.ops.length → exec .mgo s = .next (s.hold .full)) ∧
    (s.cx.eng.ops.length < 4 → s.cx.landingIn s.grp s.cycle writes = true → exec .mgo s = .next (s.hold .scoreboard)) ∧
    (s.cx.eng.ops.length < 4 → s.cx.landingIn s.grp s.cycle writes = false →
      (n.aTag = .int8 ∧ n.bTag ≠ .int8 ∨ n.aTag ≠ .int8 ∧ n.bTag = .int8 ∨
        (∃ t ∈ here, s.cx.tileType t ≠ if n.aTag = .int8 then .int32 else .fp32) → exec .mgo s = .next (trap 0x13)) ∧
      ∀ want : Tag, want = .int32 ∧ n.aTag = .int8 ∧ n.bTag = .int8 ∨ want = .fp32 ∧ n.aTag ≠ .int8 ∧ n.bTag ≠ .int8 →
        (∀ t ∈ here, s.cx.tileType t = want) →
        (planesOf n.aTag < n.nat 14 ∨ n.nat 8 % 256 ≠ 0 ∨ (∃ l, l < 6 ∧ n.level l 1 % 256 ≠ 0) →
          exec .mgo s = .next (trap 0x18)) ∧
        (n.nat 14 ≤ planesOf n.aTag → n.nat 8 % 256 = 0 → (∀ l, l < 6 → n.level l 1 % 256 = 0) →
          outside .mgo (n.reach 1 (n.global 8)).1 ((n.reach 1 (n.global 8)).2 + 256 * partsOf n.aTag) ∧
          (s.inShare (n.reach 1 (n.global 8)).1 ((n.reach 1 (n.global 8)).2 + 256 * partsOf n.aTag) = .ok () →
            n.fromQueue = false →
            (n.nat 9 % 64 ≠ 0 ∨ n.nat 10 % 64 ≠ 0 ∨ n.nat 10 ≠ 0 ∧ n.nat 10 < 64 * n.bTag.laneBytes →
              exec .mgo s = .next (trap 0x18)) ∧
            (n.nat 9 % 64 = 0 → n.nat 10 % 64 = 0 → n.nat 10 = 0 ∨ 64 * n.bTag.laneBytes ≤ n.nat 10 →
              outside .mgo (n.reach 2 (n.global 9)).1
                ((n.reach 2 (n.global 9)).2 + (31 * n.pitch + 64 * n.bTag.laneBytes : Nat))))) ∧
        (n.nat 14 ≤ planesOf n.aTag → n.nat 8 % 256 = 0 → (∀ l, l < 6 → n.level l 1 % 256 = 0) →
          s.inShare (n.reach 1 (n.global 8)).1 ((n.reach 1 (n.global 8)).2 + 256 * partsOf n.aTag) = .ok () →
          (n.fromQueue = false → n.nat 9 % 64 = 0 ∧ n.nat 10 % 64 = 0 ∧ (n.nat 10 = 0 ∨ 64 * n.bTag.laneBytes ≤ n.nat 10) ∧
            s.inShare (n.reach 2 (n.global 9)).1 ((n.reach 2 (n.global 9)).2 +
              (31 * n.pitch + 64 * n.bTag.laneBytes : Nat)) = .ok ()) →
          (n.tiles.any (fun t => !inPool t) = true → exec .mgo s = .next (trap 0x12)) ∧
          (n.tiles.all inPool = true → bitOf (n.nat 21) 0 = true → s.cx.eng.ops = [] → ∀ ts t us i, here = ts ++ t :: us →
            (∀ q ∈ ts, ∀ j, j < 64 → (s.cx.row (64 * q + j)).tag = want) →
            (∀ j, j < i → (s.cx.row (64 * t + j)).tag = want) → i < 64 →
            let tag := (s.cx.row (64 * t + i)).tag
            tag ≠ want → tag ≠ .deferred → exec .mgo s = .next (trap (if tag = .empty then 0x14 else 0x13))) ∧
          (n.tiles.all inPool = true →
            (bitOf (n.nat 21) 0 = true → ∀ t ∈ here, ∀ i, i < 64 → (s.cx.row (64 * t + i)).tag = want) →
            (mayWrite s.cx s.grp (writes.flatMap tileRows) = false → exec .mgo s = .next (trap 0x06)) ∧
            (mayWrite s.cx s.grp (writes.flatMap tileRows) = true →
              s.storesBefore mask = false → exec .mgo s = .next (s.issueOp
                { kind := .mgo, nest := n, steps := n.steps, ctype := want.code, tiles := writes,
                  after := s.cx.placedNow s.grp mask s.cycle }))))) ∧
    let t := Tag.ofCode fmt.toNat
    let v := (s.rs sn).toNat
    let m := bitsOf v 6 0
    let g := bitsOf v 31 16
    let dst := s.ra ad
    let src := s.ra as
    let unit := if t = .nq4 then 16 else t.laneBytes
    (64 < m ∨ bitsOf v 15 7 ≠ 0 ∨ bitsOf v 63 32 ≠ 0 ∨ bufIdx dst ≠ 0xFFFF ∨ bufIdx src ≠ 0xFFFF ∨ bufOff dst % 256 ≠ 0 ∨
      bufOff src % unit ≠ 0 → exec (.mplane ad as sn fmt) s = .next (trap 0x18)) ∧
    (m ≤ 64 → bitsOf v 15 7 = 0 → bitsOf v 63 32 = 0 → bufIdx dst = 0xFFFF → bufIdx src = 0xFFFF → bufOff dst % 256 = 0 →
      bufOff src % unit = 0 →
      (m = 0 ∨ g = 0 → s.cx.eng.ops.length < 4 → s.storesBefore 1 = false → exec (.mplane ad as sn fmt) s = .next (s.issueOp
        { kind := .mplane, steps := 0, fmt := fmt.toNat, dst := dst, src := src, rows := m, ctype := 0,
          after := s.cx.placedNow s.grp 1 s.cycle })) ∧
      (0 < m → 0 < g →
        outside (.mplane ad as sn fmt) (bufOff src)
          (bufOff src + (if t = .nq4 then 17 * m * g else 32 * m * g * t.laneBytes) : Nat) ∧
        (s.inShare (bufOff src) (bufOff src + (if t = .nq4 then 17 * m * g else 32 * m * g * t.laneBytes) : Nat) = .ok () →
          outside (.mplane ad as sn fmt) (bufOff dst) (bufOff dst + 256 * partsOf t * g : Nat) ∧
          (s.inShare (bufOff dst) (bufOff dst + 256 * partsOf t * g : Nat) = .ok () → 4 ≤ s.cx.eng.ops.length →
            exec (.mplane ad as sn fmt) s = .next (s.hold .full))))) ∧
    (m ≤ 64 → bitsOf v 15 7 = 0 → bitsOf v 63 32 = 0 → bufIdx dst = 0xFFFF → bufIdx src = 0xFFFF → bufOff dst % 256 = 0 →
      bufOff src % unit = 0 → 0 < m → 0 < g →
      s.inShare (bufOff src) (bufOff src + (if t = .nq4 then 17 * m * g else 32 * m * g * t.laneBytes) : Nat) = .ok () →
      s.inShare (bufOff dst) (bufOff dst + 256 * partsOf t * g : Nat) = .ok () →
      s.cx.eng.ops.length < 4 → s.storesBefore 1 = false →
      exec (.mplane ad as sn fmt) s = .next (s.issueOp
        { kind := .mplane, steps := g, fmt := fmt.toNat, dst := dst, src := src, rows := m, ctype := 0,
          after := s.cx.placedNow s.grp 1 s.cycle }))) ∧
  (∀ n : Nest,
    let before := fun l : Nat => ((List.range l).map n.bound).prod
    n.steps = before 6 ∧
    (∀ step, step < n.steps → (n.indices step).length = 6 ∧
      ∀ l, l < 6 → (n.indices step).getD l 0 = step / before l % n.bound l) ∧
    (∀ (is : List Nat) (f : Nat) (base : Int), is.length = 6 →
      n.at_ is f base = base + ((List.range 6).map fun l => (is.getD l 0 : Int) * n.level l f).sum) ∧
    (∀ (is : List Nat) (b : Nat), n.edge is b = true ↔
      ∃ l, l < 6 ∧ (n.level l 4).toNat.testBit b = true ∧ is.getD l 0 + 1 = n.bound l) ∧
    (∀ is : List Nat, n.initial is = true ↔
      (n.nat 21).testBit 0 = false ∧ ∀ l, l < 6 → (n.level l 4).toNat.testBit 0 = true → is.getD l 0 = 0) ∧
    let here := fun is : List Nat => is.length = 6 ∧ ∀ l, l < 6 → is.getD l 0 < max (n.bound l) 1
    (∀ (f : Nat) (base : Int),
      (∀ is, here is → (n.reach f base).1 ≤ n.at_ is f base ∧ n.at_ is f base ≤ (n.reach f base).2) ∧
      (∃ is, here is ∧ n.at_ is f base = (n.reach f base).1) ∧ ∃ is, here is ∧ n.at_ is f base = (n.reach f base).2) ∧
    ((∀ l, l < 6 → n.level l 3 ≠ 0 → n.bound l ≤ 32) →
      ∀ t : Int, t ∈ n.tiles ↔ ∃ is, here is ∧ t = n.at_ is 3 (n.global 11))) ∧
  ((∀ (s : State) (c : Nat) (o : MatOp) (r : List MatOp), (s.ctx c).bound = true → (s.ctx c).eng.ops = o :: r → o.trap = none →
    let ends := fun (u : State) (p : MatOp) => u.ctx c =
      ({ s.ctx c with eng := { (s.ctx c).eng with ops := r, prov := p.record } }).complete 4 p.num
        (agentId 3 c p.group (p.num % 2 ^ 40))
    (o.stop = true ∨ o.steps ≤ o.step → ∃ u, exec (.matrixStep c) s = .next u ∧ u.mem = s.mem ∧ ends u o) ∧
    (o.stop = false → o.step < o.steps → o.stopped = true ∨ (s.ctx c).writtenTo o.after = false → exec (.matrixStep c) s = .next s) ∧
    ((s.ctx c).writtenTo o.after = true → o.stop = false → o.step < o.steps → o.stopped = false → o.kind = .mgo → ∀ t, mgoStep s c o = .stop t →
      ∃ u, exec (.matrixStep c) s = .next u ∧ u.mem = s.mem ∧ (u.ctx c).regs = (s.ctx c).regs ∧
        ∃ p, (u.ctx c).eng.ops = p :: r ∧ p.stopped = true ∧ p.step = o.step ∧ ∃ e, p.trap = some e ∧ e.cond = t.cond ∧
          e.info = word (o.num % 2 ^ 24 * 2 ^ 40 + o.step % 2 ^ 40)) ∧
    ((s.ctx c).writtenTo o.after = true → o.stop = false → o.step + 1 < o.steps → o.stopped = false → o.kind = .mgo → ∀ t p, mgoStep s c o = .done t p →
      p.step = o.step + 1 ∧ ∃ u, exec (.matrixStep c) s = .next u ∧ u.mem = s.mem ∧
        ∃ y, (u.ctx c).eng.ops = y :: r ∧ y = p)) ∧
  (∀ (s : State) (c : Nat), (s.ctx c).eng.ops = [] → exec (.matrixStep c) s = .next s) ∧
  ∀ (nver kl m n : Nat) (a b : List (List Val)) (acc : List (List Nat)) (row : List Nat) (x : Nat),
    acc.length = a.length → acc[m]? = some row → row[n]? = some x →
    let p := fun k => (((a.getD m []).getD k (.zero false)).scaled 0) * (((b.getD k []).getD n (.zero false)).scaled 0)
    ∃ r y, (sumStep true nver kl a b acc).1[m]? = some r ∧ r[n]? = some y ∧
      y % 2 ^ 32 = wrapBits (signed x 32 + ((List.range kl).map p).sum) 32) ∧
  ((∀ (nver kl m n : Nat) (a b : List (List Val)) (acc : List (List Nat)) (row : List Nat) (x : Nat),
    acc.length = a.length → acc[m]? = some row → row[n]? = some x →
    let g := if nver = 1 then 8 else if nver = 2 then 16 else 32
    let pair := fun k => ((a.getD m []).getD k (.zero false), (b.getD k []).getD n (.zero false))
    let group := fun i => (List.range (min g (kl - g * i))).map fun j => pair (g * i + j)
    ((sumStep false nver kl a b acc).1.getD m []).getD n 0 =
      (List.range ((kl + g - 1) / g)).foldl (fun c i => (addGroup nver c (groupSum nver (group i)).1).1) x) ∧
  (∀ nver c t : Nat,
    let value := fun v : Nat => decodeFloat .fp32 (flushSource nver .fp32 v)
    let sum := (value c).add (value t)
    (addGroup nver c t).1 = (roundFloat false nver sum.1 .fp32).1 ∧
    (addGroup nver c t).2.1 = (roundFloat false nver sum.1 .fp32).2 ||| (if sum.2 = true then 16 else 0)) ∧
  ∀ (nver : Nat) (ps : List (Val × Val)),
    let vs := ps.map fun p => (p.1.mul p.2).1
    let both := .inf true ∈ vs ∧ .inf false ∈ vs
    let nan := ∃ v ∈ vs, v.isNan = true
    let zeroes := ∃ p ∈ ps, (p.1.mul p.2).2 = true
    (nan ∨ both → (groupSum nver ps).1 = Tag.fp32.nan ∧
      (zeroes ∨ both → (groupSum nver ps).2 = 16) ∧ (¬ zeroes → ¬ both → (groupSum nver ps).2 = 0)) ∧
    (¬ nan → ¬ both → ∀ b, .inf b ∈ vs → groupSum nver ps = ((if b = true then 2 ^ 31 else 0) + 0x7F800000, 0)) ∧
    ((∀ v ∈ vs, v.isZero = true) → groupSum nver ps = (if ∀ v ∈ vs, v.neg? = true then 2 ^ 31 else 0, 0)) ∧
    (¬ nan → .inf true ∉ vs → .inf false ∉ vs → ∀ top : Int,
      let bits := fun v : Val => match v with
        | .fin _ m e _ => e + (Nat.log2 m : Int)
        | _ => top
      (∃ v ∈ vs, v.isZero = false ∧ bits v = top) → (∀ v ∈ vs, bits v ≤ top) →
      let u := top - (if nver = 1 then 26 else 47)
      let part := fun v : Val => match v with
        | .fin neg m e _ => signInt neg (if u ≤ e then m * 2 ^ (e - u).toNat else m / 2 ^ (u - e).toNat)
        | _ => 0
      let lost := fun v : Val => match v with
        | .fin _ m e _ => decide (e < u) && decide (m % 2 ^ (u - e).toNat ≠ 0)
        | _ => false
      let t : Int := (vs.map part).sum
      let inexact : Ind := if vs.any lost = true then 1 else 0
      (t = 0 → groupSum nver ps = (0, inexact)) ∧
      (t ≠ 0 → groupSum nver ps =
        ((roundFloat (nver == 1) nver (Val.ofMag (decide (t < 0)) t.natAbs u) .fp32).1,
         (roundFloat (nver == 1) nver (Val.ofMag (decide (t < 0)) t.natAbs u) .fp32).2 ||| inexact)))) ∧
  (∀ (s : State) (c : Nat) (o : MatOp),
    let n := o.nest
    let x := s.ctx c
    let tile := x.bind.who.tile
    let is := n.indices o.step
    let rows := n.nat (if n.edge is 1 = true then 18 else 15)
    let cols := n.nat (if n.edge is 2 = true then 19 else 16)
    let depth := n.nat (if n.edge is 3 = true then 20 else 17)
    let dest := (n.at_ is 3 (n.global 11)).toNat
    let a0 := (n.at_ is 1 (n.global 8)).toNat
    let b0 := (n.at_ is 2 (n.global 9)).toNat
    let eb := n.bTag.laneBytes
    let keys := fun off len : Nat => keysFrom (keyOf (spaceUnit tile) off) len
    let unread := fun j : Nat => n.planes < j ∧ j ≤ planesOf n.aTag
    let parts := (List.range (partsOf n.aTag)).map fun j =>
      if unread j then 0 else ofBytes (memGetAll s.mem (keys (a0 + 256 * j) 256))
    let a := (List.range rows).map fun m => (List.range depth).map fun k => planeVal n.aTag o.nver n.planes parts m k
    let b := fun code : Nat → Nat → Nat => ((List.range 32).take depth).map fun k => ((List.range 64).take cols).map fun i =>
      decodeElem n.bTag (flushSource o.nver n.bTag (code k i))
    let cell := fun m i : Nat => (x.row (64 * dest + m)).data.toNat / 2 ^ (32 * i) % 2 ^ 32
    let acc := (List.range rows).map fun m => ((List.range 64).take cols).map fun i => if n.initial is = true then 0 else cell m i
    let gives := fun (code : Nat → Nat → Nat) (u : State) =>
      (∀ q, q / 64 ≠ dest ∨ rows ≤ q % 64 ∨ cols = 0 → (u.ctx c).row q = x.row q) ∧ u.mem = s.mem ∧
      ∀ m, m < rows → 0 < cols → ((u.ctx c).row (64 * dest + m)).tag = x.tileType dest ∧ ∀ i, i < 64 →
        ((u.ctx c).row (64 * dest + m)).data.toNat / 2 ^ (32 * i) % 2 ^ 32 =
          if i < cols then (((sumStep (n.aTag == .int8) o.nver depth a (b code) acc).1.getD m []).getD i 0) % 2 ^ 32
          else cell m i
    rows ≤ 64 → cols ≤ 64 → depth ≤ 32 → eb = 1 ∨ eb = 2 →
    (∀ j, j < partsOf n.aTag → ¬ unread j → (keys (a0 + 256 * j) 256).any (keyBad s) = false) →
    (n.fromQueue = false → (∀ k, k < 32 → (keys (b0 + k * n.pitch) (64 * eb)).any (keyBad s) = false) →
      ∃ u p, mgoStep s c o = .done u p ∧ p.step = o.step + 1 ∧ (u.ctx c).eng.ldRows = x.eng.ldRows ∧
        gives (fun k i => ofBytes (memGetAll s.mem (keys (b0 + k * n.pitch + eb * i) eb))) u) ∧
    (n.fromQueue = true →
      (x.eng.ldRows.length < 8 * eb → mgoStep s c o = .wait) ∧
      (8 * eb ≤ x.eng.ldRows.length →
        ((∀ r ∈ x.eng.ldRows.take (8 * eb), r.tag = n.bTag) →
          ∃ u p, mgoStep s c o = .done u p ∧ p.step = o.step + 1 ∧ (u.ctx c).eng.ldRows = x.eng.ldRows.drop (8 * eb) ∧
            gives (fun k i => ((x.eng.ldRows.getD (eb * (64 * k + i) / 256) default).data.toNat /
              2 ^ (8 * (eb * (64 * k + i) % 256))) % 2 ^ (8 * eb)) u) ∧
        ∀ us r vs, x.eng.ldRows = us ++ r :: vs → us.length < 8 * eb → (∀ q ∈ us, q.tag = n.bTag) → r.tag ≠ n.bTag →
          r.tag ≠ .deferred → mgoStep s c o = .stop { origin := 4, cond := if r.tag = .empty then 0x14 else 0x13 }))) ∧
  ((∀ (t : Tag) (codes : List Nat) (m k : Nat), t ∈ [.bf16, .fp16, .e4m3, .e5m2, .int8] → codes.length = 2048 →
    (∀ v ∈ codes, v < 2 ^ t.laneBits) → m < 64 → k < 32 →
    let bytes := groupBytes t (codes.map (splitElem t · 0)) []
    let parts := (List.range (partsOf t)).map fun j => ofBytes ((bytes.drop (256 * j)).take 256)
    bytes.length = 256 * partsOf t ∧
    planeVal t 3 (planesOf t) parts m k = match decodeElem t (codes.getD (32 * m + k) 0) with
      | .nan => .zero false
      | .inf neg => decodeElem t ((if neg = true then t.signBit else 0) + t.maxCode)
      | v => v) ∧
  ∀ (s : State) (c : Nat) (o : MatOp) (r : List MatOp), (s.ctx c).bound = true → (s.ctx c).eng.ops = o :: r →
    o.trap = none → o.stop = false → o.stopped = false → o.kind = .mplane → o.step + 1 < o.steps → o.rows ≤ 64 →
    (s.ctx c).writtenTo o.after = true →
    let t := Tag.ofCode o.fmt
    let w := (s.ctx c).bind.who
    let keys := fun off len : Nat => keysFrom (keyOf (spaceUnit w.tile) off) len
    let src := bufOff o.src
    let at_ := fun m k : Nat => src + (m * 32 * o.steps + 32 * o.step + k) * t.laneBytes
    let code := fun m k : Nat => ofBytes (memGetAll s.mem (keys (at_ m k) t.laneBytes))
    let elems := (List.range 64).flatMap fun m => (List.range 32).map fun k =>
      if m < o.rows then splitElem t (code m k) 0 else Elem.zero
    let bytes := groupBytes t elems []
    ∀ ks, t ∈ [.bf16, .fp16, .e4m3, .e5m2, .int8] →
      (∀ m, m < o.rows → (keys (at_ m 0) (32 * t.laneBytes)).any (keyBad s) = false) →
      translate s w (addrAdd o.dst (o.step * 256 * partsOf t : Nat)) bytes.length .write = .ok ks → keysReady s ks = true →
      ∃ u p, exec (.matrixStep c) s = .next u ∧ wrote s u ks bytes ∧ (u.ctx c).eng.ops = p :: r ∧ p.step = o.step + 1)

/-! Routing and early exit. -/

/-- ROUTE with its records, table and entries read and legal takes the next number of the reed's timeline, puts one slot
per named expert into the route in the order of R235, and answers its identifier; a route that four later ones have not
replaced, unfinished, holds it (R231, R233, R234, R235, R242). Its checks fault in the order of R234. No destination
gets more slots than its capacity, and every named expert has one slot: with the destination while it has room, else
with its spill, else dropped (R235). The entries that the records name are read and checked in the order in which they
are named, a spill's after its own (R229, R234): one at or beyond the count, a reserved field, then a spill, capacity or
queue offset out of its range fault. The receive queue's descriptor is accepted where R236 accepts it (R230), and a tag
record is that of R231. A route changes by `settleRoute`: with a slot still to arrive it is kept as it then stands; when
the last has come, been dropped or timed out, its output rows are written, and its number completes on the reed's
timeline (R240). An element of an output row (R240): the exact products of the rows that arrived for it with their
weights; NaN where a product is or both infinities meet, an infinity, a zero, or the exact sum rounded once. Invalid is
indicated for a zero times an infinity and for both infinities. The words of a route's status hold the fields of R241.
-/
def Obligations.RoutesIssueAndComplete : Prop :=
  ((∀ (s : State) (sd : SReg) (atile ar : AReg) (st sl : SReg) (rows : BitVec 6) (rb hb : List Byte) (ds : List (Nat × Dealt)),
    let num := (s.cx.timeline 5).issued + 1
    let n := rows.toNat + 1
    let at_ := s.ra atile
    let ra := s.ra ar
    let rec_ := ofBytes rb
    let h := ofBytes hb
    let named := (List.range 4).flatMap fun k => (List.range n).filterMap fun i =>
      let p := rec_ / 2 ^ (256 * i + 64 * k) % 2 ^ 64
      if p % 65536 = 0xFFFF then none else some (i, k, p % 65536, p / 2 ^ 32)
    let old := s.cx.eng.routes.any fun r => r.num + 4 == num && !r.done
    let trap := fun (c : Nat) (a i : Word) => Host.Outcome.next (s.takeTrap
      { origin := slotOrigin s.slot, cond := c, addr := a, info := i, slot := some s.slot })
    let clean := fun i : Nat => ∀ q ∈ [(31, 16), (95, 80), (159, 144), (223, 208)], bitsOf (rec_ / 2 ^ (256 * i) % 2 ^ 256) q.1 q.2 = 0
    (old = true → exec (.route sd atile ar st sl rows) s = .next (s.hold .full)) ∧
    (old = false → sd ≠ 0 → mayWrite s.cx s.grp [.scalar sd.toNat] = false →
      exec (.route sd atile ar st sl rows) s = .next (s.takeTrap { origin := slotOrigin s.slot, cond := 0x06, slot := some s.slot })) ∧
    (old = false → sd = 0 ∨ mayWrite s.cx s.grp [.scalar sd.toNat] = true → s.storesBefore 0xFFFF = false →
      (bufIdx at_ ≠ 0xFFFF ∨ bufOff at_ % 256 ≠ 0 → exec (.route sd atile ar st sl rows) s =
        .next (s.takeTrap { origin := slotOrigin s.slot, cond := 0x19, slot := some s.slot })) ∧
      (bufIdx at_ = 0xFFFF → bufOff at_ % 256 = 0 →
        (∀ f, checkRange s s.who at_ (256 * n) .read = .error f → exec (.route sd atile ar st sl rows) s = trap f.cond f.addr (word f.info)) ∧
        (checkRange s s.who at_ (256 * n) .read = .ok () →
          (bufOff ra % 8 ≠ 0 → exec (.route sd atile ar st sl rows) s = trap 0x19 0 0) ∧
          (bufOff ra % 8 = 0 →
            (∀ f, readMem s s.who ra (32 * n) = .error f → exec (.route sd atile ar st sl rows) s = trap f.cond f.addr (word f.info)) ∧
            (readMem s s.who ra (32 * n) = .ok rb → ∀ i b, i < n → (∀ j, j < i → clean j) →
              reservedField (rec_ / 2 ^ (256 * i) % 2 ^ 256) [(31, 16), (95, 80), (159, 144), (223, 208)] = some b →
              exec (.route sd atile ar st sl rows) s = trap 0x05 (addrAdd ra (32 * i : Nat)) (word b))))) ∧
      (bufIdx at_ = 0xFFFF → bufOff at_ % 256 = 0 → checkRange s s.who at_ (256 * n) .read = .ok () → bufOff ra % 8 = 0 →
        readMem s s.who ra (32 * n) = .ok rb → (∀ i, i < n → clean i) →
        (bufOff (s.rs st) % 8 ≠ 0 → exec (.route sd atile ar st sl rows) s =
          .next (s.takeTrap { origin := slotOrigin s.slot, cond := 0x19, slot := some s.slot })) ∧
        (bufOff (s.rs st) % 8 = 0 →
          (∀ f, readMem s s.who (s.rs st) 64 = .error f → exec (.route sd atile ar st sl rows) s = trap f.cond f.addr (word f.info)) ∧
          (readMem s s.who (s.rs st) 64 = .ok hb →
            (∀ b, reservedField h [(511, 16)] = some b → exec (.route sd atile ar st sl rows) s = trap 0x05 (s.rs st) (word b)) ∧
            (reservedField h [(511, 16)] = none →
              (bitsOf h 15 12 ∉ [1, 3] ∨ bitsOf h 10 0 = 0 ∨ 1024 < bitsOf h 10 0 →
                exec (.route sd atile ar st sl rows) s = trap 0x19 0 0) ∧
              (bitsOf h 15 12 ∈ [1, 3] → 0 < bitsOf h 10 0 → bitsOf h 10 0 ≤ 1024 → ∀ t,
                readDests s (s.rs st) (bitsOf h 10 0) (named.map (·.2.2.1)) [] = .error (.trap t) →
                exec (.route sd atile ar st sl rows) s = .next (s.takeTrap t))))) ∧
        (bufOff (s.rs st) % 8 = 0 → readMem s s.who (s.rs st) 64 = .ok hb →
        reservedField h [(511, 16)] = none → bitsOf h 15 12 = 1 ∨ bitsOf h 15 12 = 3 → 0 < bitsOf h 10 0 →
        bitsOf h 10 0 ≤ 1024 → readDests s (s.rs st) (bitsOf h 10 0) (named.map (·.2.2.1)) [] = .ok ds →
        5 < s.cx.eng.time.length →
        ∃ (t : State) (r : Route), exec (.route sd atile ar st sl rows) s = .next (t.settleRoute s.me r) ∧ r ∈ t.cx.eng.routes ∧ r.num = num ∧
          r.at_ = at_ ∧ r.rows = n ∧ r.fmt = Tag.ofCode (bitsOf h 15 12) ∧ r.deadline = (s.rs sl).toNat ∧ r.done = false ∧
          r.group = s.grp ∧ r.born = s.cycle ∧ r.after = s.cx.placedNow s.grp 0xFFFF s.cycle ∧
          r.slots = (allocate ds named []).map (fun v =>
            if (s.rs sl).toNat ≠ 0 ∧ (s.rs sl).toNat ≤ s.time ∧ v.state < 2 then { v with state := 4 } else v) ∧
          (t.cx.timeline 5).issued = num ∧ t.cx.regs = s.cx.regs ∧ t.mem = s.mem ∧
          t.cx.board = s.cx.board ++ (if sd = 0 then [] else [{
            dest := .scalar sd.toNat, due := s.cycle + 1, issued := s.cycle
            value := some (s.me % 4096 * 2 ^ 52 + num % 2 ^ 40 * 2 ^ 12) }]))))) ∧
  ∀ (ds : List (Nat × Dealt)) (named : List (Nat × Nat × Nat × Nat)),
    (allocate ds named []).length = named.length ∧
    (∀ d, (allocate ds named []).countP (fun v => v.dest == d && v.state != 3) ≤ (Tab.get ⟨0xFFFF, 0, 0, 0⟩ ds d).capacity) ∧
    ∀ (n i k d w : Nat) (v : RSlot), named[n]? = some (i, k, d, w) → (allocate ds named [])[n]? = some v →
      let used := fun d => ((allocate ds named []).take n).countP fun v => v.dest == d && v.state != 3
      let e := Tab.get ⟨0xFFFF, 0, 0, 0⟩ ds d
      let f := Tab.get ⟨0xFFFF, 0, 0, 0⟩ ds e.spill
      let room := e.spill ≠ 0xFFFF ∧ used e.spill < f.capacity
      (v.row, v.k, v.weight) = (i, k, w) ∧
      (used d < e.capacity → (v.dest, v.tile, v.queue, v.spill, v.state) = (d, e.tile, e.queue, false, 0)) ∧
      (e.capacity ≤ used d → room → (v.dest, v.tile, v.queue, v.spill, v.state) = (e.spill, f.tile, f.queue, true, 0)) ∧
      (e.capacity ≤ used d → ¬ room → v.state = 3)) ∧
  ((∀ (s : State) (table : Word) (count d : Nat),
    let a := addrAdd table (64 + 32 * d : Nat)
    let trap := fun (c : Nat) (a i : Word) => readDest s table count d =
      .error (.trap { origin := slotOrigin s.slot, cond := c, addr := a, info := i, slot := some s.slot })
    (count ≤ d → trap 0x19 0 0) ∧
    (d < count → (∀ f, readMem s s.who a 32 = .error f → trap f.cond f.addr (word f.info)) ∧
      ∀ bs, readMem s s.who a 32 = .ok bs →
        let e := ofBytes bs
        let bad := count ≤ bitsOf e 207 192 ∧ bitsOf e 207 192 ≠ 0xFFFF ∨ 64 < bitsOf e 183 176 ∨ bitsOf e 84 64 % 64 ≠ 0
        (∀ b, reservedField e [(111, 85), (175, 119), (255, 208)] = some b → trap 0x05 a (word b)) ∧
        (reservedField e [(111, 85), (175, 119), (255, 208)] = none → (bad → trap 0x19 0 0) ∧
          (¬ bad → readDest s table count d = .ok ⟨bitsOf e 207 192, bitsOf e 183 176, bitsOf e 118 112, bitsOf e 84 64⟩)))) ∧
  (∀ (s : State) (table : Word) (count d : Nat) (r : List Nat) (ds : List (Nat × Dealt)),
    readDests s table count [] ds = .ok ds ∧
    (Tab.has ds d = false →
      (∀ e, readDest s table count d = .error e → readDests s table count (d :: r) ds = .error e) ∧
      ∀ v, readDest s table count d = .ok v →
        let es := Tab.set ds d v
        (v.spill = 0xFFFF ∨ Tab.has es v.spill = true →
          readDests s table count (d :: r) ds = readDests s table count r es) ∧
        (v.spill ≠ 0xFFFF → Tab.has es v.spill = false →
          (∀ e, readDest s table count v.spill = .error e → readDests s table count (d :: r) ds = .error e) ∧
          ∀ w, readDest s table count v.spill = .ok w →
            readDests s table count (d :: r) ds = readDests s table count r (Tab.set es v.spill w)))) ∧
  (∀ (s : State) (w : Who) (tile queue : Nat) (bs : List Byte),
    let at_ := addrOf (0xFE00 + tile) queue
    ((∃ f, readMem s w at_ 64 = .error f) → openQueue s w tile queue = none) ∧
    (readMem s w at_ 64 = .ok bs →
      let d := ofBytes bs
      let l := bitsOf d 155 152
      let share := shareSize (s.poolOf tile)
      let fits := fun off n : Nat => off / share = queue / share ∧ off % share + n ≤ share
      let good := l ≤ 10 ∧ bitsOf d 148 128 % 256 = 0 ∧ bitsOf d 212 192 % 16 = 0 ∧ fits (bitsOf d 148 128) (256 * 2 ^ l) ∧
        fits (bitsOf d 212 192) (16 * 2 ^ l)
      (good → openQueue s w tile queue = some (⟨bitsOf d 63 0, l, bitsOf d 148 128, bitsOf d 212 192⟩, bitsOf d 127 64)) ∧
      (¬ good → openQueue s w tile queue = none))) ∧
  ∀ (c num : Nat) (v : RSlot), c < 4096 → v.row < 64 → v.k < 4 → v.weight < 2 ^ 32 → v.dest < 2 ^ 16 →
    let n := ofBytes (tagRecord c num v)
    (tagRecord c num v).length = 16 ∧ bitsOf n 63 52 = c ∧ bitsOf n 51 12 = num % 2 ^ 40 ∧ bitsOf n 11 8 = 0 ∧
    bitsOf n 7 2 = v.row ∧ bitsOf n 1 0 = v.k ∧ bitsOf n 95 64 = v.weight ∧ bitsOf n 111 96 = v.dest ∧
    bitsOf n 127 112 = if v.spill = true then 1 else 0) ∧
  (∀ (s : State) (c : Nat) (r : Route),
    ((∃ v ∈ r.slots, v.state < 2) → (s.settleRoute c r).mem = s.mem ∧ (s.settleRoute c r).ctx c = (s.ctx c).setRoute r) ∧
    ((∀ v ∈ r.slots, 2 ≤ v.state) → r.done = false → ∀ keys : List (List Nat), keys.length = r.rows →
      (∀ i, i < r.rows → translate s (s.ctx c).bind.who (addrAdd r.at_ (256 * i : Nat)) 256 .write = .ok (keys.getD i [])) →
      (∀ k ∈ keys, keysReady s k = true) → (∀ k ∈ keys, ∀ a ∈ k, 320 ≤ keySpace a) →
      let t := s.settleRoute c r
      (∀ k, (∀ ks ∈ keys, k ∉ ks) → memGet t.mem k = memGet s.mem k) ∧
      (keys.Pairwise (fun a b => ∀ k ∈ a, k ∉ b) → ∀ i, i < r.rows → (keys.getD i []).Nodup →
        memGetAll t.mem (keys.getD i []) = toBytes 256 (r.output i).1.toNat) ∧
      (t.ctx c).eng.time = (s.ctx c).eng.time.set 5 (((s.ctx c).timeline 5).complete r.num) ∧
      ∀ u ∈ (t.ctx c).eng.routes, u.num = r.num → u.done = true)) ∧
  ((∀ (r : Route) (i : Nat), r.fmt = .fp32 ∨ r.fmt = .bf16 →
    let t := r.fmt
    let products := fun j : Nat => (r.slots.filter fun v => v.row == i && v.state == 2).map fun v =>
      (decodeFloat t (flushSource r.nver t (laneOf t v.data.toNat j))).mul (decodeFloat .fp32 (flushSource r.nver .fp32 v.weight))
    let both := fun vs : List Val => .inf true ∈ vs ∧ .inf false ∈ vs
    ((r.output i).2.getLsbD 4 = true ↔ ∃ j, j < t.lanes ∧
      ((∃ p ∈ products j, p.2 = true) ∨ both ((products j).map (·.1)))) ∧
    ∀ j, j < t.lanes →
      let vs := (products j).map (·.1)
      let nan := ∃ v ∈ vs, v.isNan = true
      let out := laneOf t (r.output i).1.toNat j
      (nan ∨ both vs → out = t.nan) ∧
      (¬ nan → ¬ both vs →
        (∀ b, .inf b ∈ vs → out = (if b = true then t.signBit else 0) + t.infCode) ∧
        (.inf true ∉ vs → .inf false ∉ vs →
          ((∀ v ∈ vs, v.isZero = true) → out = if vs ≠ [] ∧ ∀ v ∈ vs, v.neg? = true then t.signBit else 0) ∧
          ((∃ v ∈ vs, v.isZero = false) → ∃ v : Val, v.isNan = false ∧ v ≠ .inf true ∧ v ≠ .inf false ∧
            (∀ e : Int, (∀ x ∈ vs, e ≤ x.expOr e) → e ≤ v.expOr e ∧ v.scaled e = (vs.map (·.scaled e)).sum) ∧
            (v.isZero = true → out = 0) ∧ (v.isZero = false → out = (roundFloat false r.nver v t).1))))) ∧
  ∀ r : Route, r.slots.length ≤ 256 → r.stale ≤ 255 → 0 < r.rows → r.rows ≤ 64 →
    let count := fun n : Nat => r.slots.countP (·.state == n)
    let w := r.word 0
    bitsOf w 63 62 = (if r.done = true then (if count 4 = 0 then 1 else 2) else 0) ∧ bitsOf w 61 56 = r.rows - 1 ∧
    bitsOf w 55 47 = r.slots.length ∧ bitsOf w 46 38 = count 2 ∧ bitsOf w 37 29 = count 3 ∧ bitsOf w 28 20 = count 4 ∧
    bitsOf w 19 12 = r.stale ∧ bitsOf w 11 5 = 0 ∧ bitsOf w 4 0 = r.ind.toNat ∧
    (∀ i, i < 64 → ((r.word 1).testBit i = true ↔ ∃ v ∈ r.slots, v.row = i ∧ v.state = 3) ∧
      ((r.word 2).testBit i = true ↔ ∃ v ∈ r.slots, v.row = i ∧ v.state = 4) ∧
      ((r.word 3).testBit i = true ↔ ∃ v ∈ r.slots, v.row = i ∧ v.spill = true)) ∧
    ∀ q j, q < 4 → j < 16 → (∀ i, r.slots.countP (fun v => v.row == i && v.state == 2) ≤ 4) →
      bitsOf (r.word (4 + q)) (4 * j + 3) (4 * j) = r.slots.countP fun v => v.row == 16 * q + j && v.state == 2)

/-- The heddle judges the descriptor of a slot's receive queue once (R236): it drops a slot whose queue it refuses, lets
one wait whose queue is full, rereading the head alone (R230), and delivers the next slot whose queue has room: the
token's row to the data ring, the tag record to the tag ring, the tail one on (R231). Nothing is delivered before the
rows that the ROUTE's own bundle stored are written (R131). From its deadline on nothing is delivered: the route ends
every slot that has not arrived (R237). RRET with a tag of its form sends the row's bytes to the reed of the tag (R238);
the reed takes a row of a live slot that was delivered, from the context's team or peer, and counts any other as stale
(R239). RWAIT waits for a route that is not finished; RSTAT reads a word of its status; an identifier that is not the
context's own is "bad routing tag" (R241, R242). -/
def Obligations.DeliveriesAndReturns : Prop :=
  (∀ (s t : State) (c num : Nat) (r : Route) (v : RSlot) (q : QueueRing) (head : Nat) (row : List Byte),
    (s.ctx c).bound = true → (s.ctx c).route? num = some r → r.done = false →
    ((s.ctx c).writtenTo r.after = false → exec (.heddleDelivery c num) s = .next s) ∧
    let w := (s.ctx c).bind.who
    let base := addrOf (0xFE00 + v.tile) 0
    let slot := q.tail % 2 ^ q.size
    let opened := v.ring = none ∧ openQueue s w v.tile v.queue = some (q, head) ∨
      v.ring = some q ∧ readNum s w (addrOf (0xFE00 + v.tile) (v.queue + 8)) 8 = .ok head
    let room := (q.tail + 2 ^ 64 - head) % 2 ^ 64 < 2 ^ q.size
    let marked := fun (n : Nat) => { r with slots := r.slots.map fun u => if u.row = v.row ∧ u.k = v.k then { u with state := n } else u }
    let next := v.state = 0 ∧ s.behind c r v = false ∧ v ∈ r.slots ∧
      ∀ u, u ∈ r.slots.takeWhile (· != v) → u.state ≠ 0 ∨ s.behind c r u = true ∨ ∃ p h, u.ring = some p ∧
        readNum s w (addrOf (0xFE00 + u.tile) (u.queue + 8)) 8 = .ok h ∧ 2 ^ p.size ≤ (p.tail + 2 ^ 64 - h) % 2 ^ 64
    ((s.ctx c).writtenTo r.after = true → r.deadline = 0 ∨ s.time < r.deadline → next →
      (opened → room → readMem s w (addrAdd r.at_ (256 * v.row : Nat)) 256 = .ok row →
        writeUnit s (routeAgent c r.group r.num) s.mem w [(addrAdd base (q.data + 256 * slot : Nat), row),
          (addrAdd base (q.tags + 16 * slot : Nat), tagRecord c r.num v), (addrAdd base v.queue, toBytes 8 (q.tail + 1))] = .ok t →
        exec (.heddleDelivery c num) s = .next (t.settleRoute c (marked 1))) ∧
      (v.ring = none → openQueue s w v.tile v.queue = some (q, head) → ¬ room →
        exec (.heddleDelivery c num) s = .next (s.onCtx c (·.setRoute { r with slots := r.slots.map fun u =>
          if u.row = v.row ∧ u.k = v.k then { u with ring := some q } else u }))) ∧
      (v.ring = none → openQueue s w v.tile v.queue = none →
        exec (.heddleDelivery c num) s = .next (s.settleRoute c (marked 3)))) ∧
    (r.deadline ≠ 0 → r.deadline ≤ s.time → exec (.heddleDelivery c num) s = .next s ∧
      exec (.routeDeadline c num) s = .next (s.settleRoute c { r with
        slots := r.slots.map fun u => if u.state < 2 then { u with state := 4 } else u })) ∧
    (r.deadline = 0 ∨ s.time < r.deadline → exec (.routeDeadline c num) s = .next s) ∧
    (r.slots.all (fun u => u.state != 0) = true → exec (.heddleDelivery c num) s = .next s)) ∧
  ((∀ (s : State) (st : SReg) (ar : AReg) (ks : List Nat), s.storesBefore 0xFFFF = false →
    (bitsOf (s.rs st).toNat 11 8 ≠ 0 → exec (.rret st ar) s =
      .next (s.takeTrap { origin := slotOrigin s.slot, cond := 0x1A, slot := some s.slot })) ∧
    (bitsOf (s.rs st).toNat 11 8 = 0 → bufOff (s.ra ar) % 64 = 0 → translate s s.who (s.ra ar) 256 .read = .ok ks →
      ks.any (keyBad s) = false → ∃ t, exec (.rret st ar) s = .next t ∧ t.mem = s.mem ∧ t.cx.regs.s = s.cx.regs.s ∧
        t.returns = s.returns ++ [⟨s.rs st, s.who.team, s.tile, BitVec.ofNat 2048 (ofBytes (memGetAll s.mem ks))⟩])) ∧
  (∀ (s : State) (i : Nat) (p : Return) (r : Route) (v : RSlot),
    let c := p.tag.toNat / 2 ^ 52
    let x := s.ctx c
    let u := ({ s with returns := s.returns.eraseIdx i } : State)
    let live := (p.team = x.bind.who.team ∨ p.team = x.bind.who.peer) ∧ r.done = false ∧ v.state = 1 ∧
      (r.deadline = 0 ∨ s.time < r.deadline)
    (s.returns[i]? = none → exec (.reedReturnArrival i) s = .next s) ∧
    (s.returns[i]? = some p → x.bound = true →
      x.eng.routes.find? (fun r => r.num % 2 ^ 40 == bitsOf p.tag.toNat 51 12) = some r →
      r.slots.find? (fun v => v.row == bitsOf p.tag.toNat 7 2 && v.k == p.tag.toNat % 4) = some v →
      (live → exec (.reedReturnArrival i) s = .next (u.settleRoute c { r with slots := r.slots.map fun w =>
        if w.row = v.row ∧ w.k = v.k then { w with state := 2, data := p.data } else w })) ∧
      (¬ live → exec (.reedReturnArrival i) s = .next (u.onCtx c (·.setRoute { r with stale := min (r.stale + 1) 255 }))))) ∧
  ∀ (s : State) (si sd : SReg) (w : BitVec 3),
    let v := (s.rs si).toNat
    let n := bitsOf v 51 12
    let bad := State.takeTrap s { origin := slotOrigin s.slot, cond := 0x1A, slot := some s.slot }
    (v / 2 ^ 52 ≠ s.me ∨ v % 4096 ≠ 0 ∨ n = 0 ∨ (s.cx.timeline 5).issued < n →
      exec (.rwait si) s = .next bad ∧ exec (.rstat sd si w) s = .next bad) ∧
    (v / 2 ^ 52 = s.me → v % 4096 = 0 → 0 < n → n ≤ (s.cx.timeline 5).issued →
      (s.cx.route? n = none → exec (.rwait si) s = .next s ∧ exec (.rstat sd si w) s = .next bad) ∧
      ∀ r, s.cx.route? n = some r →
        (r.done = true → exec (.rwait si) s = .next s) ∧
        (r.done = false → exec (.rwait si) s = .next (s.hold (.route (s.rs si)))) ∧
        exec (.rstat sd si w) s = .next (s.promise 1 (.scalar sd.toNat) (r.word w.toNat))))

/-- CONFT with its descriptor, table, template and logits read: pd is 0 at once where the confidence or the states that
it needs are missing; 1 at once at the last layer; else the provisional copies are made and the record is posted, and pd
comes with the posting (R257, R258, R259). A NaN or +∞ among the logits, or no finite one, never exits; of 2^k equal
finite logits MAXP is 2^-k and ENT k exactly. CONFT's reads and checks at issue (R257), in the order that log 45
chooses: the descriptor, the table's header, the template, the ranges, the record area of 512 KiB as a write, the
logits; each refusal is its fault, and what they hold is what CONFT works on. The provisional copies of R259, each later
layer and head group in turn: the action of R255 on the rows of the exit layer; a source that is gone or cannot be read,
and an action that ends without its write, leave the slot. The posting takes the next `bfill` number, and its record
holds the fields of R259. A posting whose group's next slot is free is written there, 64 bytes at args + 262,144·die +
64·(count mod 4,096), and its predicate lands 1; one that cannot be translated, or meets an uncorrectable error, waits
4,000 ticks and firmware learns of it (R259, R260). The record joins those that wait; with the 64th a card is formed.
Chervil forms a card of the oldest waiting records of a group, 64 at most, when the oldest is 4,000 ticks old or a
failure 4,000 ticks past (R260); the card is the template with its argument base and count replaced; formed cards go to
the die's backfill queue while it has room (R301). A template that cannot be read keeps the group for 4,000 ticks. A
backfill strand's HALT completes the records of its chunk: each advances its issuer's `bfill` timeline, at once where
the issuer is bound, at its restore where it is swapped out, nowhere where it is gone; their slots are free (R260,
R261). -/
def Obligations.ConfidenceAndExits : Prop :=
  ((∀ (s : State) (pd : PReg) (al : AReg) (sh sx : SReg) (o : ExitOp) (bs : List Byte), s.storesBefore 0xFFFF = false →
    readExit s al sx = .ok (o, bs) →
    let there := ∀ h, h < o.table.heads → ∃ id, sourceHere s s.who o.table o.layer h o.pos = some id
    ∀ p ∈ [(Instr.conftMaxp pd al sh sx, false), (.conftEnt pd al sh sx, true)],
      let e := exits p.2 s.cx.regs.nver (codes32 bs) ((s.rs sh).toNat % 2 ^ 32)
      (e = false ∨ ¬ there → exec p.1 s = .next (s.promise 1 (.pred pd.toNat) 0)) ∧
      (e = true → there → o.layer + 1 = o.table.layers → exec p.1 s = .next (s.promise 1 (.pred pd.toNat) 1)) ∧
      (e = true → there → o.layer + 1 ≠ o.table.layers →
        exec p.1 s = .next ((provisionals s o).postExit o pd.toNat))) ∧
  ∀ (ent : Bool) (nver thr : Nat) (ls : List Nat),
    (∀ l ∈ ls, decodeFloat .fp32 (flushSource nver .fp32 l) = .nan ∨ decodeFloat .fp32 (flushSource nver .fp32 l) = .inf false →
      exits ent nver ls thr = false) ∧
    (ls = [] → exits ent nver ls thr = false) ∧
    (∀ l, ls = [l] → (decodeFloat .fp32 (flushSource nver .fp32 l)).isNan = false →
      (∀ b, decodeFloat .fp32 (flushSource nver .fp32 l) ≠ .inf b) →
      (decodeFloat .fp32 (flushSource nver .fp32 thr)).isNan = false →
      exits ent nver ls thr = if ent then !(decodeFloat .fp32 (flushSource nver .fp32 thr)).lt (.zero false)
        else !(decodeFloat .fp32 0x3F800000).lt (decodeFloat .fp32 (flushSource nver .fp32 thr))) ∧
    (decodeFloat .fp32 (flushSource nver .fp32 thr) = .nan → exits ent nver ls thr = false) ∧
    ∀ l k : Nat, k ≤ 12 → ls = List.replicate (2 ^ k) l → (decodeFloat .fp32 (flushSource nver .fp32 l)).isNan = false →
      (∀ b, decodeFloat .fp32 (flushSource nver .fp32 l) ≠ .inf b) →
      let t := decodeFloat .fp32 (flushSource nver .fp32 thr)
      t.isNan = false → exits ent nver ls thr = if ent = true then !t.lt (Val.ofInt k)
        else !(decodeFloat .fp32 (0x3F800000 - k * 2 ^ 23)).lt t) ∧
  (∀ (s : State) (pd : PReg) (al : AReg) (sh sx : SReg),
    let trap := fun (c : Nat) (a i : Word) => readExit s al sx =
      .error (.trap { origin := slotOrigin s.slot, cond := c, addr := a, info := i, slot := some s.slot })
    let refused := fun f : MFault => trap f.cond f.addr (word f.info)
    (s.storesBefore 0xFFFF = false → ∀ t, readExit s al sx = .error (.trap t) →
      exec (.conftMaxp pd al sh sx) s = .next (s.takeTrap t) ∧ exec (.conftEnt pd al sh sx) s = .next (s.takeTrap t)) ∧
    (∀ f, readNum s s.who (s.rs sx) 64 = .error f → refused f) ∧
    ∀ d, readNum s s.who (s.rs sx) 64 = .ok d →
      (∀ b, reservedField d [(319, 240), (511, 333)] = some b → trap 0x05 (s.rs sx) (word b)) ∧
      (reservedField d [(319, 240), (511, 333)] = none →
        let table := word (bitsOf d 63 0)
        (∀ f, readMem s s.who table 64 = .error f → refused f) ∧
        ∀ hb, readMem s s.who table 64 = .ok hb →
          let h := ofBytes hb
          let t := BlockTable.of table h
          (∀ b, reservedField h [(255, 240), (511, 288)] = some b → trap 0x05 table (word b)) ∧
          (reservedField h [(255, 240), (511, 288)] = none → t.inRange = false → trap 0x1B 0 0) ∧
          (reservedField h [(255, 240), (511, 288)] = none → t.inRange = true →
            let template := word (bitsOf d 191 128)
            (∀ f, readCard s s.who template = .error f → refused f) ∧
            ∀ card, readCard s s.who template = .ok card →
              let args := word (bitsOf card 511 448)
              let bad := bitsOf d 332 320 = 0 ∨ 4096 < bitsOf d 332 320 ∨ t.layers ≤ bitsOf d 239 224 ∨
                16 * t.perList ≤ bitsOf d 223 192 ∨ (s.ra al).toNat % 4 ≠ 0 ∨ args.toNat % 64 ≠ 0
              (bad → trap 0x1B 0 0) ∧
              (¬ bad →
                (∀ f, translateArea s s.who args 8192 .write = .error f → refused f) ∧
                (translateArea s s.who args 8192 .write = .ok () →
                  (∀ f, readMem s s.who (s.ra al) (4 * bitsOf d 332 320) = .error f → refused f) ∧
                  ∀ bs, readMem s s.who (s.ra al) (4 * bitsOf d 332 320) = .ok bs → readExit s al sx = .ok
                    ({ table := t, layer := bitsOf d 239 224, pos := bitsOf d 223 192, hidden := word (bitsOf d 127 64),
                       template := template, args := args }, bs)))))) ∧
  ((∀ (s : State) (o : ExitOp) (l h : Nat),
    (sourceHere s s.who o.table o.layer h o.pos = none → provisional s o l h = s) ∧
    ∀ id, sourceHere s s.who o.table o.layer h o.pos = some id →
      let a := o.table.rowAt id (o.pos % 16)
      (∀ f, translate s s.who a 512 .read = .error f → provisional s o l h = s) ∧
      ∀ ks, translate s s.who a 512 .read = .ok ks →
        let act := appendAct s (appendAgent s.me s.grp) s.mem s.who o.table
          { layer := l, head := h, pos := o.pos, final := false, rows := memGetAll s.mem ks }
        (ks.any (keyBad s) = true → provisional s o l h = s) ∧
        (ks.any (keyBad s) = false → (∀ u n, act = .ok (u, n) → (provisional s o l h).mem = u.mem) ∧
          (∀ u n, act = .error (.status u n) → provisional s o l h = u) ∧
          ∀ u f, act = .error (.fault u f) → provisional s o l h = u)) ∧
  (∀ (s : State) (o : ExitOp), provisionals s o =
    ((List.range (o.table.layers - o.layer - 1)).flatMap fun l => (List.range o.table.heads).map fun h =>
      (o.layer + 1 + l, h)).foldl (fun s p => provisional s o p.1 p.2) s) ∧
  ∀ (s : State) (o : ExitOp) (pd : Nat), dieOf s.tile < s.chervil.length → 6 < s.cx.eng.time.length → s.me < 4096 →
    o.pos < 2 ^ 32 → o.layer < 2 ^ 16 → o.table.layers < 2 ^ 16 → o.table.heads < 2 ^ 16 →
    let t := s.postExit o pd
    let num := (s.cx.timeline 6).issued + 1
    let v := s.chervil.getD (dieOf s.tile) {}
    (t.cx.timeline 6).issued = num ∧ t.mem = s.mem ∧ t.cx.regs = s.cx.regs ∧ t.cx.eng.exits = s.cx.eng.exits + 1 ∧
    (∃ b, t.cx.board = s.cx.board ++ [b] ∧ b.dest = .pred pd ∧ b.value = none) ∧
    ∃ p, (t.chervil.getD (dieOf s.tile) {}) = { v with postings := v.postings ++ [p] } ∧ p.who = s.who ∧
      p.template = o.template ∧ p.args = o.args ∧ p.pd = pd ∧ p.retry = 0 ∧ p.exit.ctx = s.me ∧ p.exit.num = num ∧
      p.exit.uid = s.cx.bind.uid ∧ p.exit.bytes.length = 64 ∧
      let n := ofBytes p.exit.bytes
      bitsOf n 63 0 = o.table.at_.toNat ∧ bitsOf n 95 64 = o.pos ∧ bitsOf n 111 96 = o.layer ∧
      bitsOf n 127 112 = o.table.layers ∧ bitsOf n 143 128 = o.table.heads ∧ bitsOf n 191 144 = 0 ∧
      bitsOf n 255 192 = o.hidden.toNat ∧ bitsOf n 319 308 = s.me ∧ bitsOf n 307 256 = num % 2 ^ 52 ∧ bitsOf n 511 320 = 0) ∧
  (∀ (s : State) (die k n : Nat) (p : Posting), die < s.chervil.length →
    let v := s.chervil.getD die {}
    let at_ := addrAdd p.args (262144 * die + 64 * (n % 4096) : Nat)
    v.nextPosting (fun q => q.retry == 0) = some (k, p) →
    (v.group? p.who.team p.template = none ∧ n = 0 ∨
      ∃ i g, v.group? p.who.team p.template = some i ∧ v.groups[i]? = some g ∧ n = g.count) →
    (∀ ks, translate s p.who at_ 64 .write = .ok ks → ks.any (keyBad s) = false → ∃ t, exec (.exitRecordPosting die) s = .next t ∧
      wrote s t ks p.exit.bytes ∧
      ((s.ctx p.exit.ctx).bound = true → (s.ctx p.exit.ctx).bind.uid = p.exit.uid →
        (t.ctx p.exit.ctx).eng.exits = (s.ctx p.exit.ctx).eng.exits - 1 ∧
        ∀ b ∈ (s.ctx p.exit.ctx).board, b.dest = .pred p.pd → b.value = none →
          { b with value := some 1, due := s.cycle } ∈ (t.ctx p.exit.ctx).board) ∧
      ∀ (old : List ExitRec), (v.group? p.who.team p.template = none → old = []) →
        (∀ i g, v.group? p.who.team p.template = some i → v.groups[i]? = some g → g.wait = old ∧ g.retry = 0) →
        let wait := old ++ [{ p.exit with slot := n, at_ := at_, tick := s.ticks }]
        let u := t.chervil.getD die {}
        (old.length < 63 → u.formed = v.formed ∧ u.postings = v.postings.eraseIdx k ∧
          ∃ (i : Nat) (g : Group), u.groups[i]? = some g ∧ g.template = p.template ∧ g.count = n + 1 ∧ g.wait = wait ∧ n ∈ g.inUse) ∧
        (old.length = 63 → ∀ c, readCard t p.who p.template = .ok c →
          ∃ q, u.formed = v.formed ++ [q] ∧ 0 < q.recs.length ∧ q.recs.length ≤ 64 ∧
            cardArgs (cardNum q.card) = (wait.headD default).at_ ∧ cardCount (cardNum q.card) = q.recs.length)) ∧
    (∀ cond, (∃ f, translate s p.who at_ 64 .write = .error f ∧ cond = f.cond) ∨
        (∃ ks, translate s p.who at_ 64 .write = .ok ks ∧ ks.any (keyBad s) = true ∧ cond = 0x11) →
      ∃ t, exec (.exitRecordPosting die) s = .next t ∧ t.mem = s.mem ∧
        t.ctxs = s.ctxs ∧ .chervil p.who.team p.template cond ∈ t.told ∧
        (t.chervil.getD die {}).postings = v.postings.set k { p with retry := s.ticks + 4000 })) ∧
  (∀ (s : State) (die : Nat), die < s.chervil.length →
    let v := s.chervil.getD die {}
    (∀ i g e r, v.groups.findIdx? (fun g => g.retry == 0 && (match g.wait with
        | [] => false
        | e :: _ => decide (e.tick + 4000 ≤ s.ticks))) = some i → v.groups[i]? = some g → g.wait = e :: r →
      ∀ c, readCard s g.who g.template = .ok c → ∃ t q, exec (.chervilAgeTimeout die) s = .next t ∧ t.mem = s.mem ∧
        (t.chervil.getD die {}).formed = v.formed ++ [q] ∧ q.team = g.who.team ∧ 0 < q.recs.length ∧ q.recs.length ≤ 64 ∧
        q.card.length = 128 ∧
        (cardArgs (cardNum q.card)) = e.at_ ∧ cardCount (cardNum q.card) = q.recs.length ∧
        bitsOf (cardNum q.card) 351 0 = bitsOf c 351 0 ∧ bitsOf (cardNum q.card) 575 512 = bitsOf c 575 512) ∧
    (∀ i g f, v.groups[i]? = some g → readCard s g.who g.template = .error f →
      let fails := fun ev : Instr => ∃ t, exec ev s = .next t ∧ t.mem = s.mem ∧
        t.told = s.told ++ [.chervil g.who.team g.template f.cond] ∧
        t.chervil.getD die {} = { v with groups := v.groups.set i { g with retry := s.ticks + 4000 } }
      (v.groups.findIdx? (fun g => g.retry == 0 && (match g.wait with
        | [] => false
        | e :: _ => decide (e.tick + 4000 ≤ s.ticks))) = some i → fails (.chervilAgeTimeout die)) ∧
      (v.nextPosting (fun p => p.retry != 0 && decide (p.retry ≤ s.ticks)) = none →
        v.groups.findIdx? (fun g => g.retry != 0 && decide (g.retry ≤ s.ticks)) = some i → fails (.chervilRetry die))) ∧
    (v.groups.all (fun g => match g.wait with | [] => true | e :: _ => decide (s.ticks < e.tick + 4000)) = true →
      exec (.chervilAgeTimeout die) s = .next s) ∧
    (v.formed = [] → exec (.chervilCardSubmission die) s = .next s) ∧
    (∀ c r, v.formed = c :: r → ∃ t, exec (.chervilCardSubmission die) s = .next t ∧
      let q := Tab.get ({} : LaunchQ) s.launch (die * 16 + 14)
      let p := Tab.get ({} : LaunchQ) t.launch (die * 16 + 14)
      (4096 ≤ q.cards.length → t = s) ∧
      (q.cards.length < 4096 → p.tail = q.tail + 1 ∧ p.cards = q.cards ++ [{ c with pos := q.tail }] ∧
        (t.chervil.getD die {}).formed = r)) ∧
    ((∀ p ∈ v.postings, p.retry = 0 ∨ s.ticks < p.retry) → (∀ g ∈ v.groups, g.retry = 0 ∨ s.ticks < g.retry) →
      exec (.chervilRetry die) s = .next s) ∧
    ∀ k p, v.nextPosting (fun p => p.retry != 0 && decide (p.retry ≤ s.ticks)) = some (k, p) →
      exec (.chervilRetry die) s = .next (writeExit s die k { p with retry := 0 })) ∧
  ((∀ (s : State) (c : Nat),
    let x := s.ctx c
    let t := s.leaveAll c
    ∀ run, t.run? x.bind.queue x.bind.card = some run →
      let chunk := (run.recs.drop (x.regs.cursor.toNat % 2 ^ 32)).take (x.regs.cursor.toNat / 2 ^ 32)
      s.leaveHalt c = (let u := (if run.recs = [] then t else (t.recordsDone chunk).freeRecords (run.queue / 1024) chunk).onCtx c fun x => { x with asks := true }
        { u with turn := askTurn c (.chunk c) u.turn })) ∧
  (∀ (s : State) (r : RecRef) (rs : List RecRef),
    s.recordsDone [] = s ∧ s.recordsDone (r :: rs) = (s.recordsDone [r]).recordsDone rs ∧
    (∀ c, s.byUid r.uid = some c → s.recordsDone [r] = s.onCtx c (·.complete 6 r.num (agentId 6 c r.grp r.num))) ∧
    (s.byUid r.uid = none →
      s.recordsDone [r] = { s with images := (s.recordsDone [r]).images } ∧
      ∀ k y, (k, y) ∈ (s.recordsDone [r]).images ↔ ∃ x, (k, x) ∈ s.images ∧
        y = if x.bind.uid = r.uid then { x with swaps := x.swaps ++ [r.num] } else x)) ∧
  ∀ (s : State) (die d i n : Nat) (recs : List RecRef) (ch : Chervil) (g : Group),
    s.chervil[d]? = some ch → ch.groups[i]? = some g →
    ∃ ch' g', (s.freeRecords die recs).chervil[d]? = some ch' ∧ ch'.groups[i]? = some g' ∧
      (n ∈ g'.inUse ↔ n ∈ g.inUse ∧ (d = die → ∀ r ∈ recs, r.slot ≠ i * 2 ^ 64 + n)))

/-! Tasks, futures, crews. -/

/-- RNGKEY sets the key, and the counter to 0 where it is asked (R315); ENRD reads the energy counter (R316, R318). JOBQ
and LAUNCH check the card in the order of R302 (5 for its fields, 4 and 3 for its header, 2 for the queue, 1 when it is
full) and answer the status over the position; a card that passes is put at the queue's tail: JOBQ writes 128 bytes at
base + 128·(tail mod size), LAUNCH adds it to the issuer's die at the level; a card queued in a cycle is noted for a
teardown of that cycle. That the ring is written as the owner's access is log 33's choice, and position 0 of a LAUNCH
above level 13 log 46's. A refused card changes nothing. Both are behind an unfinished FENCE of the stream. -/
def Obligations.TasksAreSubmitted : Prop :=
  (∀ (s : State) (sa sb sd : SReg) (rst : BitVec 1),
    (∃ t, exec (.rngkey sa sb rst) s = .next t ∧
      t.cx.regs.rngK = ((s.rs sb).extractLsb' 0 32 ++ (s.rs sa).extractLsb' 0 32 : BitVec 64) ∧
      t.cx.regs.rngC = (if rst = 1 then 0 else s.cx.regs.rngC) ∧ t.cx.regs.s = s.cx.regs.s ∧ t.mem = s.mem) ∧
    exec (.enrd sd) s = .next (s.promise 1 (.scalar sd.toNat) s.cx.encnt) ∧
    (s.cx.regs.enCount < 2 ^ 48 → s.cx.encnt % 2 ^ 48 = s.cx.regs.enCount ∧ (bitOf s.cx.encnt 63 = s.cx.regs.enSat))) ∧
  (∀ (s : State) (sd sq : SReg) (ac : AReg) (c h : Nat),
    (s.fenced 0xFFFF = true → exec (.jobq sd ac sq) s = .next (s.hold .full) ∧
      exec (.launch sd ac sq) s = .next (s.hold .full)) ∧
    (s.fenced 0xFFFF = false → readTask s ac = .ok (c, h) →
    let q := (s.rs sq).toNat % 256
    let j := Tab.get ({} : JobQ) s.jobqs q
    let d := j.desc.toNat
    let owner := bitsOf d 127 112
    let pre := cardStatus (s.ra ac) c h
    let open_ := bitOf d 100 = true ∧ bitsOf d 111 108 ≠ 14 ∧ (owner = s.who.team ∨ owner = s.who.peer)
    let refused := fun (o : Host.Outcome State Fault Refusal) (v pos : Nat) =>
      o = .next (s.promise 1 (.scalar sd.toNat) (v * 2 ^ 60 + pos % 2 ^ 48))
    let lq := Tab.get ({} : LaunchQ) s.launch (dieOf s.tile * 16 + (s.rs sq).toNat % 16)
    (pre ≠ 0 → refused (exec (.jobq sd ac sq) s) pre j.tail) ∧
    (pre = 0 → ¬ open_ → refused (exec (.jobq sd ac sq) s) 2 j.tail) ∧
    (pre = 0 → open_ → 2 ^ bitsOf d 107 104 ≤ j.tail - j.head → refused (exec (.jobq sd ac sq) s) 1 j.tail) ∧
    (pre = 0 → open_ → j.tail - j.head < 2 ^ bitsOf d 107 104 → ∀ ks,
      translate s (s.teamWho owner) (addrAdd (word (bitsOf d 63 0)) (128 * (j.tail % 2 ^ bitsOf d 107 104) : Nat)) 128 .write =
        .ok ks → keysReady s ks = true → ∃ t, exec (.jobq sd ac sq) s = .next t ∧ wrote s t ks (toBytes 128 c) ∧
          (Tab.get ({} : JobQ) t.jobqs q) = { j with tail := j.tail + 1, since := Tab.set j.since j.tail s.ticks } ∧
          t.cx.regs = s.cx.regs ∧ (q, j.tail, s.cycle) ∈ t.cx.eng.posted ∧
          t.cx.board = s.cx.board ++ (if sd = 0 then [] else [{
            dest := .scalar sd.toNat, due := s.cycle + 1, issued := s.cycle, value := some (j.tail % 2 ^ 48) }])) ∧
    (pre ≠ 0 → (s.rs sq).toNat % 16 ≤ 13 → refused (exec (.launch sd ac sq) s) pre lq.tail) ∧
    (pre = 0 → 13 < (s.rs sq).toNat % 16 → refused (exec (.launch sd ac sq) s) 2 0) ∧
    (pre = 0 → (s.rs sq).toNat % 16 ≤ 13 → 4096 ≤ lq.cards.length → refused (exec (.launch sd ac sq) s) 1 lq.tail) ∧
    (pre = 0 → (s.rs sq).toNat % 16 ≤ 13 → lq.cards.length < 4096 →
      ∃ t, exec (.launch sd ac sq) s = .next t ∧ t.mem = s.mem ∧ t.cx.regs = s.cx.regs ∧
        (2 ^ 16 + dieOf s.tile * 16 + (s.rs sq).toNat % 16, lq.tail, s.cycle) ∈ t.cx.eng.posted ∧
        t.cx.board = s.cx.board ++ (if sd = 0 then [] else [{
          dest := .scalar sd.toNat, due := s.cycle + 1, issued := s.cycle, value := some (lq.tail % 2 ^ 48) }]) ∧
        Tab.get ({} : LaunchQ) t.launch (dieOf s.tile * 16 + (s.rs sq).toNat % 16) = { lq with
          tail := lq.tail + 1, since := Tab.set lq.since lq.tail s.ticks, cards := lq.cards ++
            [{ pos := lq.tail, card := toBytes 128 c, team := s.who.team, peer := s.who.peer }] })))

/-- Futures (R311, R313): FUTINIT makes a word that no continuation is registered on EMPTY; FUTREG registers an entry on
an unresolved word, or credits it at once where the word is resolved; FUTRES resolves an unresolved word with 48 bits
and a registered one with its credit; FUTWAIT, which needs the right to read alone and is a read for watches (log 46's
choice), waits for a word that is neither resolved nor faulted. A word in another state faults with the condition of
R313, and one that cannot be read, or holds a reserved bit, with its fault (R311). A credit reaches its entry's join
word at entry + 128 (R312, R313): an installation puts the count there, a credit takes one, and the one that makes it 0
launches the card, or marks the word where LAUNCH would refuse it (log 34). A credit for an entry whose join word cannot
be had goes to firmware, and so does one whose index is not below its team's count (log 46's choice). A launch that
found no room is made when there is some. A card is launched where its level, its fields and its header pass LAUNCH's
checks. -/
def Obligations.FuturesAndContinuations : Prop :=
  (∀ (s : State) (af : AReg) (sc sj sv sd : SReg) (w : Nat) (ks : List Nat),
    (readFuture s s.who (s.ra af) .readWord = .ok w → translate s s.who (s.ra af) 8 .readWord = .ok ks →
      (futState w < 2 → exec (.futwait sd af) s = .next (s.hold (.future (s.ra af)))) ∧
      (2 ≤ futState w → ownWatch s (s.ra af) 8 true false = .ok () →
        exec (.futwait sd af) s = .next (s.promise (s.latencyOf ks) (.scalar sd.toNat) w))) ∧
    (readFuture s s.who (s.ra af) = .ok w → translate s s.who (s.ra af) 8 .atomic = .ok ks →
    let a := s.ra af
    let quiet := ownWatch s a 8 true true = .ok ()
    let c := (s.rs sc).toNat
    let n := (s.rs sj).toNat
    let legal := c < 2 ^ 16 ∧ n < 2 ^ 16 ∧ 0 < n ∧ c < s.cx.bind.ccount
    let install : Credit := { team := s.who.team, index := c, count := n, install := true }
    let trap := fun (cond : Nat) (at_ : Word) => s.takeTrap { origin := slotOrigin s.slot, cond := cond, addr := at_, slot := some s.slot }
    (futState w = 1 → exec (.futinit af) s = .next (trap 0x24 a)) ∧
    (futState w ≠ 1 → quiet → ∃ t, exec (.futinit af) s = .next t ∧ wrote s t ks (toBytes 8 0) ∧ sameContext s.cx t.cx) ∧
    (¬ legal → exec (.futreg af sc sj) s = .next (trap 0x23 0)) ∧
    (legal → futState w = 1 → exec (.futreg af sc sj) s = .next (trap 0x24 a)) ∧
    (legal → futState w = 0 → quiet → ∃ t, exec (.futreg af sc sj) s = .next t ∧
      wrote s t ks (toBytes 8 (2 ^ 62 + n * 2 ^ 32 + s.who.team % 2 ^ 16 * 2 ^ 16 + c)) ∧ t.credits = s.credits ++ [install]) ∧
    (legal → 2 ≤ futState w → quiet → exec (.futreg af sc sj) s =
      .next { s with credits := s.credits ++ [install, { team := s.who.team, index := c, count := n }] }) ∧
    (2 ≤ futState w → exec (.futres af sv) s = .next (trap 0x25 a)) ∧
    (futState w < 2 → s.storesBefore 0xFFFF = false → quiet → ∃ t, exec (.futres af sv) s = .next t ∧
      wrote s t ks (toBytes 8 (2 * 2 ^ 62 + (s.rs sv).toNat % 2 ^ 48)) ∧
      t.credits = s.credits ++ (if futState w = 1 then
        [{ team := bitsOf w 31 16, index := bitsOf w 15 0, count := bitsOf w 47 32 }] else [])) ∧
    (futState w < 2 → s.storesBefore 0xFFFF = true → exec (.futres af sv) s = .next (s.hold .full)) ∧
    ∀ t, ownWatch s a 8 true true = .error (.trap t) →
      (futState w ≠ 1 → exec (.futinit af) s = .next (s.takeTrap t)) ∧
      (legal → futState w ≠ 1 → exec (.futreg af sc sj) s = .next (s.takeTrap t)) ∧
      (futState w < 2 → s.storesBefore 0xFFFF = false → exec (.futres af sv) s = .next (s.takeTrap t))) ∧
    let refused := fun (i : Instr) (f : MFault) => exec i s = .next (s.takeTrap
      { origin := slotOrigin s.slot, cond := f.cond, addr := f.addr, info := word f.info, slot := some s.slot })
    (∀ f, readFuture s s.who (s.ra af) = .error f →
      refused (.futinit af) f ∧ refused (.futreg af sc sj) f ∧ refused (.futres af sv) f) ∧
    (∀ f, readFuture s s.who (s.ra af) .readWord = .error f → refused (.futwait sd af) f) ∧
    ∀ acc ∈ [Acc.atomic, .readWord],
      (∀ f, translate s s.who (s.ra af) 8 acc = .error f → readFuture s s.who (s.ra af) acc = .error f) ∧
      (translate s s.who (s.ra af) 8 acc = .ok ks →
        let v := ofBytes (memGetAll s.mem ks)
        let clean := bitsOf v 61 48 = 0 ∧ (v / 2 ^ 62 = 0 → bitsOf v 47 0 = 0) ∧ (v / 2 ^ 62 = 3 → bitsOf v 47 6 = 0)
        (ks.any (keyBad s) = true → readFuture s s.who (s.ra af) acc = .error ⟨0x11, s.ra af, 0⟩) ∧
        (ks.any (keyBad s) = false → (clean → readFuture s s.who (s.ra af) acc = .ok v) ∧
          (¬ clean → ∃ lo, readFuture s s.who (s.ra af) acc = .error ⟨0x05, s.ra af, lo⟩)))) ∧
  ((∀ (s : State) (c : Credit) (r : List Credit) (ks : List Nat), s.credits = c :: r →
    let t := Tab.get ({ who := {} } : TeamRec) s.teams c.team
    let w := s.teamWho c.team
    let entry := addrAdd t.conts (256 * c.index : Nat)
    let u := ({ s with credits := r } : State)
    let j := joinStep (ofBytes (memGetAll s.mem ks)) c.count c.install
    (t.hasConts = false ∨ t.ccount ≤ c.index → exec .continuationCredit s =
      .next { u with told := u.told ++ [.credit c 0] }) ∧
    (t.hasConts = true → c.index < t.ccount →
      (∀ f, translate u w (addrAdd entry 128) 8 .atomic = .error f → exec .continuationCredit s =
        .next { u with told := u.told ++ [.credit c f.cond] }) ∧
      (translate u w (addrAdd entry 128) 8 .atomic = .ok ks → ks.any (keyBad s) = true → exec .continuationCredit s =
        .next { u with told := u.told ++ [.credit c 0x11] })) ∧
    (t.hasConts = true → c.index < t.ccount → translate u w (addrAdd entry 128) 8 .atomic = .ok ks →
      ks.any (keyBad s) = false →
      (j.2 = false → ∃ v, exec .continuationCredit s = .next v ∧ wrote s v ks (toBytes 8 j.1) ∧ v.launch = s.launch) ∧
      (j.2 = true → launchable u w entry (j.1 % 16) = none →
        ∃ v, exec .continuationCredit s = .next v ∧ wrote s v ks (toBytes 8 (setBits j.1 63 62 3)) ∧ v.launch = s.launch) ∧
      ∀ card, j.2 = true → launchable u w entry (j.1 % 16) = some card →
        ∃ v, exec .continuationCredit s = .next v ∧ wrote s v ks (toBytes 8 (setBits j.1 63 62 2)) ∧
          let k := spaceDieOf (keySpace (ks.headD 0)) * 16 + j.1 % 16
          let q := Tab.get ({} : LaunchQ) s.launch k
          let p := Tab.get ({} : LaunchQ) v.launch k
          (q.cards.length < 4096 → p.tail = q.tail + 1 ∧ p.cards = q.cards ++
            [{ pos := q.tail, card := card, team := w.team, peer := w.peer }]) ∧
          (4096 ≤ q.cards.length → p = q ∧ v.waiting.length = s.waiting.length + 1))) ∧
  (∀ s : State, s.credits = [] → exec .continuationCredit s = .next s) ∧
  (∀ s : State, (∀ w ∈ s.waiting, 4096 ≤ (s.launchQ w.die w.level).cards.length) → exec .continuationLaunch s = .next s) ∧
  (∀ (s : State) (w : Waiting), s.waiting.find? (fun w => !(s.launchQ w.die w.level).full) = some w →
    exec .continuationLaunch s = .next (({ s with waiting := s.waiting.erase w } : State).submit w.die w.level w.card)) ∧
  (∀ (s : State) (w : Who) (entry : Word) (level : Nat) (card : List Byte), launchable s w entry level = some card ↔
    level ≤ 13 ∧ ∃ c h, readCard s w entry = .ok c ∧ readHeader s w (word (bitsOf c 575 512)) = .ok h ∧
      cardStatus entry c h = 0 ∧ card = toBytes 128 c) ∧
  ∀ j count : Nat, j < 2 ^ 64 →
    (futState j = 0 → joinStep j count false = joinStep (setBits (setBits j 63 62 1) 47 32 count) count false) ∧
    (futState j = 1 → bitsOf j 47 32 = 0 → (joinStep j count false).2 = false ∧
      bitsOf (joinStep j count false).1 31 24 = min (bitsOf j 31 24 + 1) 255) ∧
    (futState j = 0 → joinStep j count true = (setBits (setBits j 63 62 1) 47 32 count, false)) ∧
    (futState j = 1 → joinStep j count true = (j, false)) ∧
    (futState j = 1 → 0 < bitsOf j 47 32 → bitsOf (joinStep j count false).1 47 32 = bitsOf j 47 32 - 1 ∧
      (joinStep j count false).2 = decide (bitsOf j 47 32 = 1)) ∧
    (2 ≤ futState j → (joinStep j count false).2 = false ∧ bitsOf (joinStep j count false).1 31 24 = min (bitsOf j 31 24 + 1) 255))

/-- CREWJOIN (R293, R294): an identifier that R293 refuses faults; a member again gets its rank with status 1, a fifth
crew status 3; at a crew's home here the first member gets rank 0 and each next one the next rank, another team status
5; a strand that the home already has, on the way to it twice, gets its rank with status 1; a home with 4,096 crews, and
one that has given 2^32 ranks, status 2; the order of these statuses, and status 1 for a second join under way, are log
46's choice. CREWLEAVE needs membership and ends it, and the open generation no longer awaits it; CBAR arrives at the
crew's generation and holds the stream (R295). A barrier generation completes when every member has arrived or left: the
next opens with those that have already arrived for it, awaits the others that were members when the first of them
arrived, and the held streams of each local member go on whose CBARs are among the member's arrivals at the generations
completed (R295, R296). While one is awaited it does not. An arrival counts for the generation that it is at. -/
def Obligations.CrewsAndGenerations : Prop :=
  (∀ (s : State) (sd sc : SReg),
    let id := s.rs sc
    let answer := fun (v rank : Nat) (t : State) => t.promise 1 (.scalar sd.toNat) (word (v * 2 ^ 60 + rank)).toNat
    let trap := fun c : Nat => State.takeTrap s { origin := slotOrigin s.slot, cond := c, slot := some s.slot }
    (crewInvalid id = true → exec (.crewjoin sd sc) s = .next (trap 0x21) ∧ exec (.crewleave sc) s = .next (trap 0x21) ∧
      exec (.cbar sc) s = .next (trap 0x21)) ∧
    (crewInvalid id = false → s.cx.member? id = none →
      exec (.crewleave sc) s = .next (trap 0x22) ∧ exec (.cbar sc) s = .next (trap 0x22) ∧
      (4 ≤ s.cx.otherCrews id →
        exec (.crewjoin sd sc) s = .next (answer 3 (2 ^ 32 - 1) s)) ∧
      (s.cx.otherCrews id < 4 → s.crewLocal id = true →
        (s.crew? id = none → s.crews.length < 4096 → ∃ t, exec (.crewjoin sd sc) s = .next (answer 0 0 t) ∧
          t.cx.eng.crews = s.cx.eng.crews ++ [{ crew := id, rank := 0 }] ∧
          t.crews = s.crews ++ [{
            id := id, team := s.who.team, peer := s.who.peer, members := [(0, s.cx.bind.uid)], nextRank := 1 }] ∧ t.mem = s.mem ∧ t.cx.regs = s.cx.regs) ∧
        (s.crew? id = none → 4096 ≤ s.crews.length → exec (.crewjoin sd sc) s = .next (answer 2 (2 ^ 32 - 1) s)) ∧
        ∀ c, s.crew? id = some c →
          ((∀ p ∈ c.members, p.2 ≠ s.cx.bind.uid) → s.who.team = c.team ∨ s.who.team = c.peer → 2 ^ 32 ≤ c.nextRank →
            exec (.crewjoin sd sc) s = .next (answer 2 (2 ^ 32 - 1) s)) ∧
          (∀ p, c.members.find? (·.2 == s.cx.bind.uid) = some p → exec (.crewjoin sd sc) s = .next (answer 1 p.1 s)) ∧
          ((∀ p ∈ c.members, p.2 ≠ s.cx.bind.uid) → s.who.team ≠ c.team → s.who.team ≠ c.peer → exec (.crewjoin sd sc) s = .next (answer 5 (2 ^ 32 - 1) s)) ∧
          ((∀ p ∈ c.members, p.2 ≠ s.cx.bind.uid) → s.who.team = c.team ∨ s.who.team = c.peer → c.nextRank < 2 ^ 32 →
            ∃ t, exec (.crewjoin sd sc) s = .next (answer 0 c.nextRank t) ∧
              t.cx.eng.crews = s.cx.eng.crews ++ [{ crew := id, rank := c.nextRank }] ∧
              t.crews = s.crews.map fun d => if d.id = c.id then { c with
                members := c.members ++ [(c.nextRank, s.cx.bind.uid)], nextRank := c.nextRank + 1 } else d)) ∧
      (s.cx.otherCrews id < 4 → s.crewLocal id = false →
        (s.peer? (s.crewHome id) = none → exec (.crewjoin sd sc) s = .next (answer 4 (2 ^ 32 - 1) s)) ∧
        ∀ p, s.peer? (s.crewHome id) = some p →
          ∃ t, exec (.crewjoin sd sc) s = .next t ∧
          t.cx.eng.joins = s.cx.eng.joins ++ [(id, sd.toNat)] ∧ t.mem = s.mem ∧ t.cx.regs = s.cx.regs ∧
          t.cx.board = s.cx.board ++ (if sd = 0 then [] else [{ dest := .scalar sd.toNat, issued := s.cycle }]))) ∧
    ∀ m, crewInvalid id = false → s.cx.member? id = some m →
      exec (.crewjoin sd sc) s = .next (answer 1 m.rank s) ∧
      (∃ t, exec (.crewleave sc) s = .next t ∧ (∀ n ∈ t.cx.eng.crews, n.crew ≠ id) ∧ t.mem = s.mem ∧
        t.cx.regs = s.cx.regs ∧
        ∀ c n, s.crewLocal id = true → s.crew? id = some c → c.members = [(n, s.cx.bind.uid)] → c.arrived = [] →
          c.early = [] → c.rounds = [] → t.crews = s.crews.filter (·.id != id)) ∧
      (∀ c, s.crewLocal id = true → s.crew? id = some c → ∀ p, c.members.find? (·.2 == s.cx.bind.uid) = some p →
        (∃ q ∈ c.members, q ≠ p) → ∃ (t : State) (d : Crew), exec (.crewleave sc) s = .next t ∧ t.crew? id = some d ∧
          d.members = c.members.filter (· != p) ∧ d.awaited = c.awaited.filter (· != p) ∧ d.arrived = c.arrived ∧
          d.early = c.early ∧ d.gen = c.gen ∧ d.isOpen = c.isOpen ∧ d.nextRank = c.nextRank) ∧
      (s.storesBefore 0xFFFF = false → s.grp < s.cx.streams.length → s.crewLocal id = true →
        ∃ t, exec (.cbar sc) s = .next t ∧ (t.cx.streams.getD s.grp {}).barrier = some (id, m.rank) ∧
          (t.cx.streams.getD s.grp {}).arrival = m.bars + 1 ∧ t.cx.member? id = some { m with pending := true, bars := m.bars + 1 } ∧
          t.cx.regs = s.cx.regs ∧ t.mem = s.mem ∧
          ∀ c, s.crew? id = some c → t.crew? id = some (c.arrive (m.rank, s.cx.bind.uid) s.agent.id)) ∧
      (s.storesBefore 0xFFFF = false → s.grp < s.cx.streams.length → s.crewLocal id = false →
        ∃ t, exec (.cbar sc) s = .next t ∧ (t.cx.streams.getD s.grp {}).barrier = some (id, m.rank) ∧
          (t.cx.streams.getD s.grp {}).arrival = m.bars + 1 ∧ t.cx.member? id = some { m with pending := true, bars := m.bars + 1 } ∧
          t.cx.regs = s.cx.regs ∧ t.mem = s.mem ∧ t.crews = s.crews) ∧
      (s.storesBefore 0xFFFF = true → exec (.cbar sc) s = .next (s.hold .full))) ∧
  ((∀ (s : State) (crew : Word) (c : Crew), s.crew? crew = some c → c.isOpen = true → c.awaited = [] →
    exec (.crewGenerationCompletion crew) s = .next (c.arrived.foldl (fun u m => u.tellBarrier crew c.by_ c.heard m)
      (s.setCrew c.nextGen)) ∧
    c.nextGen.gen = c.gen + 1 ∧ (c.early = [] → c.nextGen.isOpen = false) ∧
    (c.early ≠ [] → c.nextGen.isOpen = true ∧ c.nextGen.arrived = c.early ∧
      ∀ m, m ∈ c.nextGen.awaited ↔ m ∈ c.next ∧ m ∉ c.early)) ∧
  (∀ (s : State) (crew : Word) (c : Crew), s.crew? crew = some c → c.isOpen = false ∨ c.awaited ≠ [] →
    exec (.crewGenerationCompletion crew) s = .next s) ∧
  (∀ (s : State) (crew by_ : Word) (heard : List (Nat × Nat)) (rank uid d : Nat), uid < 2 ^ 64 → s.byUid uid = some d →
    ∀ (g : Nat) (t : Stream), (s.ctx d).streams[g]? = some t → t.barrier = some (crew, rank) →
      ∃ u : Stream, ((s.tellBarrier crew by_ heard (rank, uid)).ctx d).streams[g]? = some u ∧ u.pc = t.pc ∧
        u.barrier = if t.arrival ≤ Tab.get 0 heard rank then none else some (crew, rank)) ∧
  (∀ (c : Crew) (r : Nat), Tab.get 0 c.nextGen.heard r =
    Tab.get 0 c.heard r + ((c.earlyHeard.filter (·.1 == r)).map (·.2)).sum ∧ c.nextGen.earlyHeard = []) ∧
  ∀ (c : Crew) (m : Nat × Nat) (b : Word),
    (c.isOpen = false ∨ m ∈ c.awaited ∨ m ∈ c.arrived → (c.arrive m b).earlyHeard = c.earlyHeard ∧
      Tab.get 0 (c.arrive m b).heard m.1 = Tab.get 0 c.heard m.1 + 1) ∧
    (c.isOpen = true → m ∉ c.awaited → m ∉ c.arrived → (c.arrive m b).heard = c.heard ∧
      Tab.get 0 (c.arrive m b).earlyHeard m.1 = Tab.get 0 c.earlyHeard m.1 + 1) ∧
    (c.isOpen = false → (c.arrive m b).isOpen = true ∧ (c.arrive m b).arrived = [m] ∧
      (c.arrive m b).awaited = c.members.filter (· != m)) ∧
    (c.isOpen = true → m ∈ c.awaited → (c.arrive m b).arrived = c.arrived ++ [m] ∧ m ∉ (c.arrive m b).awaited) ∧
    (c.isOpen = true → m ∉ c.awaited → m ∈ c.arrived → m ∉ c.early → (c.arrive m b).early = c.early) ∧
    (c.isOpen = true → m ∉ c.awaited → m ∉ c.arrived → m ∉ c.early → (c.arrive m b).early = c.early ++ [m] ∧
      (c.early = [] → (c.arrive m b).next = c.members) ∧ (c.early ≠ [] → (c.arrive m b).next = c.next)))

/-! The host, the fabric, power and trace. -/

/-- A message in turn is performed once and acknowledged; an older one is acknowledged and does nothing else; a newer
one is held and answered with NAK 4; one from a port that is not ready, or of another version, channel or length, is
dropped (R350, R352, R362). READDATA and DONE do nothing more; a type that is not listed is answered with NAK 1 (R351);
a NAK 4 sends the unacknowledged messages again. The held message that is then due is the next happening.
Acknowledgements of type 0 are log 35's choice. A message sent has the connection's next number and acknowledges what
has been performed. WRITE of 8 bytes in turn sets a window register, QTAIL from the host port alone (R2); that a peer's
is answered with NAK 2, and that a body of another length writes nothing, is log 35's choice. READ answers its value;
the registers of R354, R355, R357 and R359 hold the bits that they have, and a write changes its register alone, but
that a CREWJOIN under way to a device whose entry it changes ends with status 4 (R359, log 16); the read-only ones, and
offsets that are not listed, ignore writes, and the latter read 0. QSTAT's error is cleared by writing 1. -/
def Obligations.MessagesAndRegisters : Prop :=
  (∀ (s : State) (m : Msg),
    (∀ i ∈ [Instr.qftWrite m, .qftRead m, .qftReaddata m, .qftDone m, .qftPut m, .qftGet m, .qftLoad m, .qftTrace m, .qftNak m],
      (s.portReady m.port = false ∨ m.version ≠ 1 ∨ 1024 ≤ m.chan ∨ 8192 < m.body.length → exec i s = .next s) ∧
      (s.portReady m.port = true → m.version = 1 → m.chan < 1024 → m.body.length ≤ 8192 →
        (m.seq.toNat < (s.conn m).expect →
          exec i s = .next ((s.onConn m (·.acked m.ack.toNat s.time)).acknowledge m)) ∧
        ((s.conn m).expect < m.seq.toNat → ∃ t, exec i s = .next t ∧ t.mem = s.mem ∧ t.ctxs = s.ctxs ∧
          t.jobqs = s.jobqs ∧ (t.conn m).expect = (s.conn m).expect ∧ (∃ j, (m.seq.toNat, j) ∈ (t.conn m).held) ∧
          ∃ d, t.sent = s.sent ++ [(m.port, m.src, 0x0A, d)] ∧ d.body = toBytes 8 4))) ∧
    (InTurn s m →
      (took s m).mem = s.mem ∧ (took s m).ctxs = s.ctxs ∧ ((took s m).conn m).expect = (s.conn m).expect + 1 ∧
      (∀ p ∈ ((took s m).conn m).unacked, p ∈ (s.conn m).unacked ∧ m.ack.toNat < p.2.seq.toNat) ∧
      exec (.qftReaddata m) s = .next ((took s m).acknowledge m) ∧ exec (.qftDone m) s = .next ((took s m).acknowledge m) ∧
      s.unlisted m = ((took s m).nak m 1).acknowledge m ∧
      (ofBytes m.body ≠ 4 → exec (.qftNak m) s = .next ((took s m).acknowledge m)) ∧
      (ofBytes m.body = 4 → ∃ t, exec (.qftNak m) s = .next t ∧ t.mem = s.mem ∧ t.ctxs = s.ctxs ∧ ∃ a,
        t.sent = s.sent ++ ((took s m).conn m).unacked.map (fun p => (m.port, m.src, p.1, p.2)) ++ [(m.port, m.src, 0, a)])) ∧
    (s.portReady m.port = true → m.version = 1 → m.chan < 1024 → m.body.length ≤ 8192 → m.seq.toNat = (s.conn m).expect →
      ∀ n j, (s.conn m).held.find? (fun p => p.1 == (s.conn m).expect + 1) = some (n, .listed j) →
        ∀ i ∈ [Instr.qftReaddata m, .qftDone m], ∃ t, exec i s = .next t ∧ t.agenda = j :: s.agenda ∧ t.mem = s.mem ∧
          (t.conn m).expect = (s.conn m).expect + 1 ∧ (t.conn m).held = (s.conn m).held.filter (·.1 != n)) ∧
    ∀ (port chan type : Nat) (addr : BitVec 128) (target : Word) (body : List Byte),
      let k := s.linkKey port addr chan
      let c := Tab.get ({} : Conn) s.conns k
      let t := s.send port addr chan type target body
      ∃ w : Msg, Tab.get ({} : Conn) t.conns k = { c with
          sent := c.sent + 1, unacked := c.unacked ++ [(type, w)], timer := if c.unacked = [] then s.time else c.timer } ∧
        t = { s with conns := t.conns, sent := t.sent } ∧
        t.sent = s.sent ++ (if s.portReady port = true then [(port, addr, type, w)] else []) ∧
        w = { port := port, src := s.addressOf port, version := 1, chan := chan, seq := word (c.sent + 1),
              ack := word (c.expect - 1), target := target, body := body }) ∧
  ((∀ (s : State) (m : Msg), InTurn s m →
    let u := took s m
    (m.body.length = 8 → m.port = 8 ∨ isTail m.target.toNat = false → exec (.qftWrite m) s = .next ((u.setWindow m.target.toNat (ofBytes m.body)).acknowledge m)) ∧
    (m.body.length ≠ 8 → m.port = 8 ∨ isTail m.target.toNat = false → exec (.qftWrite m) s = .next (u.acknowledge m)) ∧
    (m.port ≠ 8 → isTail m.target.toNat = true → exec (.qftWrite m) s = .next ((u.nak m 2).acknowledge m)) ∧
    exec (.qftRead m) s = .next ((u.send m.port m.src m.chan 0x03 m.target (toBytes 8 (u.window m.target.toNat))).acknowledge m)) ∧
  ∀ (s : State) (v q c d r : Nat), q < 256 → c < 1024 → d < 256 → r < 3 →
    let j := Tab.get ({} : JobQ) s.jobqs q
    s.setWindow 0x00 v = { s with devnum := word (v % 256) } ∧
    s.setWindow 0x10 v = { s with hostLo := word v, hostSet := true } ∧
    s.setWindow 0x18 v = { s with hostHi := word v, hostHiSet := true } ∧
    s.setWindow (0x100000 + 64 * q) v = { s with jobqs := Tab.set s.jobqs q (j.writeTail v s.ticks) } ∧
    s.setWindow (0x100000 + 64 * q + 16) v =
      (if v.testBit 2 = true then { s with jobqs := Tab.set s.jobqs q { j with error := false } } else s) ∧
    s.setWindow (0x200000 + 16 * c) v = { s with chteam := Tab.set s.chteam c (word (v % 2 ^ 17)) } ∧
    s.setWindow (0x200008 + 16 * c) v = { s with chtab := Tab.set s.chtab c (word v) } ∧
    (let w := word (if r = 2 then v % 16 else v)
    let t := s.setWindow (0x300000 + 32 * d + 8 * r) v
    t = { s with peers := Tab.set s.peers (4 * d + r) w, ctxs := t.ctxs } ∧
    (Tab.get 0 s.peers (4 * d + r) = w → t.ctxs = s.ctxs) ∧
    (Tab.get 0 s.peers (4 * d + r) ≠ w → ∀ c, (s.ctx c).bound = true →
      ((∀ j ∈ (s.ctx c).eng.joins, s.crewHome j.1 = d → s.crewLocal j.1 = true) → t.ctx c = s.ctx c) ∧
      ∀ j, (s.ctx c).eng.joins = [j] → s.crewHome j.1 = d → s.crewLocal j.1 = false →
        t.ctx c = (s.ctx c).joined j.1 (notJoined 4) s.cycle)) ∧
    (∀ off ∈ [0x08, 0x200, 0x208, 0x210, 0x218, 0x220, 0x100000 + 64 * q + 8], s.setWindow off v = s) ∧
    s.window 0x00 = s.devnum.toNat ∧ s.window 0x08 = s.time ∧ s.window 0x10 = s.hostLo.toNat ∧ s.window 0x18 = s.hostHi.toNat ∧
    s.window 0x200 = s.readyT.toNat % 2 ^ 64 ∧ s.window 0x208 = s.readyT.toNat / 2 ^ 64 ∧ s.window 0x210 = s.readyM.toNat ∧
    s.window 0x218 = s.fwstat.toNat ∧ s.window 0x220 = s.pwrstat.toNat ∧ s.window (0x100000 + 64 * q) = j.tail ∧
    s.window (0x100000 + 64 * q + 16) =
      (if j.error = true then 4 else 0) + (if j.shadow.isSome = true then 2 else 0) + (if j.isIn = true then 1 else 0) ∧
    (∀ p, p < 9 → s.window (0x100 + 8 * p) = (Tab.get 0 s.portstat p).toNat ∧ s.setWindow (0x100 + 8 * p) v = s) ∧
    (∀ off : Nat, off ∉ [0x00, 0x08, 0x10, 0x18, 0x200, 0x208, 0x210, 0x218, 0x220] → (∀ p, p < 9 → off ≠ 0x100 + 8 * p) →
      (∀ q, q < 256 → off ∉ [0x100000 + 64 * q, 0x100000 + 64 * q + 8, 0x100000 + 64 * q + 16]) →
      (∀ c, c < 1024 → off ∉ [0x200000 + 16 * c, 0x200008 + 16 * c]) →
      (∀ d r, d < 256 → r < 3 → off ≠ 0x300000 + 32 * d + 8 * r) → s.window off = 0 ∧ s.setWindow off v = s) ∧
    (s.setWindow 0x00 v).window 0x00 = v % 256 ∧ (s.setWindow 0x10 v).window 0x10 = v % 2 ^ 64 ∧
    (s.setWindow (0x100000 + 64 * q) v).jobqs = Tab.set s.jobqs q ((Tab.get {} s.jobqs q).writeTail v s.ticks) ∧
    isTail (0x100000 + 64 * q) = true ∧ isTail (0x200000 + 16 * c) = false ∧ isTail (0x300000 + 32 * d + 8 * r) = false ∧
    s.window (0x100000 + 64 * q + 8) = (Tab.get ({} : JobQ) s.jobqs q).head ∧
    (s.setWindow (0x200000 + 16 * c) v).window (0x200000 + 16 * c) = v % 2 ^ 17 ∧
    (s.setWindow (0x200008 + 16 * c) v).window (0x200008 + 16 * c) = v % 2 ^ 64 ∧
    (s.setWindow (0x300000 + 32 * d + 8 * r) v).window (0x300000 + 32 * d + 8 * r) = (if r = 2 then v % 16 else v % 2 ^ 64))

/-- PUT and GET in turn act for the team that their channel is bound to (R351, R357): a channel without a team is
refused with NAK 2, bounds with 3, any other failed check, or memory that is not ready (R362), with 2; PUT writes its
body and nothing else; GET answers with PUTs of 8,192 bytes each but the last, the j-th at the reply target + 8,192·j,
and DONE. LOADs in turn from the host port, no other (R2; NAK 2 for others is log 35's choice), gather a firmware image
on channel 0 until one runs, then containers (R351, R363, R65), and the first of them gives the host's address its reset
value (R354); a whole one (log 38's choice of the end) is checked and answered with its status. An accepted image runs
and FWSTAT shows it, a refused one leaves its status and the firmware (R361, R364); an accepted container is installed,
a refused one is not. Magic first (R65, R364). What firmware and the boot ROM refuse, with the first status that holds.
A container (R60, R61, R65): magic and version 1, digest and length 2, sections 3 (their count too, log 14), firmware
version 4, code sections that are no whole syllables or do not end in a stop bit 5; a native one that passes these is
accepted. Portable code is cut into groups after each stop bit, and a group of more than 32 syllables is refused (R62).
An image (R364): layout 0x20, key digests 0x21, rollback 0x22, RSA 0x23, SLH-DSA 0x24; an accepted one shows its
rollback number. -/
def Obligations.MemoryAndLoadMessages : Prop :=
  (∀ (s : State) (m : Msg), InTurn s m →
    let u := took s m
    let n := ofBytes (m.body.take 8) % 2 ^ 32
    let refuses := fun (o : Host.Outcome State Fault Refusal) (why : Nat) => o = .next ((u.nak m why).acknowledge m)
    (s.channelWho m.chan = none → refuses (exec (.qftPut m) s) 2 ∧ refuses (exec (.qftGet m) s) 2) ∧
    ∀ w, s.channelWho m.chan = some w →
      w.team = (Tab.get 0 s.chteam m.chan).toNat % 2 ^ 16 ∧
      (∀ f, translate u w m.target m.body.length .write = .error f →
        refuses (exec (.qftPut m) s) (if f.cond = 0x0C then 3 else 2)) ∧
      (∀ ks, translate u w m.target m.body.length .write = .ok ks →
        (keysReady u ks = false → refuses (exec (.qftPut m) s) 2) ∧
        (keysReady u ks = true → ∃ t, exec (.qftPut m) s = .next t ∧ wrote s t ks m.body)) ∧
      (∀ f, readMem u w m.target n = .error f → refuses (exec (.qftGet m) s) (if f.cond = 0x0C then 3 else 2)) ∧
      ∀ bs, readMem u w m.target n = .ok bs → ∃ t puts d a, exec (.qftGet m) s = .next t ∧ t.mem = s.mem ∧
        t.sent = s.sent ++ puts ++ [(m.port, m.src, 0x06, d), (m.port, m.src, 0, a)] ∧ d.body = toBytes 8 0 ∧
        (puts.map (fun p => p.2.2.2.body)).flatten = bs ∧
        (∀ p ∈ puts, p.1 = m.port ∧ p.2.1 = m.src ∧ p.2.2.1 = 0x04 ∧ p.2.2.2.body.length ≤ 8192) ∧
        ∀ j p, puts[j]? = some p → p.2.2.2.chan = m.chan ∧ p.2.2.2.body = (bs.drop (8192 * j)).take 8192 ∧
          p.2.2.2.target = word (ofBytes ((m.body.drop 8).take 8)) + word (8192 * j)) ∧
  ((∀ (s : State) (m : Msg), InTurn s m →
    let u := { took s m with
      hostLo := if s.hostSet = true then s.hostLo else m.src.setWidth 64
      hostHi := if s.hostHiSet = true then s.hostHi else (m.src >>> 64).setWidth 64
      hostSet := true, hostHiSet := true }
    let runs := bitOf s.fwstat.toNat 0
    let image := s.image ++ m.body
    let cont := s.container ++ m.body
    (m.port ≠ 8 → exec (.qftLoad m) s = .next (((took s m).nak m 2).acknowledge m)) ∧
    (m.port = 8 →
    (runs = false → m.chan ≠ 0 → exec (.qftLoad m) s = .next (u.acknowledge m)) ∧
    (runs = false → m.chan = 0 → imageWhole image = false →
      exec (.qftLoad m) s = .next (({ u with image := image } : State).acknowledge m)) ∧
    (runs = false → m.chan = 0 → imageWhole image = true → exec (.qftLoad m) s =
      .next (((u.checkImage image).1.done m (u.checkImage image).2).acknowledge m)) ∧
    (runs = true → containerWhole cont = false →
      exec (.qftLoad m) s = .next (({ u with container := cont } : State).acknowledge m)) ∧
    (runs = true → containerWhole cont = true →
      let r := ({ u with container := [] } : State).loadContainer cont
      exec (.qftLoad m) s = .next ((r.1.done m r.2).acknowledge m)))) ∧
  (∀ (s : State) (bs : List Byte),
    let r := s.checkImage bs
    r.2 = imageStatus bs ∧ r.1.mem = s.mem ∧ r.1.image = [] ∧
    (r.2 = 0 → r.1.firmware = bs ∧ bitOf r.1.fwstat.toNat 0 = true ∧ bitsOf r.1.fwstat.toNat 15 8 = 0) ∧
    (r.2 ≠ 0 → r.1.firmware = s.firmware ∧ bitOf r.1.fwstat.toNat 0 = bitOf s.fwstat.toNat 0 ∧
      bitsOf r.1.fwstat.toNat 15 8 = r.2) ∧
    bitsOf r.1.fwstat.toNat 63 48 = min (bitsOf s.fwstat.toNat 63 48 + 1) 65535 ∧
    let c := s.loadContainer bs
    c.2 = containerStatus bs (Config.firmwareVersion s.firmware) ∧ (c.2 ≠ 0 → c.1 = s) ∧
    (c.2 = 0 → c.1.mem = s.mem ∧ ∃ code, c.1.kernels = s.kernels ++ [(bs, code)] ∧
      (isNative bs = true → code = (codeWords bs).map fun ws => ws.map word))) ∧
  ∀ (bs : List Byte) (v : Nat),
    (bs.take 4 ≠ [0x51, 0x46, 0x57, 0x31] → imageStatus bs = 0x20) ∧
    (bs.take 4 ≠ [0x50, 0x52, 0x4E, 0x53] → containerStatus bs v = 1) ∧
    (bs.take 4 = [0x50, 0x52, 0x4E, 0x53] → fieldAt bs 4 2 = 1 → fieldAt bs 16 8 ≠ bs.length → containerStatus bs v = 2)) ∧
  ((∀ (bs : List Byte) (v : Nat),
    let n := fieldAt bs 8 2
    let type := fun (i : Nat) => fieldAt bs (0x40 + 32 * i) 2
    let off := fun (i : Nat) => fieldAt bs (0x40 + 32 * i + 8) 8
    let size := fun (i : Nat) => fieldAt bs (0x40 + 32 * i + 16) 8
    let link := fun (i : Nat) => fieldAt bs (0x40 + 32 * i + 24) 4
    let bad : Prop := n < 1 ∨ 256 < n ∨ bs.length < 0x40 + 32 * n ∨ ∃ i, i < n ∧
      (bs.length < off i + size i ∨ type i < 1 ∨ 6 < type i ∨ n ≤ link i ∨
        ∃ j, j < i ∧ off i < off j + size j ∧ off j < off i + size i)
    let badCode : Prop := ∃ i, i < n ∧ type i = 1 ∧
      (size i % 8 ≠ 0 ∨ size i < 8 ∨ (fieldAt bs (off i + 8 * (size i / 8 - 1)) 8).testBit 63 = false)
    bs.take 4 = [0x50, 0x52, 0x4E, 0x53] → fieldAt bs 4 2 = 1 →
    (BitVec.ofNat 256 (fieldAt bs 0x20 32) ≠ Config.sha256 (bs.drop 0x40) → containerStatus bs v = 2) ∧
    (BitVec.ofNat 256 (fieldAt bs 0x20 32) = Config.sha256 (bs.drop 0x40) → fieldAt bs 0x10 8 = bs.length →
      (bad → containerStatus bs v = 3) ∧
      (¬ bad → v < fieldAt bs 0x0C 4 → containerStatus bs v = 4) ∧
      (¬ bad → fieldAt bs 0x0C 4 ≤ v → badCode → containerStatus bs v = 5) ∧
      (¬ bad → fieldAt bs 0x0C 4 ≤ v → ¬ badCode → (fieldAt bs 6 2 % 2 = 1 → containerStatus bs v = 0) ∧
        (containerStatus bs v = 0 ∨ 6 ≤ containerStatus bs v ∧ containerStatus bs v ≤ 10)))) ∧
  (∀ ws : List Nat, (groupsOf ws).flatten = ws ∧
    (∀ g ∈ groupsOf ws, ∃ xs x, g = xs ++ [x] ∧ (∀ y ∈ xs, wordStop y = false)) ∧
    (∀ us g h vs, groupsOf ws = us ++ g :: h :: vs → ∃ xs x, g = xs ++ [x] ∧ wordStop x = true) ∧
    ((∃ g ∈ groupsOf ws, 32 < g.length) → sectionStatus ws = 6 ∨ sectionStatus ws = 7)) ∧
  ∀ (s : State) (bs : List Byte),
    let b := fieldAt bs 8 8
    let sound : Prop := bs.take 4 = [0x51, 0x46, 0x57, 0x31] ∧ 2 ^ 20 ≤ b ∧ b ≤ 2 ^ 26 ∧ bs.length = 30688 + b
    let fused : Prop := Config.sha384 ((bs.drop 64).take 384) = Config.fusedRsaDigest ∧
      Config.sha384 ((bs.drop 448).take 64) = Config.fusedSlhDigest
    let rsa := Config.rsaVerify ((bs.drop 64).take 384) (bs.take (512 + b)) ((bs.drop (512 + b)).take 384)
    let slh := Config.slhVerify ((bs.drop 448).take 64) (bs.take (512 + b)) ((bs.drop (896 + b)).take 29792)
    (¬ sound → imageStatus bs = 0x20) ∧ (sound → ¬ fused → imageStatus bs = 0x21) ∧
    (sound → fused → fieldAt bs 4 4 < Config.fusedRollback → imageStatus bs = 0x22) ∧
    (sound → fused → Config.fusedRollback ≤ fieldAt bs 4 4 →
      (rsa = false → imageStatus bs = 0x23) ∧ (rsa = true → slh = false → imageStatus bs = 0x24) ∧
      (rsa = true → slh = true → imageStatus bs = 0 ∧
        bitsOf (s.checkImage bs).1.fwstat.toNat 47 16 = fieldAt bs 4 4)) ∧
    (imageStatus bs ≠ 0 → bitsOf (s.checkImage bs).1.fwstat.toNat 47 16 = bitsOf s.fwstat.toNat 47 16))

/-- TRACE in turn answers with the frames f to f + 1,023 that the ring still holds, 113 to a PUT, and DONE with their
number (R344, R351), each PUT at the reply target + 72 for each frame from f to its first. COLL is taken from a device
of the peer table only, others are dropped and counted (R359), and carries joins, arrivals, leaves and contributions to
a crew's home, and its answers back (R360, log 16). A datagram that is not QFT is dropped and counted in PORTSTAT, up to
2^32 - 1 and not where the port is not ready (log 39's choice), and a link change shows there (R349, R354). A connection
without an acknowledgement for 20 µs sends again what is unacknowledged, and after 16 times the far end is unreachable
(R352): rounds with members of a device that only channel 0 of it reaches end (R360), and so do CREWJOINs to it, with
status 4 (R294). A connection is one between two addresses: a port that has had another address (R348) has a connection
from each. -/
def Obligations.CollectivesTraceAndLinks : Prop :=
  ((∀ (s : State) (m : Msg), InTurn s m →
    let f := ofBytes ((m.body.drop 8).take 8)
    let held := (Tab.get ({} : Trace) s.trace (ofBytes (m.body.take 8) % 16)).frames.filter fun p =>
      decide (f ≤ p.1) && decide (p.1 < f + 1024)
    held.length ≤ 1024 → ∃ t puts d a, exec (.qftTrace m) s = .next t ∧ t.mem = s.mem ∧ t.trace = s.trace ∧
      t.sent = s.sent ++ puts ++ [(m.port, m.src, 0x06, d), (m.port, m.src, 0, a)] ∧ d.body = toBytes 8 held.length ∧
      puts.length = ceilDiv held.length 113 ∧ (∀ p ∈ puts, p.2.2.1 = 0x04) ∧
      (puts.map (fun p => p.2.2.2.body)).flatten = (held.map (·.2)).flatMap frameBytes ∧
      ∀ j p, puts[j]? = some p → p.2.2.2.target = word (ofBytes ((m.body.drop 16).take 8)) +
        word (72 * (((held.head?.map (·.1)).getD f - f) + 113 * j))) ∧
  ∀ (s : State) (m : Msg) (c : Coll),
    (s.portReady m.port = false → exec (.qftColl m c) s = .next s) ∧
    (s.portReady m.port = true → s.peerOf m = none → exec (.qftColl m c) s = .next (s.dropAt m.port)) ∧
    ∀ d, s.peerOf m = some d → InTurn s m →
      exec (.qftColl m c) s = .next (((took s m).coll m.target d m.port c).acknowledge m) ∧
      (∀ who, (took s m).coll m.target d m.port (.leave who) =
        (took s m).leaveHome m.target (2 ^ 64 * (d + 1) + who % 2 ^ 64) (agentId 7 0 0 (m.port % 16))) ∧
      (∀ who e p, s.crew? m.target = some e → e.members.find? (·.2 == 2 ^ 64 * (d + 1) + who % 2 ^ 64) = some p →
        (took s m).coll m.target d m.port (.arrive who) =
          (took s m).setCrew (e.arrive p (agentId 7 0 0 (m.port % 16))) ∧
        ∀ op ty nver count data, (took s m).coll m.target d m.port (.contribute who op ty nver count data) =
          (took s m).contribute m.target { rank := p.1, op := op, ty := ty, nver := nver, count := count, data := data }) ∧
      (∀ who team, ∃ (t : State) (status rank : Nat),
        (took s m).joinHome m.target (BitVec.toNat team) (Tab.get ({ who := { peer := team.toNat } } : TeamRec) s.teams team.toNat).who.peer
          (2 ^ 64 * (d + 1) + who % 2 ^ 64) = (t, status, rank) ∧
        (took s m).coll m.target d m.port (.join who team) =
          t.sendColl d m.target [2, who, (word (status * 2 ^ 60 + rank)).toNat] []) ∧
      (∀ who rank upto, (took s m).coll m.target d m.port (.release who rank upto) =
        (took s m).onStrand who (·.endBarrier m.target rank upto (agentId 7 0 0 (m.port % 16)))) ∧
      ∀ who x result status data, s.byUid who = some x →
        (took s m).coll m.target d m.port (.joined who result) = (took s m).onCtx x (·.joined m.target result s.cycle) ∧
        (took s m).coll m.target d m.port (.result who status data) = (took s m).onCtx x (·.giveRound m.target status data)) ∧
  (∀ (s : State) (port chan : Nat) (up : Bool) (peer : BitVec 128),
    let v := (Tab.get 0 s.portstat port).toNat
    (s.portReady port = false → exec (.nonQftDatagram port) s = .next s) ∧
    (s.portReady port = true → ∃ t, exec (.nonQftDatagram port) s = .next t ∧
      t = { s with portstat := t.portstat } ∧
      bitsOf (Tab.get 0 t.portstat port).toNat 63 32 = min (bitsOf v 63 32 + 1) (2 ^ 32 - 1) ∧
      (Tab.get 0 t.portstat port).toNat % 2 ^ 32 = v % 2 ^ 32) ∧
    (∃ t, exec (.portLinkChange port up) s = .next t ∧ t = { s with portstat := t.portstat } ∧
      bitOf (Tab.get 0 t.portstat port).toNat 0 = up ∧ (Tab.get 0 t.portstat port).toNat / 2 = v / 2) ∧
    let ks := (s.conns.map (·.1)).filter fun k => k % 2 ^ 142 == (peer.toNat * 1024 + chan) * 16 + port
    exec (.qftResendTimeout port peer chan) s = .next (ks.foldl (fun u k => u.timeout k port peer chan) s) ∧
    (port < 16 → chan < 1024 → s.linkKey port peer chan = (s.addressOf port).toNat * 2 ^ 142 + (peer.toNat * 1024 + chan) * 16 + port ∧
      (Tab.has s.conns (s.linkKey port peer chan) = true → s.linkKey port peer chan ∈ ks)) ∧
    ∀ k, let c := Tab.get ({} : Conn) s.conns k
    let o : Host.Outcome State Fault Refusal := .next (s.timeout k port peer chan)
    (ks = [k] → exec (.qftResendTimeout port peer chan) s = o) ∧
    (c.unacked = [] ∨ c.dead = true ∨ s.time < c.timer + 20000 → o = .next s) ∧
    (c.unacked ≠ [] → c.dead = false → c.timer + 20000 ≤ s.time →
      (c.resends < 16 → ∃ t, o = .next t ∧ t.mem = s.mem ∧ t.ctxs = s.ctxs ∧
        t.conns = Tab.set s.conns k { c with resends := c.resends + 1, timer := s.time } ∧
        t.sent = s.sent ++ (if s.portReady port = true then c.unacked.map fun p => (port, peer, p.1, p.2) else [])) ∧
      (16 ≤ c.resends → ∃ t, o = .next t ∧ t.mem = s.mem ∧
        Tab.get ({} : Conn) t.conns k = { c with dead := true, unacked := [] } ∧
        (chan ≠ 0 → t.ctxs = s.ctxs ∧ t.crews = s.crews) ∧
        (chan = 0 → ∀ d, d < 256 → d ∈ s.devicesAt port peer → ∀ e ∈ t.crews, ∀ r ∈ e.rounds,
          (∃ x ∈ r.members, 2 ^ 64 ≤ x.2 ∧ x.2 / 2 ^ 64 - 1 = d) → r.dead = true) ∧
        (chan = 0 → ∀ d ∈ s.devicesAt port peer, ∀ b j, (s.ctx b).bound = true → (s.ctx b).eng.joins = [j] → s.crewHome j.1 = d →
          s.crewLocal j.1 = false → t.ctx b = (s.ctx b).joined j.1 (notJoined 4) s.cycle))))

/-- FUNCTION_READY sets the ready bit of its function and no other (R361); MODULE_RESET returns the device's registers
to their reset values, and contexts and memory stay (R361, R366, log 37); the boot ROM then brings up the host port
(R363). A sensor of a die at 105 °C lowers clocks until every die is below 100 °C; at 115 °C the module stops and
PWRSTAT keeps it (R366). PWRSTAT shows the hottest sensor, the window's average, and whether the clock of any cluster is
lowered for power; a cluster whose clock changes has a sync frame in its first cycle after that one (R346, R365, R366).
-/
def Obligations.BringUpPowerAndHeat : Prop :=
  (∀ (s : State) (n b : Nat) (f : Function),
    (n < 128 → ∃ t, exec (.functionReady (.tile n)) s = .next t ∧ t = { s with readyT := t.readyT } ∧
      ∀ i, i < 128 → t.readyT.getLsbD i = (s.readyT.getLsbD i || i == n)) ∧
    ((f = .fast n ∧ n < 8 ∧ b = n) ∨ (f = .capacity n ∧ n < 2 ∧ b = 8 + n) ∨ (f = .port n ∧ n < 9 ∧ b = 10 + n) ∨
        (f = .steward n ∧ n < 8 ∧ b = 19 + n) →
      ∃ t, exec (.functionReady f) s = .next t ∧ t = { s with readyM := t.readyM } ∧
        ∀ i, i < 27 → t.readyM.getLsbD i = (s.readyM.getLsbD i || i == b)) ∧
    ∃ t, exec .moduleReset s = .next t ∧ t.mem = s.mem ∧ t.ctxs = s.ctxs ∧ t.time = 0 ∧ t.devnum = 0 ∧ t.readyT = 0 ∧
      t.readyM = 0 ∧ t.fwstat = 0 ∧ t.pwrstat = 0 ∧ t.slotTab = [] ∧ t.jobqs = [] ∧ t.portstat = [] ∧ t.chteam = [] ∧
      t.peers = [] ∧ t.conns = [] ∧ t.firmware = [] ∧ t.image = [] ∧ t.eccCnt = 0 ∧
      t.hostSet = false ∧ t.hostHiSet = false ∧ t.ticks = s.ticks ∧ t.agenda = [.functionReady (.port 8)]) ∧
  (∀ (s : State) (die temp watts : Nat), die < 2 → (∀ d ∈ s.hot, d < 2) →
    let o := exec (.thermalThrottle die temp) s
    o = exec (.thermalTrip die temp) s ∧ o = exec (.thermalCoolBelow100 die temp) s ∧
    (∃ t, o = .next t ∧ t.mem = s.mem ∧ t.ctxs = s.ctxs ∧
      let p := t.pwrstat.toNat
      bitsOf p (23 + 8 * die) (16 + 8 * die) = min temp 255 ∧
      (105 ≤ temp → die ∈ t.hot ∧ bitOf p 1 = true) ∧
      (temp < 100 → die ∉ t.hot ∧ (bitOf p 1 = true ↔ 1 - die ∈ s.hot)) ∧
      (100 ≤ temp → temp < 105 → (die ∈ t.hot ↔ die ∈ s.hot)) ∧
      (115 ≤ temp → t.trip = true ∧ bitOf p 2 = true) ∧ (temp < 115 → t.trip = s.trip ∧ bitOf p 2 = bitOf s.pwrstat.toNat 2)) ∧
    (watts < 2 ^ 16 → ∃ t, exec (.powerWindow watts) s = .next t ∧ t.mem = s.mem ∧ t.ctxs = s.ctxs ∧
      bitsOf t.pwrstat.toNat 63 48 = watts ∧ bitOf t.pwrstat.toNat 0 = t.clocks.any (fun p => p.2 != 0) ∧
      (∀ k, k < 16 → t.clockOf k = Config.powerClock watts k ∧
        (s.clockOf k ≠ t.clockOf k → (Tab.get ({} : Trace) t.trace k).resync = some (s.cycle + 1))) ∧
      bitsOf t.pwrstat.toNat 47 1 = bitsOf s.pwrstat.toNat 47 1))

/-- A cluster whose trace is off records nothing; else a cycle's frame has a header, which in the cycle that TIME
advances holds the TIME before the tick (log 5's choice), and the words of its eight tiles, the count of frames goes up
by one, and the ring keeps the last 131,072 (R344, R345, R346). In triggered mode the frames after the trigger are
counted and then recording stops. More than 3 ticks make a sync frame. A tile word has a bit and a context slot for each
slot that issued, and the lowest event of the cycle with its data (R347). -/
def Obligations.TraceFrames : Prop :=
  (∀ ns : List Note, (∀ n ∈ ns, ∀ p ∈ n.issue, p.1 < 8 ∧ p.2 < 16) → (∀ n ∈ ns, n.event < 9) →
    let w := (tileWord ns).toNat
    (∀ i, i < 8 → (w.testBit (56 + i) = true ↔ ∃ n ∈ ns, ∃ x, (i, x) ∈ n.issue) ∧
      ((∀ n ∈ ns, ∀ p ∈ n.issue, p.1 ≠ i) → bitsOf w (27 + 4 * i) (24 + 4 * i) = 0) ∧
      ∀ us x vs, ns.flatMap (·.issue) = us ++ (i, x) :: vs → (∀ p ∈ us, p.1 ≠ i) → bitsOf w (27 + 4 * i) (24 + 4 * i) = x) ∧
    ((∀ n ∈ ns, n.event = 0) → w % 2 ^ 24 = 0) ∧
    ∀ us n vs, ns = us ++ n :: vs → n.event ≠ 0 → (∀ u ∈ us, u.event = 0 ∨ n.event < u.event) →
      (∀ v ∈ vs, v.event = 0 ∨ n.event ≤ v.event) → bitsOf w 23 20 = n.event ∧ bitsOf w 19 0 = n.data % 2 ^ 20) ∧
  (∀ (ctl : Word) (ns : List Note), triggers ctl ns = true ↔ ∃ n ∈ ns, n.event = 1 ∧
    (ctl.toNat.testBit 3 = true ∨ ctl.toNat.testBit 4 = true ∧ n.data / 4 % 512 = 0x29)) ∧
  ∀ (s : State) (k : Nat),
    let t := Tab.get ({} : Trace) s.trace k
    let now := if s.phase < 4 then s.time - 1 else s.time
    let mine := s.notes.filter fun n => clusterOf n.tile == k
    let words := (List.range 8).map fun i => tileWord (mine.filter fun n => n.tile == 8 * k + i)
    (t.ctl.toNat % 4 = 0 → exec (.traceFrame k) s = .next s) ∧
    (t.ctl.toNat % 4 ≠ 0 → ∃ u, exec (.traceFrame k) s = .next u ∧ u.mem = s.mem ∧ u.ctxs = s.ctxs ∧
      let v := Tab.get ({} : Trace) u.trace k
      v.pos = t.pos + 1 ∧ v.syncDue (s.cycle - 1) = false ∧ (∀ n ∈ u.notes, clusterOf n.tile ≠ k) ∧
      (∃ h, Tab.get [] v.frames t.pos = h :: words ∧ h.toNat / 2 ^ 62 ≤ 1 ∧
        (t.syncDue (s.cycle - 1) = true ∨ 3 < now - t.lastTime → h = word (2 ^ 62 + now % 2 ^ 60)) ∧
        (t.syncDue (s.cycle - 1) = false → now - t.lastTime ≤ 3 → h = word ((now - t.lastTime) * 2 ^ 60))) ∧
      (∀ p ∈ v.frames, t.pos < p.1 + 131072) ∧ v.lastTime = now ∧
      (∀ f, f ≠ t.pos → t.pos < f + 131072 → Tab.get [] v.frames f = Tab.get [] t.frames f) ∧
      (t.ctl.toNat % 4 = 2 → ∀ n, t.post = some (n + 2) → v.ctl = t.ctl ∧ v.post = some (n + 1)) ∧
      (t.ctl.toNat % 4 = 1 → v.ctl = t.ctl ∧ v.post = none) ∧
      (t.ctl.toNat % 4 = 2 → t.post = some 1 → v.ctl.toNat % 4 = 0) ∧
      (t.ctl.toNat % 4 = 2 → t.post = none → triggers t.ctl mine = false → v.ctl = t.ctl ∧ v.post = none) ∧
      (t.ctl.toNat % 4 = 2 → t.post = none → triggers t.ctl mine = true → 0 < bitsOf t.ctl.toNat 31 16 →
        v.ctl = t.ctl ∧ v.post = some (1024 * bitsOf t.ctl.toNat 31 16)) ∧
      (t.ctl.toNat % 4 = 2 → t.post = none → triggers t.ctl mine = true → bitsOf t.ctl.toNat 31 16 = 0 → v.ctl.toNat % 4 = 0))
end

