-- ==== Sys2Proof/Laws/Exec.lean ====
section
/-!
SUPPORT. `exec` at each constructor is its meaning.
-/

namespace Sys2Proof.Machine

@[simp] theorem exec_tlwaitImm {tl n} (s : State) : exec (.tlwaitImm tl n) s = execTlwaitImm tl n s := rfl
@[simp] theorem exec_tlwaitReg {tl sa} (s : State) : exec (.tlwaitReg tl sa) s = execTlwaitReg tl sa s := rfl
@[simp] theorem exec_nop (s : State) : exec .nop s = execNop s := rfl
@[simp] theorem exec_add {sd sa sb} (s : State) : exec (.add sd sa sb) s = execAdd sd sa sb s := rfl
@[simp] theorem exec_sub {sd sa sb} (s : State) : exec (.sub sd sa sb) s = execSub sd sa sb s := rfl
@[simp] theorem exec_mul {sd sa sb} (s : State) : exec (.mul sd sa sb) s = execMul sd sa sb s := rfl
@[simp] theorem exec_mulh {sd sa sb} (s : State) : exec (.mulh sd sa sb) s = execMulh sd sa sb s := rfl
@[simp] theorem exec_mulhu {sd sa sb} (s : State) : exec (.mulhu sd sa sb) s = execMulhu sd sa sb s := rfl
@[simp] theorem exec_div {sd sa sb} (s : State) : exec (.div sd sa sb) s = execDiv sd sa sb s := rfl
@[simp] theorem exec_divu {sd sa sb} (s : State) : exec (.divu sd sa sb) s = execDivu sd sa sb s := rfl
@[simp] theorem exec_rem {sd sa sb} (s : State) : exec (.rem sd sa sb) s = execRem sd sa sb s := rfl
@[simp] theorem exec_remu {sd sa sb} (s : State) : exec (.remu sd sa sb) s = execRemu sd sa sb s := rfl
@[simp] theorem exec_and {sd sa sb} (s : State) : exec (.and sd sa sb) s = execAnd sd sa sb s := rfl
@[simp] theorem exec_or {sd sa sb} (s : State) : exec (.or sd sa sb) s = execOr sd sa sb s := rfl
@[simp] theorem exec_xor {sd sa sb} (s : State) : exec (.xor sd sa sb) s = execXor sd sa sb s := rfl
@[simp] theorem exec_shl {sd sa sb} (s : State) : exec (.shl sd sa sb) s = execShl sd sa sb s := rfl
@[simp] theorem exec_shr {sd sa sb} (s : State) : exec (.shr sd sa sb) s = execShr sd sa sb s := rfl
@[simp] theorem exec_sar {sd sa sb} (s : State) : exec (.sar sd sa sb) s = execSar sd sa sb s := rfl
@[simp] theorem exec_rotr {sd sa sb} (s : State) : exec (.rotr sd sa sb) s = execRotr sd sa sb s := rfl
@[simp] theorem exec_min {sd sa sb} (s : State) : exec (.min sd sa sb) s = execMin sd sa sb s := rfl
@[simp] theorem exec_max {sd sa sb} (s : State) : exec (.max sd sa sb) s = execMax sd sa sb s := rfl
@[simp] theorem exec_minu {sd sa sb} (s : State) : exec (.minu sd sa sb) s = execMinu sd sa sb s := rfl
@[simp] theorem exec_maxu {sd sa sb} (s : State) : exec (.maxu sd sa sb) s = execMaxu sd sa sb s := rfl
@[simp] theorem exec_clz {sd sa} (s : State) : exec (.clz sd sa) s = execClz sd sa s := rfl
@[simp] theorem exec_ctz {sd sa} (s : State) : exec (.ctz sd sa) s = execCtz sd sa s := rfl
@[simp] theorem exec_popc {sd sa} (s : State) : exec (.popc sd sa) s = execPopc sd sa s := rfl
@[simp] theorem exec_sel {sd sa sb pn} (s : State) : exec (.sel sd sa sb pn) s = execSel sd sa sb pn s := rfl
@[simp] theorem exec_cmpEq {pd sa sb} (s : State) : exec (.cmpEq pd sa sb) s = execCmpEq pd sa sb s := rfl
@[simp] theorem exec_cmpNe {pd sa sb} (s : State) : exec (.cmpNe pd sa sb) s = execCmpNe pd sa sb s := rfl
@[simp] theorem exec_cmpLt {pd sa sb} (s : State) : exec (.cmpLt pd sa sb) s = execCmpLt pd sa sb s := rfl
@[simp] theorem exec_cmpLe {pd sa sb} (s : State) : exec (.cmpLe pd sa sb) s = execCmpLe pd sa sb s := rfl
@[simp] theorem exec_cmpLtu {pd sa sb} (s : State) : exec (.cmpLtu pd sa sb) s = execCmpLtu pd sa sb s := rfl
@[simp] theorem exec_cmpLeu {pd sa sb} (s : State) : exec (.cmpLeu pd sa sb) s = execCmpLeu pd sa sb s := rfl
@[simp] theorem exec_pset {pd pa pb tt} (s : State) : exec (.pset pd pa pb tt) s = execPset pd pa pb tt s := rfl
@[simp] theorem exec_pmovToScalar {sd} (s : State) : exec (.pmovToScalar sd) s = execPmovToScalar sd s := rfl
@[simp] theorem exec_pmovToPredicates {sa} (s : State) : exec (.pmovToPredicates sa) s = execPmovToPredicates sa s := rfl
@[simp] theorem exec_extr {sd sa pos len} (s : State) : exec (.extr sd sa pos len) s = execExtr sd sa pos len s := rfl
@[simp] theorem exec_ins {sd sa pos len} (s : State) : exec (.ins sd sa pos len) s = execIns sd sa pos len s := rfl
@[simp] theorem exec_sfadd {sd sa sb} (s : State) : exec (.sfadd sd sa sb) s = execSfadd sd sa sb s := rfl
@[simp] theorem exec_sfmul {sd sa sb} (s : State) : exec (.sfmul sd sa sb) s = execSfmul sd sa sb s := rfl
@[simp] theorem exec_sfma {sd sa sb sc} (s : State) : exec (.sfma sd sa sb sc) s = execSfma sd sa sb sc s := rfl
@[simp] theorem exec_sfcvt {sd sa kind} (s : State) : exec (.sfcvt sd sa kind) s = execSfcvt sd sa kind s := rfl
@[simp] theorem exec_abuf {ad sa sb} (s : State) : exec (.abuf ad sa sb) s = execAbuf ad sa sb s := rfl
@[simp] theorem exec_aadd {ad aa sb imm} (s : State) : exec (.aadd ad aa sb imm) s = execAadd ad aa sb imm s := rfl
@[simp] theorem exec_aget {sd aa} (s : State) : exec (.aget sd aa) s = execAget sd aa s := rfl
@[simp] theorem exec_aset {ad sa} (s : State) : exec (.aset ad sa) s = execAset ad sa s := rfl
@[simp] theorem exec_rdsp {sd num} (s : State) : exec (.rdsp sd num) s = execRdsp sd num s := rfl
@[simp] theorem exec_wrsp {sa num} (s : State) : exec (.wrsp sa num) s = execWrsp sa num s := rfl
@[simp] theorem exec_addi {sd sa imm} (s : State) : exec (.addi sd sa imm) s = execAddi sd sa imm s := rfl
@[simp] theorem exec_andi {sd sa imm} (s : State) : exec (.andi sd sa imm) s = execAndi sd sa imm s := rfl
@[simp] theorem exec_ori {sd sa imm} (s : State) : exec (.ori sd sa imm) s = execOri sd sa imm s := rfl
@[simp] theorem exec_xori {sd sa imm} (s : State) : exec (.xori sd sa imm) s = execXori sd sa imm s := rfl
@[simp] theorem exec_shli {sd sa n} (s : State) : exec (.shli sd sa n) s = execShli sd sa n s := rfl
@[simp] theorem exec_shri {sd sa n} (s : State) : exec (.shri sd sa n) s = execShri sd sa n s := rfl
@[simp] theorem exec_sari {sd sa n} (s : State) : exec (.sari sd sa n) s = execSari sd sa n s := rfl
@[simp] theorem exec_movi {sd imm} (s : State) : exec (.movi sd imm) s = execMovi sd imm s := rfl
@[simp] theorem exec_movhi {sd imm} (s : State) : exec (.movhi sd imm) s = execMovhi sd imm s := rfl
@[simp] theorem exec_br {off} (s : State) : exec (.br off) s = execBr off s := rfl
@[simp] theorem exec_brInd {sa} (s : State) : exec (.brInd sa) s = execBrInd sa s := rfl
@[simp] theorem exec_call {sd off} (s : State) : exec (.call sd off) s = execCall sd off s := rfl
@[simp] theorem exec_callInd {sd sa} (s : State) : exec (.callInd sd sa) s = execCallInd sd sa s := rfl
@[simp] theorem exec_ret {sa} (s : State) : exec (.ret sa) s = execRet sa s := rfl
@[simp] theorem exec_brpAny {pn cnt off} (s : State) : exec (.brpAny pn cnt off) s = execBrpAny pn cnt off s := rfl
@[simp] theorem exec_brpAll {pn cnt off} (s : State) : exec (.brpAll pn cnt off) s = execBrpAll pn cnt off s := rfl
@[simp] theorem exec_brpNone {pn cnt off} (s : State) : exec (.brpNone pn cnt off) s = execBrpNone pn cnt off s := rfl
@[simp] theorem exec_loopReg {len sa id} (s : State) : exec (.loopReg len sa id) s = execLoopReg len sa id s := rfl
@[simp] theorem exec_loopImm {len id count} (s : State) : exec (.loopImm len id count) s = execLoopImm len id count s := rfl
@[simp] theorem exec_lbrk (s : State) : exec .lbrk s = execLbrk s := rfl
@[simp] theorem exec_fork {map o1 o2 o3} (s : State) : exec (.fork map o1 o2 o3) s = execFork map o1 o2 o3 s := rfl
@[simp] theorem exec_join {mask} (s : State) : exec (.join mask) s = execJoin mask s := rfl
@[simp] theorem exec_gpost {g} (s : State) : exec (.gpost g) s = execGpost g s := rfl
@[simp] theorem exec_gtake {g} (s : State) : exec (.gtake g) s = execGtake g s := rfl
@[simp] theorem exec_gwait {g} (s : State) : exec (.gwait g) s = execGwait g s := rfl
@[simp] theorem exec_gclr {g} (s : State) : exec (.gclr g) s = execGclr g s := rfl
@[simp] theorem exec_halt (s : State) : exec .halt s = execHalt s := rfl
@[simp] theorem exec_yield (s : State) : exec .yield s = execYield s := rfl
@[simp] theorem exec_svc {code} (s : State) : exec (.svc code) s = execSvc code s := rfl
@[simp] theorem exec_trapret (s : State) : exec .trapret s = execTrapret s := rfl
@[simp] theorem exec_ctxsave {sa aa grade} (s : State) : exec (.ctxsave sa aa grade) s = execCtxsave sa aa grade s := rfl
@[simp] theorem exec_ctxload {sa aa grade} (s : State) : exec (.ctxload sa aa grade) s = execCtxload sa aa grade s := rfl
@[simp] theorem exec_tinv {sa sb size} (s : State) : exec (.tinv sa sb size) s = execTinv sa sb size s := rfl
@[simp] theorem exec_ldU8 {sd aa cls off} (s : State) : exec (.ldU8 sd aa cls off) s = execLdU8 sd aa cls off s := rfl
@[simp] theorem exec_ldS8 {sd aa cls off} (s : State) : exec (.ldS8 sd aa cls off) s = execLdS8 sd aa cls off s := rfl
@[simp] theorem exec_ldU16 {sd aa cls off} (s : State) : exec (.ldU16 sd aa cls off) s = execLdU16 sd aa cls off s := rfl
@[simp] theorem exec_ldS16 {sd aa cls off} (s : State) : exec (.ldS16 sd aa cls off) s = execLdS16 sd aa cls off s := rfl
@[simp] theorem exec_ldU32 {sd aa cls off} (s : State) : exec (.ldU32 sd aa cls off) s = execLdU32 sd aa cls off s := rfl
@[simp] theorem exec_ldS32 {sd aa cls off} (s : State) : exec (.ldS32 sd aa cls off) s = execLdS32 sd aa cls off s := rfl
@[simp] theorem exec_ld64 {sd aa cls off} (s : State) : exec (.ld64 sd aa cls off) s = execLd64 sd aa cls off s := rfl
@[simp] theorem exec_st8 {sa aa cls off} (s : State) : exec (.st8 sa aa cls off) s = execSt8 sa aa cls off s := rfl
@[simp] theorem exec_st16 {sa aa cls off} (s : State) : exec (.st16 sa aa cls off) s = execSt16 sa aa cls off s := rfl
@[simp] theorem exec_st32 {sa aa cls off} (s : State) : exec (.st32 sa aa cls off) s = execSt32 sa aa cls off s := rfl
@[simp] theorem exec_st64 {sa aa cls off} (s : State) : exec (.st64 sa aa cls off) s = execSt64 sa aa cls off s := rfl
@[simp] theorem exec_ldacq32 {sd aa cls off} (s : State) : exec (.ldacq32 sd aa cls off) s = execLdacq32 sd aa cls off s := rfl
@[simp] theorem exec_ldacq64 {sd aa cls off} (s : State) : exec (.ldacq64 sd aa cls off) s = execLdacq64 sd aa cls off s := rfl
@[simp] theorem exec_strel32 {sa aa cls off} (s : State) : exec (.strel32 sa aa cls off) s = execStrel32 sa aa cls off s := rfl
@[simp] theorem exec_strel64 {sa aa cls off} (s : State) : exec (.strel64 sa aa cls off) s = execStrel64 sa aa cls off s := rfl
@[simp] theorem exec_ldq {cnt aa cls stride} (s : State) : exec (.ldq cnt aa cls stride) s = execLdq cnt aa cls stride s := rfl
@[simp] theorem exec_ldqRowArrival {ctx} (s : State) : exec (.ldqRowArrival ctx) s = execLdqRowArrival ctx s := rfl
@[simp] theorem exec_stqa {cnt aa cls stride} (s : State) : exec (.stqa cnt aa cls stride) s = execStqa cnt aa cls stride s := rfl
@[simp] theorem exec_pairedStoreWrite {ctx} (s : State) : exec (.pairedStoreWrite ctx) s = execPairedStoreWrite ctx s := rfl
@[simp] theorem exec_amoAdd {sd aa sb cls sz un} (s : State) : exec (.amoAdd sd aa sb cls sz un) s = execAmoAdd sd aa sb cls sz un s := rfl
@[simp] theorem exec_amoMin {sd aa sb cls sz un} (s : State) : exec (.amoMin sd aa sb cls sz un) s = execAmoMin sd aa sb cls sz un s := rfl
@[simp] theorem exec_amoMax {sd aa sb cls sz un} (s : State) : exec (.amoMax sd aa sb cls sz un) s = execAmoMax sd aa sb cls sz un s := rfl
@[simp] theorem exec_amoAnd {sd aa sb cls sz un} (s : State) : exec (.amoAnd sd aa sb cls sz un) s = execAmoAnd sd aa sb cls sz un s := rfl
@[simp] theorem exec_amoOr {sd aa sb cls sz un} (s : State) : exec (.amoOr sd aa sb cls sz un) s = execAmoOr sd aa sb cls sz un s := rfl
@[simp] theorem exec_amoXor {sd aa sb cls sz un} (s : State) : exec (.amoXor sd aa sb cls sz un) s = execAmoXor sd aa sb cls sz un s := rfl
@[simp] theorem exec_amoSwap {sd aa sb cls sz un} (s : State) : exec (.amoSwap sd aa sb cls sz un) s = execAmoSwap sd aa sb cls sz un s := rfl
@[simp] theorem exec_cas {sd aa sb cls sz un} (s : State) : exec (.cas sd aa sb cls sz un) s = execCas sd aa sb cls sz un s := rfl
@[simp] theorem exec_fence {mask scope} (s : State) : exec (.fence mask scope) s = execFence mask scope s := rfl
@[simp] theorem exec_flset {sb aa cls scope} (s : State) : exec (.flset sb aa cls scope) s = execFlset sb aa cls scope s := rfl
@[simp] theorem exec_flsetAdd {sb aa cls scope} (s : State) : exec (.flsetAdd sb aa cls scope) s = execFlsetAdd sb aa cls scope s := rfl
@[simp] theorem exec_flwaitGe {sb aa cls scope} (s : State) : exec (.flwaitGe sb aa cls scope) s = execFlwaitGe sb aa cls scope s := rfl
@[simp] theorem exec_flwaitEq {sb aa cls scope} (s : State) : exec (.flwaitEq sb aa cls scope) s = execFlwaitEq sb aa cls scope s := rfl
@[simp] theorem exec_flwaitNe {sb aa cls scope} (s : State) : exec (.flwaitNe sb aa cls scope) s = execFlwaitNe sb aa cls scope s := rfl
@[simp] theorem exec_flagReevaluation {ctx grp} (s : State) : exec (.flagReevaluation ctx grp) s = execFlagReevaluation ctx grp s := rfl
@[simp] theorem exec_cpy {st ad as sn q cls sf} (s : State) : exec (.cpy st ad as sn q cls sf) s = execCpy st ad as sn q cls sf s := rfl
@[simp] theorem exec_cpyl {ad as sb q} (s : State) : exec (.cpyl ad as sb q) s = execCpyl ad as sb q s := rfl
@[simp] theorem exec_gath {st ad as sn q cls esz} (s : State) : exec (.gath st ad as sn q cls esz) s = execGath st ad as sn q cls esz s := rfl
@[simp] theorem exec_scat {st ad as sn q cls esz} (s : State) : exec (.scat st ad as sn q cls esz) s = execScat st ad as sn q cls esz s := rfl
@[simp] theorem exec_tmov {st ad as sn q cls sf} (s : State) : exec (.tmov st ad as sn q cls sf) s = execTmov st ad as sn q cls sf s := rfl
@[simp] theorem exec_rwr {st ad as sn q cls sf} (s : State) : exec (.rwr st ad as sn q cls sf) s = execRwr st ad as sn q cls sf s := rfl
@[simp] theorem exec_pref {st ad as sn q cls sb} (s : State) : exec (.pref st ad as sn q cls sb) s = execPref st ad as sn q cls sb s := rfl
@[simp] theorem exec_evict {st ad as sn q cls sb} (s : State) : exec (.evict st ad as sn q cls sb) s = execEvict st ad as sn q cls sb s := rfl
@[simp] theorem exec_credSum {st ad as sn q cls sc ty} (s : State) : exec (.credSum st ad as sn q cls sc ty) s = execCredSum st ad as sn q cls sc ty s := rfl
@[simp] theorem exec_credMax {st ad as sn q cls sc ty} (s : State) : exec (.credMax st ad as sn q cls sc ty) s = execCredMax st ad as sn q cls sc ty s := rfl
@[simp] theorem exec_credSmerge {st ad as sn q cls sc ty} (s : State) : exec (.credSmerge st ad as sn q cls sc ty) s = execCredSmerge st ad as sn q cls sc ty s := rfl
@[simp] theorem exec_credRoundCompletion {crew} (s : State) : exec (.credRoundCompletion crew) s = execCredRoundCompletion crew s := rfl
@[simp] theorem exec_kvgath {st ad ab sp q cls sl v pol} (s : State) : exec (.kvgath st ad ab sp q cls sl v pol) s = execKvgath st ad ab sp q cls sl v pol s := rfl
@[simp] theorem exec_kvgathSlotWake {ctx q} (s : State) : exec (.kvgathSlotWake ctx q) s = execKvgathSlotWake ctx q s := rfl
@[simp] theorem exec_kvapp {st ab as sp q cls sl mode} (s : State) : exec (.kvapp st ab as sp q cls sl mode) s = execKvapp st ab as sp q cls sl mode s := rfl
@[simp] theorem exec_appendAction {ctx q} (s : State) : exec (.appendAction ctx q) s = execAppendAction ctx q s := rfl
@[simp] theorem exec_tlget {sd tl} (s : State) : exec (.tlget sd tl) s = execTlget sd tl s := rfl
@[simp] theorem exec_copyBeat {ctx q} (s : State) : exec (.copyBeat ctx q) s = execCopyBeat ctx q s := rfl
@[simp] theorem exec_engineTrap {ctx} (s : State) : exec (.engineTrap ctx) s = execEngineTrap ctx s := rfl
@[simp] theorem exec_vch {cc a b c d x y z m} (s : State) : exec (.vch cc a b c d x y z m) s = execVch cc a b c d x y z m s := rfl
@[simp] theorem exec_vcvt {d x y m tag} (s : State) : exec (.vcvt d x y m tag) s = execVcvt d x y m tag s := rfl
@[simp] theorem exec_vredAdd {d x m} (s : State) : exec (.vredAdd d x m) s = execVredAdd d x m s := rfl
@[simp] theorem exec_vredMax {d x m} (s : State) : exec (.vredMax d x m) s = execVredMax d x m s := rfl
@[simp] theorem exec_vredMin {d x m} (s : State) : exec (.vredMin d x m) s = execVredMin d x m s := rfl
@[simp] theorem exec_vredAnd {d x m} (s : State) : exec (.vredAnd d x m) s = execVredAnd d x m s := rfl
@[simp] theorem exec_vredOr {d x m} (s : State) : exec (.vredOr d x m) s = execVredOr d x m s := rfl
@[simp] theorem exec_vscanAdd {d x m} (s : State) : exec (.vscanAdd d x m) s = execVscanAdd d x m s := rfl
@[simp] theorem exec_vscanMax {d x m} (s : State) : exec (.vscanMax d x m) s = execVscanMax d x m s := rfl
@[simp] theorem exec_vscanMin {d x m} (s : State) : exec (.vscanMin d x m) s = execVscanMin d x m s := rfl
@[simp] theorem exec_vscanAnd {d x m} (s : State) : exec (.vscanAnd d x m) s = execVscanAnd d x m s := rfl
@[simp] theorem exec_vscanOr {d x m} (s : State) : exec (.vscanOr d x m) s = execVscanOr d x m s := rfl
@[simp] theorem exec_vperm {d x y m} (s : State) : exec (.vperm d x y m) s = execVperm d x y m s := rfl
@[simp] theorem exec_vbcast {d x m lane} (s : State) : exec (.vbcast d x m lane) s = execVbcast d x m lane s := rfl
@[simp] theorem exec_vshuf {d x y m pat n} (s : State) : exec (.vshuf d x y m pat n) s = execVshuf d x y m pat n s := rfl
@[simp] theorem exec_vmaskFrom {mk x} (s : State) : exec (.vmaskFrom mk x) s = execVmaskFrom mk x s := rfl
@[simp] theorem exec_vmaskAnd {mk mi mj} (s : State) : exec (.vmaskAnd mk mi mj) s = execVmaskAnd mk mi mj s := rfl
@[simp] theorem exec_vmaskOr {mk mi mj} (s : State) : exec (.vmaskOr mk mi mj) s = execVmaskOr mk mi mj s := rfl
@[simp] theorem exec_vmaskAndn {mk mi mj} (s : State) : exec (.vmaskAndn mk mi mj) s = execVmaskAndn mk mi mj s := rfl
@[simp] theorem exec_vmaskCount {d mk} (s : State) : exec (.vmaskCount d mk) s = execVmaskCount d mk s := rfl
@[simp] theorem exec_vtag {d x m tag} (s : State) : exec (.vtag d x m tag) s = execVtag d x m tag s := rfl
@[simp] theorem exec_vmov {d x m} (s : State) : exec (.vmov d x m) s = execVmov d x m s := rfl
@[simp] theorem exec_vext {d x lane} (s : State) : exec (.vext d x lane) s = execVext d x lane s := rfl
@[simp] theorem exec_vins {d x y m lane} (s : State) : exec (.vins d x y m lane) s = execVins d x y m lane s := rfl
@[simp] theorem exec_exposedResultLanding {ctx} (s : State) : exec (.exposedResultLanding ctx) s = execExposedResultLanding ctx s := rfl
@[simp] theorem exec_scoreboardResultLanding {ctx} (s : State) : exec (.scoreboardResultLanding ctx) s = execScoreboardResultLanding ctx s := rfl
@[simp] theorem exec_mcfg {t fmt} (s : State) : exec (.mcfg t fmt) s = execMcfg t fmt s := rfl
@[simp] theorem exec_mset {level field sa} (s : State) : exec (.mset level field sa) s = execMset level field sa s := rfl
@[simp] theorem exec_msetI {level field imm} (s : State) : exec (.msetI level field imm) s = execMsetI level field imm s := rfl
@[simp] theorem exec_mgo (s : State) : exec .mgo s = execMgo s := rfl
@[simp] theorem exec_mwait (s : State) : exec .mwait s = execMwait s := rfl
@[simp] theorem exec_mclr {t} (s : State) : exec (.mclr t) s = execMclr t s := rfl
@[simp] theorem exec_mstop (s : State) : exec .mstop s = execMstop s := rfl
@[simp] theorem exec_msnap {td ts sd} (s : State) : exec (.msnap td ts sd) s = execMsnap td ts sd s := rfl
@[simp] theorem exec_mplane {ad as sn fmt} (s : State) : exec (.mplane ad as sn fmt) s = execMplane ad as sn fmt s := rfl
@[simp] theorem exec_mprov {sd word} (s : State) : exec (.mprov sd word) s = execMprov sd word s := rfl
@[simp] theorem exec_matrixStep {ctx} (s : State) : exec (.matrixStep ctx) s = execMatrixStep ctx s := rfl
@[simp] theorem exec_route {sd atile ar st sl rows} (s : State) : exec (.route sd atile ar st sl rows) s = execRoute sd atile ar st sl rows s := rfl
@[simp] theorem exec_heddleDelivery {ctx num} (s : State) : exec (.heddleDelivery ctx num) s = execHeddleDelivery ctx num s := rfl
@[simp] theorem exec_rret {st ar} (s : State) : exec (.rret st ar) s = execRret st ar s := rfl
@[simp] theorem exec_reedReturnArrival {n} (s : State) : exec (.reedReturnArrival n) s = execReedReturnArrival n s := rfl
@[simp] theorem exec_routeDeadline {ctx num} (s : State) : exec (.routeDeadline ctx num) s = execRouteDeadline ctx num s := rfl
@[simp] theorem exec_rwait {si} (s : State) : exec (.rwait si) s = execRwait si s := rfl
@[simp] theorem exec_rstat {sd si word} (s : State) : exec (.rstat sd si word) s = execRstat sd si word s := rfl
@[simp] theorem exec_conftMaxp {pd al sh sx} (s : State) : exec (.conftMaxp pd al sh sx) s = execConftMaxp pd al sh sx s := rfl
@[simp] theorem exec_conftEnt {pd al sh sx} (s : State) : exec (.conftEnt pd al sh sx) s = execConftEnt pd al sh sx s := rfl
@[simp] theorem exec_exitRecordPosting {die} (s : State) : exec (.exitRecordPosting die) s = execExitRecordPosting die s := rfl
@[simp] theorem exec_chervilAgeTimeout {die} (s : State) : exec (.chervilAgeTimeout die) s = execChervilAgeTimeout die s := rfl
@[simp] theorem exec_chervilCardSubmission {die} (s : State) : exec (.chervilCardSubmission die) s = execChervilCardSubmission die s := rfl
@[simp] theorem exec_chervilRetry {die} (s : State) : exec (.chervilRetry die) s = execChervilRetry die s := rfl
@[simp] theorem exec_rngkey {sa sb rst} (s : State) : exec (.rngkey sa sb rst) s = execRngkey sa sb rst s := rfl
@[simp] theorem exec_enrd {sd} (s : State) : exec (.enrd sd) s = execEnrd sd s := rfl
@[simp] theorem exec_jobq {sd ac sq} (s : State) : exec (.jobq sd ac sq) s = execJobq sd ac sq s := rfl
@[simp] theorem exec_launch {sd ac sq} (s : State) : exec (.launch sd ac sq) s = execLaunch sd ac sq s := rfl
@[simp] theorem exec_futinit {af} (s : State) : exec (.futinit af) s = execFutinit af s := rfl
@[simp] theorem exec_futreg {af sc sj} (s : State) : exec (.futreg af sc sj) s = execFutreg af sc sj s := rfl
@[simp] theorem exec_futres {af sv} (s : State) : exec (.futres af sv) s = execFutres af sv s := rfl
@[simp] theorem exec_futwait {sd af} (s : State) : exec (.futwait sd af) s = execFutwait sd af s := rfl
@[simp] theorem exec_continuationCredit (s : State) : exec .continuationCredit s = execContinuationCredit s := rfl
@[simp] theorem exec_continuationLaunch (s : State) : exec .continuationLaunch s = execContinuationLaunch s := rfl
@[simp] theorem exec_crewjoin {sd sc} (s : State) : exec (.crewjoin sd sc) s = execCrewjoin sd sc s := rfl
@[simp] theorem exec_crewleave {sc} (s : State) : exec (.crewleave sc) s = execCrewleave sc s := rfl
@[simp] theorem exec_cbar {sc} (s : State) : exec (.cbar sc) s = execCbar sc s := rfl
@[simp] theorem exec_crewGenerationCompletion {crew} (s : State) : exec (.crewGenerationCompletion crew) s = execCrewGenerationCompletion crew s := rfl
@[simp] theorem exec_streamDeadlock {ctx} (s : State) : exec (.streamDeadlock ctx) s = execStreamDeadlock ctx s := rfl
@[simp] theorem exec_replayLanding {ctx} (s : State) : exec (.replayLanding ctx) s = execReplayLanding ctx s := rfl
@[simp] theorem exec_noticePost {ctx n} (s : State) : exec (.noticePost ctx n) s = execNoticePost ctx n s := rfl
@[simp] theorem exec_noticeTrap {ctx} (s : State) : exec (.noticeTrap ctx) s = execNoticeTrap ctx s := rfl
@[simp] theorem exec_agentWatchTrap {ctx} (s : State) : exec (.agentWatchTrap ctx) s = execAgentWatchTrap ctx s := rfl
@[simp] theorem exec_hang {ctx} (s : State) : exec (.hang ctx) s = execHang ctx s := rfl
@[simp] theorem exec_freezeRequest {ctx} (s : State) : exec (.freezeRequest ctx) s = execFreezeRequest ctx s := rfl
@[simp] theorem exec_bindNew {ctx record} (s : State) : exec (.bindNew ctx record) s = execBindNew ctx record s := rfl
@[simp] theorem exec_restore {ctx record} (s : State) : exec (.restore ctx record) s = execRestore ctx record s := rfl
@[simp] theorem exec_swapOut {ctx record} (s : State) : exec (.swapOut ctx record) s = execSwapOut ctx record s := rfl
@[simp] theorem exec_tearDown {ctx record} (s : State) : exec (.tearDown ctx record) s = execTearDown ctx record s := rfl
@[simp] theorem exec_cadenceRelease {q} (s : State) : exec (.cadenceRelease q) s = execCadenceRelease q s := rfl
@[simp] theorem exec_cardAgeing {q} (s : State) : exec (.cardAgeing q) s = execCardAgeing q s := rfl
@[simp] theorem exec_quantumExpiry {ctxs} (s : State) : exec (.quantumExpiry ctxs) s = execQuantumExpiry ctxs s := rfl
@[simp] theorem exec_staticEnergyCharge {tile} (s : State) : exec (.staticEnergyCharge tile) s = execStaticEnergyCharge tile s := rfl
@[simp] theorem exec_firmwareInvalidation {buffer page size} (s : State) : exec (.firmwareInvalidation buffer page size) s = execFirmwareInvalidation buffer page size s := rfl
@[simp] theorem exec_queueSwitchOut {q} (s : State) : exec (.queueSwitchOut q) s = execQueueSwitchOut q s := rfl
@[simp] theorem exec_queueSwitchIn {q desc} (s : State) : exec (.queueSwitchIn q desc) s = execQueueSwitchIn q desc s := rfl
@[simp] theorem exec_qftWrite {m} (s : State) : exec (.qftWrite m) s = execQftWrite m s := rfl
@[simp] theorem exec_qftRead {m} (s : State) : exec (.qftRead m) s = execQftRead m s := rfl
@[simp] theorem exec_qftReaddata {m} (s : State) : exec (.qftReaddata m) s = execQftReaddata m s := rfl
@[simp] theorem exec_qftPut {m} (s : State) : exec (.qftPut m) s = execQftPut m s := rfl
@[simp] theorem exec_qftGet {m} (s : State) : exec (.qftGet m) s = execQftGet m s := rfl
@[simp] theorem exec_qftDone {m} (s : State) : exec (.qftDone m) s = execQftDone m s := rfl
@[simp] theorem exec_qftLoad {m} (s : State) : exec (.qftLoad m) s = execQftLoad m s := rfl
@[simp] theorem exec_qftColl {m c} (s : State) : exec (.qftColl m c) s = execQftColl m c s := rfl
@[simp] theorem exec_qftTrace {m} (s : State) : exec (.qftTrace m) s = execQftTrace m s := rfl
@[simp] theorem exec_qftNak {m} (s : State) : exec (.qftNak m) s = execQftNak m s := rfl
@[simp] theorem exec_nonQftDatagram {port} (s : State) : exec (.nonQftDatagram port) s = execNonQftDatagram port s := rfl
@[simp] theorem exec_qftResendTimeout {port peer chan} (s : State) : exec (.qftResendTimeout port peer chan) s = execQftResendTimeout port peer chan s := rfl
@[simp] theorem exec_moduleReset (s : State) : exec .moduleReset s = execModuleReset s := rfl
@[simp] theorem exec_functionReady {f} (s : State) : exec (.functionReady f) s = execFunctionReady f s := rfl
@[simp] theorem exec_powerWindow {watts} (s : State) : exec (.powerWindow watts) s = execPowerWindow watts s := rfl
@[simp] theorem exec_thermalThrottle {die temp} (s : State) : exec (.thermalThrottle die temp) s = execThermalThrottle die temp s := rfl
@[simp] theorem exec_thermalTrip {die temp} (s : State) : exec (.thermalTrip die temp) s = execThermalTrip die temp s := rfl
@[simp] theorem exec_cardCountZeroDispatch {q} (s : State) : exec (.cardCountZeroDispatch q) s = execCardCountZeroDispatch q s := rfl
@[simp] theorem exec_traceFrame {cluster} (s : State) : exec (.traceFrame cluster) s = execTraceFrame cluster s := rfl
@[simp] theorem exec_portLinkChange {port up} (s : State) : exec (.portLinkChange port up) s = execPortLinkChange port up s := rfl
@[simp] theorem exec_thermalCoolBelow100 {die temp} (s : State) : exec (.thermalCoolBelow100 die temp) s = execThermalCoolBelow100 die temp s := rfl

end Sys2Proof.Machine
end

