-- ==== Sys2Proof/Laws/Mem.lean ====
section
/-!
SUPPORT. Tables and memory: a read after a write, writes apart, and the canonical form that every memory
operation keeps (log 2).
-/

namespace Sys2Proof.Machine

/-! Tables. -/

@[simp] theorem tab_get_nil {α : Type} (d : α) (k : Nat) : Tab.get d ([] : List (Nat × α)) k = d := rfl

theorem tab_get_cons {α : Type} (d : α) (j : Nat) (v : α) (r : List (Nat × α)) (k : Nat) :
    Tab.get d ((j, v) :: r) k = if j = k then v else Tab.get d r k := rfl

@[simp] theorem tab_get_set_self {α : Type} (d : α) (t : List (Nat × α)) (k : Nat) (v : α) :
    Tab.get d (Tab.set t k v) k = v := by
  induction t with
  | nil => simp [Tab.set, Tab.get]
  | cons p r ih =>
    obtain ⟨j, w⟩ := p
    unfold Tab.set
    split
    · simp [Tab.get]
    · split
      · simp [Tab.get]
      · simp [Tab.get, *]

theorem tab_get_set_other {α : Type} (d : α) (t : List (Nat × α)) {j k : Nat} (v : α) (h : j ≠ k) :
    Tab.get d (Tab.set t k v) j = Tab.get d t j := by
  induction t with
  | nil => simp [Tab.set, Tab.get, Ne.symm h]
  | cons p r ih =>
    obtain ⟨i, w⟩ := p
    unfold Tab.set
    split
    · subst_vars; simp [Tab.get, Ne.symm h]
    · split
      · simp [Tab.get, Ne.symm h]
      · simp only [Tab.get, ih]

theorem tab_get_set {α : Type} (d : α) (t : List (Nat × α)) (j k : Nat) (v : α) :
    Tab.get d (Tab.set t k v) j = if j = k then v else Tab.get d t j := by
  split
  · subst_vars; simp
  · exact tab_get_set_other d t v ‹_›

/-- A map that changes values alone commutes with a look-up whose default it keeps. -/
theorem tab_get_map {α : Type} (d : α) (f : Nat → α → α) (t : List (Nat × α)) (k : Nat) (hd : f k d = d) :
    Tab.get d (t.map fun p => (p.1, f p.1 p.2)) k = f k (Tab.get d t k) := by
  induction t with
  | nil => simp [hd]
  | cons p r ih =>
    simp only [List.map_cons, Tab.get]
    split
    · subst_vars; rfl
    · exact ih

/-! Walks. -/

/-- Under the tables in memory the walk is one walk (R78-R81). -/
theorem walk_mem (s : State) (e : Nat) (a : Word) (n : Nat) : walk s s.mem e a n =
    if 1610612736 ≤ bitsOf e 179 140 * 4096 then .error ⟨0x10, a, 0⟩
    else walkFrom s s.mem a (entryPage e) (n * 2 ^ entryPage e) (channelCap (entryTier e)) 4 0
      (bitsOf e 191 184) (bitsOf e 179 140 * 4096) := by
  unfold walk
  dsimp only
  split
  · rfl
  · split <;> simp [*]

/-! Contexts. -/

@[simp] theorem State.ctx_setCtx_self (s : State) (c : Nat) (x : Ctx) : (s.setCtx c x).ctx c = x := by
  simp [State.ctx, State.setCtx]

theorem State.ctx_setCtx_other (s : State) {c d : Nat} (x : Ctx) (h : d ≠ c) : (s.setCtx c x).ctx d = s.ctx d :=
  tab_get_set_other _ _ _ h

@[simp] theorem State.ctx_onCtx_self (s : State) (c : Nat) (f : Ctx → Ctx) : (s.onCtx c f).ctx c = f (s.ctx c) := by
  simp [State.onCtx]

theorem State.ctx_onCtx_other (s : State) {c d : Nat} (f : Ctx → Ctx) (h : d ≠ c) :
    (s.onCtx c f).ctx d = s.ctx d :=
  State.ctx_setCtx_other s _ h

/-! One byte of memory. -/

theorem memGet_filter (m : List Host.Cell) (f : Nat → Bool) (k : Nat) :
    memGet (m.filter fun p => f p.1) k = if f k then memGet m k else 0 := by
  unfold memGet
  induction m with
  | nil => simp
  | cons p r ih =>
    obtain ⟨j, w⟩ := p
    by_cases hj : f j <;> by_cases hk : j = k <;> simp_all [Tab.get]

theorem memGet_memInsert (m : List Host.Cell) (j k : Nat) (v : Byte) (h : ∀ p ∈ m, p.1 ≠ k) :
    memGet (memInsert m k v) j = if j = k then v else memGet m j := by
  unfold memGet
  induction m with
  | nil => by_cases hj : j = k <;> simp [memInsert, Tab.get, hj, eq_comm]
  | cons p r ih =>
    obtain ⟨i, w⟩ := p
    have hi : i ≠ k := h (i, w) List.mem_cons_self
    have ih := ih fun p hp => h p (by simp [hp])
    unfold memInsert
    split
    · by_cases hj : j = k <;> simp [Tab.get, hj, Ne.symm, eq_comm]
    · simp only [Tab.get, ih]
      split
      · rw [if_neg]; omega
      · rfl

/-- A byte reads as written, and every other byte as before. -/
theorem memGet_memPut (m : List Host.Cell) (j k : Nat) (v : Byte) :
    memGet (memPut m k v) j = if j = k then v else memGet m j := by
  have hf : memGet (m.filter (·.1 != k)) j = if (j != k) = true then memGet m j else 0 :=
    memGet_filter m (· != k) j
  unfold memPut
  dsimp only
  split
  · rw [hf]; by_cases hj : j = k <;> simp_all
  · rw [memGet_memInsert _ _ _ _ (by simp), hf]; by_cases hj : j = k <;> simp [hj]

@[simp] theorem memGet_memPut_self (m : List Host.Cell) (k : Nat) (v : Byte) : memGet (memPut m k v) k = v := by
  simp [memGet_memPut]

theorem memGet_memPut_other (m : List Host.Cell) {j k : Nat} (v : Byte) (h : j ≠ k) :
    memGet (memPut m k v) j = memGet m j := by
  simp [memGet_memPut, h]

/-- Bytes that are not written stay. -/
theorem memGet_memPutAll_other (m : List Host.Cell) (ks : List Nat) (vs : List Byte) (j : Nat) (h : j ∉ ks) :
    memGet (memPutAll m ks vs) j = memGet m j := by
  induction ks generalizing m vs with
  | nil => simp [memPutAll]
  | cons k ks ih =>
    cases vs with
    | nil => rfl
    | cons v vs =>
      simp only [List.mem_cons, not_or] at h
      rw [memPutAll, ih _ _ h.2, memGet_memPut_other _ _ h.1]

/-- Bytes written at distinct keys read back. -/
theorem memGetAll_memPutAll (m : List Host.Cell) (ks : List Nat) (vs : List Byte) (hl : ks.length = vs.length)
    (hn : ks.Nodup) : memGetAll (memPutAll m ks vs) ks = vs := by
  induction ks generalizing m vs with
  | nil => cases vs <;> simp_all [memGetAll]
  | cons k ks ih =>
    cases vs with
    | nil => simp at hl
    | cons v vs =>
      simp only [List.nodup_cons] at hn
      have ih := ih (memPut m k v) vs (by simpa using hl) hn.2
      unfold memGetAll at ih ⊢
      rw [memPutAll, List.map_cons, ih, memGet_memPutAll_other _ _ _ _ hn.1, memGet_memPut_self]

/-! The canonical form. -/

theorem memWf_cons (j : Nat) (v : Byte) (r : List Host.Cell) :
    memWf ((j, v) :: r) = true ↔ v ≠ 0 ∧ (∀ p ∈ r, j < p.1) ∧ memWf r = true := by
  induction r generalizing j v with
  | nil => simp [memWf]
  | cons p r ih =>
    obtain ⟨k, w⟩ := p
    simp only [memWf, Bool.and_eq_true, decide_eq_true_eq, bne_iff_ne, ne_eq]
    constructor
    · rintro ⟨⟨hj, hv⟩, hr⟩
      refine ⟨hv, ?_, hr⟩
      intro p hp
      rcases List.mem_cons.1 hp with rfl | hp
      · exact hj
      · exact Nat.lt_trans hj (((ih k w).1 hr).2.1 p hp)
    · rintro ⟨hv, hr, hw⟩
      exact ⟨⟨hr (k, w) List.mem_cons_self, hv⟩, hw⟩

/-- Cells taken out leave the canonical form. -/
theorem memWf_filter (m : List Host.Cell) (f : Host.Cell → Bool) (h : memWf m = true) : memWf (m.filter f) = true := by
  induction m with
  | nil => rfl
  | cons p r ih =>
    obtain ⟨j, v⟩ := p
    obtain ⟨hv, hj, hr⟩ := (memWf_cons j v r).1 h
    rw [List.filter_cons]
    split
    · exact (memWf_cons j v _).2 ⟨hv, fun p hp => hj p (List.mem_filter.1 hp).1, ih hr⟩
    · exact ih hr

theorem mem_memInsert (m : List Host.Cell) (k : Nat) (v : Byte) (p : Host.Cell) (h : p ∈ memInsert m k v) :
    p = (k, v) ∨ p ∈ m := by
  induction m with
  | nil => simpa [memInsert] using h
  | cons q r ih =>
    obtain ⟨i, w⟩ := q
    unfold memInsert at h
    split at h
    · simpa using h
    · rcases List.mem_cons.1 h with rfl | h
      · simp
      · rcases ih h with rfl | h <;> simp [*]

theorem memWf_memInsert (m : List Host.Cell) (k : Nat) (v : Byte) (hv : v ≠ 0) (hk : ∀ p ∈ m, p.1 ≠ k)
    (h : memWf m = true) : memWf (memInsert m k v) = true := by
  induction m with
  | nil => simpa [memInsert, memWf] using hv
  | cons p r ih =>
    obtain ⟨j, w⟩ := p
    obtain ⟨hw, hj, hr⟩ := (memWf_cons j w r).1 h
    have hjk : j ≠ k := hk (j, w) List.mem_cons_self
    unfold memInsert
    split
    · refine (memWf_cons _ _ _).2 ⟨hv, ?_, h⟩
      intro p hp
      rcases List.mem_cons.1 hp with rfl | hp
      · assumption
      · exact Nat.lt_trans ‹_› (hj p hp)
    · refine (memWf_cons _ _ _).2 ⟨hw, ?_, ih (fun p hp => hk p (by simp [hp])) hr⟩
      intro p hp
      rcases mem_memInsert r k v p hp with rfl | hp
      · show j < k; omega
      · exact hj p hp

/-- A byte written keeps the canonical form. -/
theorem memWf_memPut (m : List Host.Cell) (k : Nat) (v : Byte) (h : memWf m = true) :
    memWf (memPut m k v) = true := by
  unfold memPut
  dsimp only
  split
  · exact memWf_filter _ _ h
  · exact memWf_memInsert _ _ _ ‹_› (by simp) (memWf_filter _ _ h)

/-- Bytes written keep the canonical form. -/
theorem memWf_memPutAll (m : List Host.Cell) (ks : List Nat) (vs : List Byte) (h : memWf m = true) :
    memWf (memPutAll m ks vs) = true := by
  induction ks generalizing m vs with
  | nil => simpa [memPutAll] using h
  | cons k ks ih =>
    cases vs with
    | nil => exact h
    | cons v vs => exact ih _ _ (memWf_memPut m k v h)

end Sys2Proof.Machine
end

