-- ==== Sys2Proof/Laws/State.lean ====
section
/-!
SUPPORT. One lemma for each field and update of the state and of a context, so that no proof unfolds a record
update.
-/

namespace Sys2Proof.Machine

/-! A context replaced or changed: every other field stays. -/

@[simp] theorem State.setCtx_cycle (s : State) (c : Nat) (x : Ctx) : (s.setCtx c x).cycle = s.cycle := rfl
@[simp] theorem State.setCtx_time (s : State) (c : Nat) (x : Ctx) : (s.setCtx c x).time = s.time := rfl
@[simp] theorem State.setCtx_phase (s : State) (c : Nat) (x : Ctx) : (s.setCtx c x).phase = s.phase := rfl
@[simp] theorem State.setCtx_trip (s : State) (c : Nat) (x : Ctx) : (s.setCtx c x).trip = s.trip := rfl
@[simp] theorem State.setCtx_epoch (s : State) (c : Nat) (x : Ctx) : (s.setCtx c x).epoch = s.epoch := rfl
@[simp] theorem State.setCtx_owedT (s : State) (c : Nat) (x : Ctx) : (s.setCtx c x).owedT = s.owedT := rfl
@[simp] theorem State.setCtx_owedM (s : State) (c : Nat) (x : Ctx) : (s.setCtx c x).owedM = s.owedM := rfl
@[simp] theorem State.setCtx_clocks (s : State) (c : Nat) (x : Ctx) : (s.setCtx c x).clocks = s.clocks := rfl
@[simp] theorem State.setCtx_rates (s : State) (c : Nat) (x : Ctx) : (s.setCtx c x).rates = s.rates := rfl
@[simp] theorem State.setCtx_missed (s : State) (c : Nat) (x : Ctx) : (s.setCtx c x).missed = s.missed := rfl
@[simp] theorem State.setCtx_mem (s : State) (c : Nat) (x : Ctx) : (s.setCtx c x).mem = s.mem := rfl
@[simp] theorem State.setCtx_poison (s : State) (c : Nat) (x : Ctx) : (s.setCtx c x).poison = s.poison := rfl
@[simp] theorem State.setCtx_eccCnt (s : State) (c : Nat) (x : Ctx) : (s.setCtx c x).eccCnt = s.eccCnt := rfl
@[simp] theorem State.setCtx_pool (s : State) (c : Nat) (x : Ctx) : (s.setCtx c x).pool = s.pool := rfl
@[simp] theorem State.setCtx_holder (s : State) (c : Nat) (x : Ctx) : (s.setCtx c x).holder = s.holder := rfl
@[simp] theorem State.setCtx_slotTab (s : State) (c : Nat) (x : Ctx) : (s.setCtx c x).slotTab = s.slotTab := rfl
@[simp] theorem State.setCtx_jobqs (s : State) (c : Nat) (x : Ctx) : (s.setCtx c x).jobqs = s.jobqs := rfl
@[simp] theorem State.setCtx_launch (s : State) (c : Nat) (x : Ctx) : (s.setCtx c x).launch = s.launch := rfl
@[simp] theorem State.setCtx_runs (s : State) (c : Nat) (x : Ctx) : (s.setCtx c x).runs = s.runs := rfl
@[simp] theorem State.setCtx_teams (s : State) (c : Nat) (x : Ctx) : (s.setCtx c x).teams = s.teams := rfl
@[simp] theorem State.setCtx_portRecs (s : State) (c : Nat) (x : Ctx) : (s.setCtx c x).portRecs = s.portRecs := rfl
@[simp] theorem State.setCtx_uid (s : State) (c : Nat) (x : Ctx) : (s.setCtx c x).uid = s.uid := rfl
@[simp] theorem State.setCtx_images (s : State) (c : Nat) (x : Ctx) : (s.setCtx c x).images = s.images := rfl
@[simp] theorem State.setCtx_yields (s : State) (c : Nat) (x : Ctx) : (s.setCtx c x).yields = s.yields := rfl
@[simp] theorem State.setCtx_served (s : State) (c : Nat) (x : Ctx) : (s.setCtx c x).served = s.served := rfl
@[simp] theorem State.setCtx_agePeriod (s : State) (c : Nat) (x : Ctx) : (s.setCtx c x).agePeriod = s.agePeriod := rfl
@[simp] theorem State.setCtx_quantum (s : State) (c : Nat) (x : Ctx) : (s.setCtx c x).quantum = s.quantum := rfl
@[simp] theorem State.setCtx_inv (s : State) (c : Nat) (x : Ctx) : (s.setCtx c x).inv = s.inv := rfl
@[simp] theorem State.setCtx_known (s : State) (c : Nat) (x : Ctx) : (s.setCtx c x).known = s.known := rfl
@[simp] theorem State.setCtx_marks (s : State) (c : Nat) (x : Ctx) : (s.setCtx c x).marks = s.marks := rfl
@[simp] theorem State.setCtx_crews (s : State) (c : Nat) (x : Ctx) : (s.setCtx c x).crews = s.crews := rfl
@[simp] theorem State.setCtx_credits (s : State) (c : Nat) (x : Ctx) : (s.setCtx c x).credits = s.credits := rfl
@[simp] theorem State.setCtx_waiting (s : State) (c : Nat) (x : Ctx) : (s.setCtx c x).waiting = s.waiting := rfl
@[simp] theorem State.setCtx_returns (s : State) (c : Nat) (x : Ctx) : (s.setCtx c x).returns = s.returns := rfl
@[simp] theorem State.setCtx_chervil (s : State) (c : Nat) (x : Ctx) : (s.setCtx c x).chervil = s.chervil := rfl
@[simp] theorem State.setCtx_weights (s : State) (c : Nat) (x : Ctx) : (s.setCtx c x).weights = s.weights := rfl
@[simp] theorem State.setCtx_trace (s : State) (c : Nat) (x : Ctx) : (s.setCtx c x).trace = s.trace := rfl
@[simp] theorem State.setCtx_devnum (s : State) (c : Nat) (x : Ctx) : (s.setCtx c x).devnum = s.devnum := rfl
@[simp] theorem State.setCtx_hostLo (s : State) (c : Nat) (x : Ctx) : (s.setCtx c x).hostLo = s.hostLo := rfl
@[simp] theorem State.setCtx_hostHi (s : State) (c : Nat) (x : Ctx) : (s.setCtx c x).hostHi = s.hostHi := rfl
@[simp] theorem State.setCtx_hostSet (s : State) (c : Nat) (x : Ctx) : (s.setCtx c x).hostSet = s.hostSet := rfl
@[simp] theorem State.setCtx_hostHiSet (s : State) (c : Nat) (x : Ctx) : (s.setCtx c x).hostHiSet = s.hostHiSet := rfl
@[simp] theorem State.setCtx_portstat (s : State) (c : Nat) (x : Ctx) : (s.setCtx c x).portstat = s.portstat := rfl
@[simp] theorem State.setCtx_portAddr (s : State) (c : Nat) (x : Ctx) : (s.setCtx c x).portAddr = s.portAddr := rfl
@[simp] theorem State.setCtx_chteam (s : State) (c : Nat) (x : Ctx) : (s.setCtx c x).chteam = s.chteam := rfl
@[simp] theorem State.setCtx_chtab (s : State) (c : Nat) (x : Ctx) : (s.setCtx c x).chtab = s.chtab := rfl
@[simp] theorem State.setCtx_peers (s : State) (c : Nat) (x : Ctx) : (s.setCtx c x).peers = s.peers := rfl
@[simp] theorem State.setCtx_conns (s : State) (c : Nat) (x : Ctx) : (s.setCtx c x).conns = s.conns := rfl
@[simp] theorem State.setCtx_readyT (s : State) (c : Nat) (x : Ctx) : (s.setCtx c x).readyT = s.readyT := rfl
@[simp] theorem State.setCtx_readyM (s : State) (c : Nat) (x : Ctx) : (s.setCtx c x).readyM = s.readyM := rfl
@[simp] theorem State.setCtx_fwstat (s : State) (c : Nat) (x : Ctx) : (s.setCtx c x).fwstat = s.fwstat := rfl
@[simp] theorem State.setCtx_pwrstat (s : State) (c : Nat) (x : Ctx) : (s.setCtx c x).pwrstat = s.pwrstat := rfl
@[simp] theorem State.setCtx_hot (s : State) (c : Nat) (x : Ctx) : (s.setCtx c x).hot = s.hot := rfl
@[simp] theorem State.setCtx_image (s : State) (c : Nat) (x : Ctx) : (s.setCtx c x).image = s.image := rfl
@[simp] theorem State.setCtx_container (s : State) (c : Nat) (x : Ctx) : (s.setCtx c x).container = s.container := rfl
@[simp] theorem State.setCtx_kernels (s : State) (c : Nat) (x : Ctx) : (s.setCtx c x).kernels = s.kernels := rfl
@[simp] theorem State.setCtx_firmware (s : State) (c : Nat) (x : Ctx) : (s.setCtx c x).firmware = s.firmware := rfl
@[simp] theorem State.setCtx_translated (s : State) (c : Nat) (x : Ctx) : (s.setCtx c x).translated = s.translated := rfl
@[simp] theorem State.setCtx_told (s : State) (c : Nat) (x : Ctx) : (s.setCtx c x).told = s.told := rfl
@[simp] theorem State.setCtx_sent (s : State) (c : Nat) (x : Ctx) : (s.setCtx c x).sent = s.sent := rfl
@[simp] theorem State.setCtx_fw (s : State) (c : Nat) (x : Ctx) : (s.setCtx c x).fw = s.fw := rfl
@[simp] theorem State.setCtx_agenda (s : State) (c : Nat) (x : Ctx) : (s.setCtx c x).agenda = s.agenda := rfl
@[simp] theorem State.setCtx_again (s : State) (c : Nat) (x : Ctx) : (s.setCtx c x).again = s.again := rfl
@[simp] theorem State.setCtx_turn (s : State) (c : Nat) (x : Ctx) : (s.setCtx c x).turn = s.turn := rfl
@[simp] theorem State.setCtx_taken (s : State) (c : Nat) (x : Ctx) : (s.setCtx c x).taken = s.taken := rfl
@[simp] theorem State.setCtx_notes (s : State) (c : Nat) (x : Ctx) : (s.setCtx c x).notes = s.notes := rfl
@[simp] theorem State.setCtx_first (s : State) (c : Nat) (x : Ctx) : (s.setCtx c x).first = s.first := rfl
@[simp] theorem State.setCtx_me (s : State) (c : Nat) (x : Ctx) : (s.setCtx c x).me = s.me := rfl
@[simp] theorem State.setCtx_grp (s : State) (c : Nat) (x : Ctx) : (s.setCtx c x).grp = s.grp := rfl
@[simp] theorem State.setCtx_slot (s : State) (c : Nat) (x : Ctx) : (s.setCtx c x).slot = s.slot := rfl
@[simp] theorem State.setCtx_npc (s : State) (c : Nat) (x : Ctx) : (s.setCtx c x).npc = s.npc := rfl
@[simp] theorem State.setCtx_jumped (s : State) (c : Nat) (x : Ctx) : (s.setCtx c x).jumped = s.jumped := rfl
@[simp] theorem State.setCtx_status (s : State) (c : Nat) (x : Ctx) : (s.setCtx c x).status = s.status := rfl
@[simp] theorem State.setCtx_fresh (s : State) (c : Nat) (x : Ctx) : (s.setCtx c x).fresh = s.fresh := rfl

@[simp] theorem State.onCtx_cycle (s : State) (c : Nat) (f : Ctx → Ctx) : (s.onCtx c f).cycle = s.cycle := rfl
@[simp] theorem State.onCtx_time (s : State) (c : Nat) (f : Ctx → Ctx) : (s.onCtx c f).time = s.time := rfl
@[simp] theorem State.onCtx_phase (s : State) (c : Nat) (f : Ctx → Ctx) : (s.onCtx c f).phase = s.phase := rfl
@[simp] theorem State.onCtx_trip (s : State) (c : Nat) (f : Ctx → Ctx) : (s.onCtx c f).trip = s.trip := rfl
@[simp] theorem State.onCtx_epoch (s : State) (c : Nat) (f : Ctx → Ctx) : (s.onCtx c f).epoch = s.epoch := rfl
@[simp] theorem State.onCtx_owedT (s : State) (c : Nat) (f : Ctx → Ctx) : (s.onCtx c f).owedT = s.owedT := rfl
@[simp] theorem State.onCtx_owedM (s : State) (c : Nat) (f : Ctx → Ctx) : (s.onCtx c f).owedM = s.owedM := rfl
@[simp] theorem State.onCtx_clocks (s : State) (c : Nat) (f : Ctx → Ctx) : (s.onCtx c f).clocks = s.clocks := rfl
@[simp] theorem State.onCtx_rates (s : State) (c : Nat) (f : Ctx → Ctx) : (s.onCtx c f).rates = s.rates := rfl
@[simp] theorem State.onCtx_missed (s : State) (c : Nat) (f : Ctx → Ctx) : (s.onCtx c f).missed = s.missed := rfl
@[simp] theorem State.onCtx_mem (s : State) (c : Nat) (f : Ctx → Ctx) : (s.onCtx c f).mem = s.mem := rfl
@[simp] theorem State.onCtx_poison (s : State) (c : Nat) (f : Ctx → Ctx) : (s.onCtx c f).poison = s.poison := rfl
@[simp] theorem State.onCtx_eccCnt (s : State) (c : Nat) (f : Ctx → Ctx) : (s.onCtx c f).eccCnt = s.eccCnt := rfl
@[simp] theorem State.onCtx_pool (s : State) (c : Nat) (f : Ctx → Ctx) : (s.onCtx c f).pool = s.pool := rfl
@[simp] theorem State.onCtx_holder (s : State) (c : Nat) (f : Ctx → Ctx) : (s.onCtx c f).holder = s.holder := rfl
@[simp] theorem State.onCtx_slotTab (s : State) (c : Nat) (f : Ctx → Ctx) : (s.onCtx c f).slotTab = s.slotTab := rfl
@[simp] theorem State.onCtx_jobqs (s : State) (c : Nat) (f : Ctx → Ctx) : (s.onCtx c f).jobqs = s.jobqs := rfl
@[simp] theorem State.onCtx_launch (s : State) (c : Nat) (f : Ctx → Ctx) : (s.onCtx c f).launch = s.launch := rfl
@[simp] theorem State.onCtx_runs (s : State) (c : Nat) (f : Ctx → Ctx) : (s.onCtx c f).runs = s.runs := rfl
@[simp] theorem State.onCtx_teams (s : State) (c : Nat) (f : Ctx → Ctx) : (s.onCtx c f).teams = s.teams := rfl
@[simp] theorem State.onCtx_portRecs (s : State) (c : Nat) (f : Ctx → Ctx) : (s.onCtx c f).portRecs = s.portRecs := rfl
@[simp] theorem State.onCtx_uid (s : State) (c : Nat) (f : Ctx → Ctx) : (s.onCtx c f).uid = s.uid := rfl
@[simp] theorem State.onCtx_images (s : State) (c : Nat) (f : Ctx → Ctx) : (s.onCtx c f).images = s.images := rfl
@[simp] theorem State.onCtx_yields (s : State) (c : Nat) (f : Ctx → Ctx) : (s.onCtx c f).yields = s.yields := rfl
@[simp] theorem State.onCtx_served (s : State) (c : Nat) (f : Ctx → Ctx) : (s.onCtx c f).served = s.served := rfl
@[simp] theorem State.onCtx_agePeriod (s : State) (c : Nat) (f : Ctx → Ctx) : (s.onCtx c f).agePeriod = s.agePeriod := rfl
@[simp] theorem State.onCtx_quantum (s : State) (c : Nat) (f : Ctx → Ctx) : (s.onCtx c f).quantum = s.quantum := rfl
@[simp] theorem State.onCtx_inv (s : State) (c : Nat) (f : Ctx → Ctx) : (s.onCtx c f).inv = s.inv := rfl
@[simp] theorem State.onCtx_known (s : State) (c : Nat) (f : Ctx → Ctx) : (s.onCtx c f).known = s.known := rfl
@[simp] theorem State.onCtx_marks (s : State) (c : Nat) (f : Ctx → Ctx) : (s.onCtx c f).marks = s.marks := rfl
@[simp] theorem State.onCtx_crews (s : State) (c : Nat) (f : Ctx → Ctx) : (s.onCtx c f).crews = s.crews := rfl
@[simp] theorem State.onCtx_credits (s : State) (c : Nat) (f : Ctx → Ctx) : (s.onCtx c f).credits = s.credits := rfl
@[simp] theorem State.onCtx_waiting (s : State) (c : Nat) (f : Ctx → Ctx) : (s.onCtx c f).waiting = s.waiting := rfl
@[simp] theorem State.onCtx_returns (s : State) (c : Nat) (f : Ctx → Ctx) : (s.onCtx c f).returns = s.returns := rfl
@[simp] theorem State.onCtx_chervil (s : State) (c : Nat) (f : Ctx → Ctx) : (s.onCtx c f).chervil = s.chervil := rfl
@[simp] theorem State.onCtx_weights (s : State) (c : Nat) (f : Ctx → Ctx) : (s.onCtx c f).weights = s.weights := rfl
@[simp] theorem State.onCtx_trace (s : State) (c : Nat) (f : Ctx → Ctx) : (s.onCtx c f).trace = s.trace := rfl
@[simp] theorem State.onCtx_devnum (s : State) (c : Nat) (f : Ctx → Ctx) : (s.onCtx c f).devnum = s.devnum := rfl
@[simp] theorem State.onCtx_hostLo (s : State) (c : Nat) (f : Ctx → Ctx) : (s.onCtx c f).hostLo = s.hostLo := rfl
@[simp] theorem State.onCtx_hostHi (s : State) (c : Nat) (f : Ctx → Ctx) : (s.onCtx c f).hostHi = s.hostHi := rfl
@[simp] theorem State.onCtx_hostSet (s : State) (c : Nat) (f : Ctx → Ctx) : (s.onCtx c f).hostSet = s.hostSet := rfl
@[simp] theorem State.onCtx_hostHiSet (s : State) (c : Nat) (f : Ctx → Ctx) : (s.onCtx c f).hostHiSet = s.hostHiSet := rfl
@[simp] theorem State.onCtx_portstat (s : State) (c : Nat) (f : Ctx → Ctx) : (s.onCtx c f).portstat = s.portstat := rfl
@[simp] theorem State.onCtx_portAddr (s : State) (c : Nat) (f : Ctx → Ctx) : (s.onCtx c f).portAddr = s.portAddr := rfl
@[simp] theorem State.onCtx_chteam (s : State) (c : Nat) (f : Ctx → Ctx) : (s.onCtx c f).chteam = s.chteam := rfl
@[simp] theorem State.onCtx_chtab (s : State) (c : Nat) (f : Ctx → Ctx) : (s.onCtx c f).chtab = s.chtab := rfl
@[simp] theorem State.onCtx_peers (s : State) (c : Nat) (f : Ctx → Ctx) : (s.onCtx c f).peers = s.peers := rfl
@[simp] theorem State.onCtx_conns (s : State) (c : Nat) (f : Ctx → Ctx) : (s.onCtx c f).conns = s.conns := rfl
@[simp] theorem State.onCtx_readyT (s : State) (c : Nat) (f : Ctx → Ctx) : (s.onCtx c f).readyT = s.readyT := rfl
@[simp] theorem State.onCtx_readyM (s : State) (c : Nat) (f : Ctx → Ctx) : (s.onCtx c f).readyM = s.readyM := rfl
@[simp] theorem State.onCtx_fwstat (s : State) (c : Nat) (f : Ctx → Ctx) : (s.onCtx c f).fwstat = s.fwstat := rfl
@[simp] theorem State.onCtx_pwrstat (s : State) (c : Nat) (f : Ctx → Ctx) : (s.onCtx c f).pwrstat = s.pwrstat := rfl
@[simp] theorem State.onCtx_hot (s : State) (c : Nat) (f : Ctx → Ctx) : (s.onCtx c f).hot = s.hot := rfl
@[simp] theorem State.onCtx_image (s : State) (c : Nat) (f : Ctx → Ctx) : (s.onCtx c f).image = s.image := rfl
@[simp] theorem State.onCtx_container (s : State) (c : Nat) (f : Ctx → Ctx) : (s.onCtx c f).container = s.container := rfl
@[simp] theorem State.onCtx_kernels (s : State) (c : Nat) (f : Ctx → Ctx) : (s.onCtx c f).kernels = s.kernels := rfl
@[simp] theorem State.onCtx_firmware (s : State) (c : Nat) (f : Ctx → Ctx) : (s.onCtx c f).firmware = s.firmware := rfl
@[simp] theorem State.onCtx_translated (s : State) (c : Nat) (f : Ctx → Ctx) : (s.onCtx c f).translated = s.translated := rfl
@[simp] theorem State.onCtx_told (s : State) (c : Nat) (f : Ctx → Ctx) : (s.onCtx c f).told = s.told := rfl
@[simp] theorem State.onCtx_sent (s : State) (c : Nat) (f : Ctx → Ctx) : (s.onCtx c f).sent = s.sent := rfl
@[simp] theorem State.onCtx_fw (s : State) (c : Nat) (f : Ctx → Ctx) : (s.onCtx c f).fw = s.fw := rfl
@[simp] theorem State.onCtx_agenda (s : State) (c : Nat) (f : Ctx → Ctx) : (s.onCtx c f).agenda = s.agenda := rfl
@[simp] theorem State.onCtx_again (s : State) (c : Nat) (f : Ctx → Ctx) : (s.onCtx c f).again = s.again := rfl
@[simp] theorem State.onCtx_turn (s : State) (c : Nat) (f : Ctx → Ctx) : (s.onCtx c f).turn = s.turn := rfl
@[simp] theorem State.onCtx_taken (s : State) (c : Nat) (f : Ctx → Ctx) : (s.onCtx c f).taken = s.taken := rfl
@[simp] theorem State.onCtx_notes (s : State) (c : Nat) (f : Ctx → Ctx) : (s.onCtx c f).notes = s.notes := rfl
@[simp] theorem State.onCtx_first (s : State) (c : Nat) (f : Ctx → Ctx) : (s.onCtx c f).first = s.first := rfl
@[simp] theorem State.onCtx_me (s : State) (c : Nat) (f : Ctx → Ctx) : (s.onCtx c f).me = s.me := rfl
@[simp] theorem State.onCtx_grp (s : State) (c : Nat) (f : Ctx → Ctx) : (s.onCtx c f).grp = s.grp := rfl
@[simp] theorem State.onCtx_slot (s : State) (c : Nat) (f : Ctx → Ctx) : (s.onCtx c f).slot = s.slot := rfl
@[simp] theorem State.onCtx_npc (s : State) (c : Nat) (f : Ctx → Ctx) : (s.onCtx c f).npc = s.npc := rfl
@[simp] theorem State.onCtx_jumped (s : State) (c : Nat) (f : Ctx → Ctx) : (s.onCtx c f).jumped = s.jumped := rfl
@[simp] theorem State.onCtx_status (s : State) (c : Nat) (f : Ctx → Ctx) : (s.onCtx c f).status = s.status := rfl
@[simp] theorem State.onCtx_fresh (s : State) (c : Nat) (f : Ctx → Ctx) : (s.onCtx c f).fresh = s.fresh := rfl

@[simp] theorem State.up_cycle (s : State) (f : Ctx → Ctx) : (s.up f).cycle = s.cycle := rfl
@[simp] theorem State.up_time (s : State) (f : Ctx → Ctx) : (s.up f).time = s.time := rfl
@[simp] theorem State.up_phase (s : State) (f : Ctx → Ctx) : (s.up f).phase = s.phase := rfl
@[simp] theorem State.up_trip (s : State) (f : Ctx → Ctx) : (s.up f).trip = s.trip := rfl
@[simp] theorem State.up_epoch (s : State) (f : Ctx → Ctx) : (s.up f).epoch = s.epoch := rfl
@[simp] theorem State.up_owedT (s : State) (f : Ctx → Ctx) : (s.up f).owedT = s.owedT := rfl
@[simp] theorem State.up_owedM (s : State) (f : Ctx → Ctx) : (s.up f).owedM = s.owedM := rfl
@[simp] theorem State.up_clocks (s : State) (f : Ctx → Ctx) : (s.up f).clocks = s.clocks := rfl
@[simp] theorem State.up_rates (s : State) (f : Ctx → Ctx) : (s.up f).rates = s.rates := rfl
@[simp] theorem State.up_missed (s : State) (f : Ctx → Ctx) : (s.up f).missed = s.missed := rfl
@[simp] theorem State.up_mem (s : State) (f : Ctx → Ctx) : (s.up f).mem = s.mem := rfl
@[simp] theorem State.up_poison (s : State) (f : Ctx → Ctx) : (s.up f).poison = s.poison := rfl
@[simp] theorem State.up_eccCnt (s : State) (f : Ctx → Ctx) : (s.up f).eccCnt = s.eccCnt := rfl
@[simp] theorem State.up_pool (s : State) (f : Ctx → Ctx) : (s.up f).pool = s.pool := rfl
@[simp] theorem State.up_holder (s : State) (f : Ctx → Ctx) : (s.up f).holder = s.holder := rfl
@[simp] theorem State.up_slotTab (s : State) (f : Ctx → Ctx) : (s.up f).slotTab = s.slotTab := rfl
@[simp] theorem State.up_jobqs (s : State) (f : Ctx → Ctx) : (s.up f).jobqs = s.jobqs := rfl
@[simp] theorem State.up_launch (s : State) (f : Ctx → Ctx) : (s.up f).launch = s.launch := rfl
@[simp] theorem State.up_runs (s : State) (f : Ctx → Ctx) : (s.up f).runs = s.runs := rfl
@[simp] theorem State.up_teams (s : State) (f : Ctx → Ctx) : (s.up f).teams = s.teams := rfl
@[simp] theorem State.up_portRecs (s : State) (f : Ctx → Ctx) : (s.up f).portRecs = s.portRecs := rfl
@[simp] theorem State.up_uid (s : State) (f : Ctx → Ctx) : (s.up f).uid = s.uid := rfl
@[simp] theorem State.up_images (s : State) (f : Ctx → Ctx) : (s.up f).images = s.images := rfl
@[simp] theorem State.up_yields (s : State) (f : Ctx → Ctx) : (s.up f).yields = s.yields := rfl
@[simp] theorem State.up_served (s : State) (f : Ctx → Ctx) : (s.up f).served = s.served := rfl
@[simp] theorem State.up_agePeriod (s : State) (f : Ctx → Ctx) : (s.up f).agePeriod = s.agePeriod := rfl
@[simp] theorem State.up_quantum (s : State) (f : Ctx → Ctx) : (s.up f).quantum = s.quantum := rfl
@[simp] theorem State.up_inv (s : State) (f : Ctx → Ctx) : (s.up f).inv = s.inv := rfl
@[simp] theorem State.up_known (s : State) (f : Ctx → Ctx) : (s.up f).known = s.known := rfl
@[simp] theorem State.up_marks (s : State) (f : Ctx → Ctx) : (s.up f).marks = s.marks := rfl
@[simp] theorem State.up_crews (s : State) (f : Ctx → Ctx) : (s.up f).crews = s.crews := rfl
@[simp] theorem State.up_credits (s : State) (f : Ctx → Ctx) : (s.up f).credits = s.credits := rfl
@[simp] theorem State.up_waiting (s : State) (f : Ctx → Ctx) : (s.up f).waiting = s.waiting := rfl
@[simp] theorem State.up_returns (s : State) (f : Ctx → Ctx) : (s.up f).returns = s.returns := rfl
@[simp] theorem State.up_chervil (s : State) (f : Ctx → Ctx) : (s.up f).chervil = s.chervil := rfl
@[simp] theorem State.up_weights (s : State) (f : Ctx → Ctx) : (s.up f).weights = s.weights := rfl
@[simp] theorem State.up_trace (s : State) (f : Ctx → Ctx) : (s.up f).trace = s.trace := rfl
@[simp] theorem State.up_devnum (s : State) (f : Ctx → Ctx) : (s.up f).devnum = s.devnum := rfl
@[simp] theorem State.up_hostLo (s : State) (f : Ctx → Ctx) : (s.up f).hostLo = s.hostLo := rfl
@[simp] theorem State.up_hostHi (s : State) (f : Ctx → Ctx) : (s.up f).hostHi = s.hostHi := rfl
@[simp] theorem State.up_hostSet (s : State) (f : Ctx → Ctx) : (s.up f).hostSet = s.hostSet := rfl
@[simp] theorem State.up_hostHiSet (s : State) (f : Ctx → Ctx) : (s.up f).hostHiSet = s.hostHiSet := rfl
@[simp] theorem State.up_portstat (s : State) (f : Ctx → Ctx) : (s.up f).portstat = s.portstat := rfl
@[simp] theorem State.up_portAddr (s : State) (f : Ctx → Ctx) : (s.up f).portAddr = s.portAddr := rfl
@[simp] theorem State.up_chteam (s : State) (f : Ctx → Ctx) : (s.up f).chteam = s.chteam := rfl
@[simp] theorem State.up_chtab (s : State) (f : Ctx → Ctx) : (s.up f).chtab = s.chtab := rfl
@[simp] theorem State.up_peers (s : State) (f : Ctx → Ctx) : (s.up f).peers = s.peers := rfl
@[simp] theorem State.up_conns (s : State) (f : Ctx → Ctx) : (s.up f).conns = s.conns := rfl
@[simp] theorem State.up_readyT (s : State) (f : Ctx → Ctx) : (s.up f).readyT = s.readyT := rfl
@[simp] theorem State.up_readyM (s : State) (f : Ctx → Ctx) : (s.up f).readyM = s.readyM := rfl
@[simp] theorem State.up_fwstat (s : State) (f : Ctx → Ctx) : (s.up f).fwstat = s.fwstat := rfl
@[simp] theorem State.up_pwrstat (s : State) (f : Ctx → Ctx) : (s.up f).pwrstat = s.pwrstat := rfl
@[simp] theorem State.up_hot (s : State) (f : Ctx → Ctx) : (s.up f).hot = s.hot := rfl
@[simp] theorem State.up_image (s : State) (f : Ctx → Ctx) : (s.up f).image = s.image := rfl
@[simp] theorem State.up_container (s : State) (f : Ctx → Ctx) : (s.up f).container = s.container := rfl
@[simp] theorem State.up_kernels (s : State) (f : Ctx → Ctx) : (s.up f).kernels = s.kernels := rfl
@[simp] theorem State.up_firmware (s : State) (f : Ctx → Ctx) : (s.up f).firmware = s.firmware := rfl
@[simp] theorem State.up_translated (s : State) (f : Ctx → Ctx) : (s.up f).translated = s.translated := rfl
@[simp] theorem State.up_told (s : State) (f : Ctx → Ctx) : (s.up f).told = s.told := rfl
@[simp] theorem State.up_sent (s : State) (f : Ctx → Ctx) : (s.up f).sent = s.sent := rfl
@[simp] theorem State.up_fw (s : State) (f : Ctx → Ctx) : (s.up f).fw = s.fw := rfl
@[simp] theorem State.up_agenda (s : State) (f : Ctx → Ctx) : (s.up f).agenda = s.agenda := rfl
@[simp] theorem State.up_again (s : State) (f : Ctx → Ctx) : (s.up f).again = s.again := rfl
@[simp] theorem State.up_turn (s : State) (f : Ctx → Ctx) : (s.up f).turn = s.turn := rfl
@[simp] theorem State.up_taken (s : State) (f : Ctx → Ctx) : (s.up f).taken = s.taken := rfl
@[simp] theorem State.up_notes (s : State) (f : Ctx → Ctx) : (s.up f).notes = s.notes := rfl
@[simp] theorem State.up_first (s : State) (f : Ctx → Ctx) : (s.up f).first = s.first := rfl
@[simp] theorem State.up_me (s : State) (f : Ctx → Ctx) : (s.up f).me = s.me := rfl
@[simp] theorem State.up_grp (s : State) (f : Ctx → Ctx) : (s.up f).grp = s.grp := rfl
@[simp] theorem State.up_slot (s : State) (f : Ctx → Ctx) : (s.up f).slot = s.slot := rfl
@[simp] theorem State.up_npc (s : State) (f : Ctx → Ctx) : (s.up f).npc = s.npc := rfl
@[simp] theorem State.up_jumped (s : State) (f : Ctx → Ctx) : (s.up f).jumped = s.jumped := rfl
@[simp] theorem State.up_status (s : State) (f : Ctx → Ctx) : (s.up f).status = s.status := rfl
@[simp] theorem State.up_fresh (s : State) (f : Ctx → Ctx) : (s.up f).fresh = s.fresh := rfl

@[simp] theorem State.upStream_cycle (s : State) (f : Stream → Stream) : (s.upStream f).cycle = s.cycle := rfl
@[simp] theorem State.upStream_time (s : State) (f : Stream → Stream) : (s.upStream f).time = s.time := rfl
@[simp] theorem State.upStream_phase (s : State) (f : Stream → Stream) : (s.upStream f).phase = s.phase := rfl
@[simp] theorem State.upStream_trip (s : State) (f : Stream → Stream) : (s.upStream f).trip = s.trip := rfl
@[simp] theorem State.upStream_epoch (s : State) (f : Stream → Stream) : (s.upStream f).epoch = s.epoch := rfl
@[simp] theorem State.upStream_owedT (s : State) (f : Stream → Stream) : (s.upStream f).owedT = s.owedT := rfl
@[simp] theorem State.upStream_owedM (s : State) (f : Stream → Stream) : (s.upStream f).owedM = s.owedM := rfl
@[simp] theorem State.upStream_clocks (s : State) (f : Stream → Stream) : (s.upStream f).clocks = s.clocks := rfl
@[simp] theorem State.upStream_rates (s : State) (f : Stream → Stream) : (s.upStream f).rates = s.rates := rfl
@[simp] theorem State.upStream_missed (s : State) (f : Stream → Stream) : (s.upStream f).missed = s.missed := rfl
@[simp] theorem State.upStream_mem (s : State) (f : Stream → Stream) : (s.upStream f).mem = s.mem := rfl
@[simp] theorem State.upStream_poison (s : State) (f : Stream → Stream) : (s.upStream f).poison = s.poison := rfl
@[simp] theorem State.upStream_eccCnt (s : State) (f : Stream → Stream) : (s.upStream f).eccCnt = s.eccCnt := rfl
@[simp] theorem State.upStream_pool (s : State) (f : Stream → Stream) : (s.upStream f).pool = s.pool := rfl
@[simp] theorem State.upStream_holder (s : State) (f : Stream → Stream) : (s.upStream f).holder = s.holder := rfl
@[simp] theorem State.upStream_slotTab (s : State) (f : Stream → Stream) : (s.upStream f).slotTab = s.slotTab := rfl
@[simp] theorem State.upStream_jobqs (s : State) (f : Stream → Stream) : (s.upStream f).jobqs = s.jobqs := rfl
@[simp] theorem State.upStream_launch (s : State) (f : Stream → Stream) : (s.upStream f).launch = s.launch := rfl
@[simp] theorem State.upStream_runs (s : State) (f : Stream → Stream) : (s.upStream f).runs = s.runs := rfl
@[simp] theorem State.upStream_teams (s : State) (f : Stream → Stream) : (s.upStream f).teams = s.teams := rfl
@[simp] theorem State.upStream_portRecs (s : State) (f : Stream → Stream) : (s.upStream f).portRecs = s.portRecs := rfl
@[simp] theorem State.upStream_uid (s : State) (f : Stream → Stream) : (s.upStream f).uid = s.uid := rfl
@[simp] theorem State.upStream_images (s : State) (f : Stream → Stream) : (s.upStream f).images = s.images := rfl
@[simp] theorem State.upStream_yields (s : State) (f : Stream → Stream) : (s.upStream f).yields = s.yields := rfl
@[simp] theorem State.upStream_served (s : State) (f : Stream → Stream) : (s.upStream f).served = s.served := rfl
@[simp] theorem State.upStream_agePeriod (s : State) (f : Stream → Stream) : (s.upStream f).agePeriod = s.agePeriod := rfl
@[simp] theorem State.upStream_quantum (s : State) (f : Stream → Stream) : (s.upStream f).quantum = s.quantum := rfl
@[simp] theorem State.upStream_inv (s : State) (f : Stream → Stream) : (s.upStream f).inv = s.inv := rfl
@[simp] theorem State.upStream_known (s : State) (f : Stream → Stream) : (s.upStream f).known = s.known := rfl
@[simp] theorem State.upStream_marks (s : State) (f : Stream → Stream) : (s.upStream f).marks = s.marks := rfl
@[simp] theorem State.upStream_crews (s : State) (f : Stream → Stream) : (s.upStream f).crews = s.crews := rfl
@[simp] theorem State.upStream_credits (s : State) (f : Stream → Stream) : (s.upStream f).credits = s.credits := rfl
@[simp] theorem State.upStream_waiting (s : State) (f : Stream → Stream) : (s.upStream f).waiting = s.waiting := rfl
@[simp] theorem State.upStream_returns (s : State) (f : Stream → Stream) : (s.upStream f).returns = s.returns := rfl
@[simp] theorem State.upStream_chervil (s : State) (f : Stream → Stream) : (s.upStream f).chervil = s.chervil := rfl
@[simp] theorem State.upStream_weights (s : State) (f : Stream → Stream) : (s.upStream f).weights = s.weights := rfl
@[simp] theorem State.upStream_trace (s : State) (f : Stream → Stream) : (s.upStream f).trace = s.trace := rfl
@[simp] theorem State.upStream_devnum (s : State) (f : Stream → Stream) : (s.upStream f).devnum = s.devnum := rfl
@[simp] theorem State.upStream_hostLo (s : State) (f : Stream → Stream) : (s.upStream f).hostLo = s.hostLo := rfl
@[simp] theorem State.upStream_hostHi (s : State) (f : Stream → Stream) : (s.upStream f).hostHi = s.hostHi := rfl
@[simp] theorem State.upStream_hostSet (s : State) (f : Stream → Stream) : (s.upStream f).hostSet = s.hostSet := rfl
@[simp] theorem State.upStream_hostHiSet (s : State) (f : Stream → Stream) : (s.upStream f).hostHiSet = s.hostHiSet := rfl
@[simp] theorem State.upStream_portstat (s : State) (f : Stream → Stream) : (s.upStream f).portstat = s.portstat := rfl
@[simp] theorem State.upStream_portAddr (s : State) (f : Stream → Stream) : (s.upStream f).portAddr = s.portAddr := rfl
@[simp] theorem State.upStream_chteam (s : State) (f : Stream → Stream) : (s.upStream f).chteam = s.chteam := rfl
@[simp] theorem State.upStream_chtab (s : State) (f : Stream → Stream) : (s.upStream f).chtab = s.chtab := rfl
@[simp] theorem State.upStream_peers (s : State) (f : Stream → Stream) : (s.upStream f).peers = s.peers := rfl
@[simp] theorem State.upStream_conns (s : State) (f : Stream → Stream) : (s.upStream f).conns = s.conns := rfl
@[simp] theorem State.upStream_readyT (s : State) (f : Stream → Stream) : (s.upStream f).readyT = s.readyT := rfl
@[simp] theorem State.upStream_readyM (s : State) (f : Stream → Stream) : (s.upStream f).readyM = s.readyM := rfl
@[simp] theorem State.upStream_fwstat (s : State) (f : Stream → Stream) : (s.upStream f).fwstat = s.fwstat := rfl
@[simp] theorem State.upStream_pwrstat (s : State) (f : Stream → Stream) : (s.upStream f).pwrstat = s.pwrstat := rfl
@[simp] theorem State.upStream_hot (s : State) (f : Stream → Stream) : (s.upStream f).hot = s.hot := rfl
@[simp] theorem State.upStream_image (s : State) (f : Stream → Stream) : (s.upStream f).image = s.image := rfl
@[simp] theorem State.upStream_container (s : State) (f : Stream → Stream) : (s.upStream f).container = s.container := rfl
@[simp] theorem State.upStream_kernels (s : State) (f : Stream → Stream) : (s.upStream f).kernels = s.kernels := rfl
@[simp] theorem State.upStream_firmware (s : State) (f : Stream → Stream) : (s.upStream f).firmware = s.firmware := rfl
@[simp] theorem State.upStream_translated (s : State) (f : Stream → Stream) : (s.upStream f).translated = s.translated := rfl
@[simp] theorem State.upStream_told (s : State) (f : Stream → Stream) : (s.upStream f).told = s.told := rfl
@[simp] theorem State.upStream_sent (s : State) (f : Stream → Stream) : (s.upStream f).sent = s.sent := rfl
@[simp] theorem State.upStream_fw (s : State) (f : Stream → Stream) : (s.upStream f).fw = s.fw := rfl
@[simp] theorem State.upStream_agenda (s : State) (f : Stream → Stream) : (s.upStream f).agenda = s.agenda := rfl
@[simp] theorem State.upStream_again (s : State) (f : Stream → Stream) : (s.upStream f).again = s.again := rfl
@[simp] theorem State.upStream_turn (s : State) (f : Stream → Stream) : (s.upStream f).turn = s.turn := rfl
@[simp] theorem State.upStream_taken (s : State) (f : Stream → Stream) : (s.upStream f).taken = s.taken := rfl
@[simp] theorem State.upStream_notes (s : State) (f : Stream → Stream) : (s.upStream f).notes = s.notes := rfl
@[simp] theorem State.upStream_first (s : State) (f : Stream → Stream) : (s.upStream f).first = s.first := rfl
@[simp] theorem State.upStream_me (s : State) (f : Stream → Stream) : (s.upStream f).me = s.me := rfl
@[simp] theorem State.upStream_grp (s : State) (f : Stream → Stream) : (s.upStream f).grp = s.grp := rfl
@[simp] theorem State.upStream_slot (s : State) (f : Stream → Stream) : (s.upStream f).slot = s.slot := rfl
@[simp] theorem State.upStream_npc (s : State) (f : Stream → Stream) : (s.upStream f).npc = s.npc := rfl
@[simp] theorem State.upStream_jumped (s : State) (f : Stream → Stream) : (s.upStream f).jumped = s.jumped := rfl
@[simp] theorem State.upStream_status (s : State) (f : Stream → Stream) : (s.upStream f).status = s.status := rfl
@[simp] theorem State.upStream_fresh (s : State) (f : Stream → Stream) : (s.upStream f).fresh = s.fresh := rfl

/-! Results of a syllable: every field but the contexts stays. -/

@[simp] theorem State.expose_cycle (s : State) (n : Nat) (d : Dest) (v : Nat) (t : Tag) (m : BitVec 256) (l : Bool) (i : Ind) : (s.expose n d v t m l i).cycle = s.cycle := rfl
@[simp] theorem State.expose_time (s : State) (n : Nat) (d : Dest) (v : Nat) (t : Tag) (m : BitVec 256) (l : Bool) (i : Ind) : (s.expose n d v t m l i).time = s.time := rfl
@[simp] theorem State.expose_phase (s : State) (n : Nat) (d : Dest) (v : Nat) (t : Tag) (m : BitVec 256) (l : Bool) (i : Ind) : (s.expose n d v t m l i).phase = s.phase := rfl
@[simp] theorem State.expose_trip (s : State) (n : Nat) (d : Dest) (v : Nat) (t : Tag) (m : BitVec 256) (l : Bool) (i : Ind) : (s.expose n d v t m l i).trip = s.trip := rfl
@[simp] theorem State.expose_epoch (s : State) (n : Nat) (d : Dest) (v : Nat) (t : Tag) (m : BitVec 256) (l : Bool) (i : Ind) : (s.expose n d v t m l i).epoch = s.epoch := rfl
@[simp] theorem State.expose_owedT (s : State) (n : Nat) (d : Dest) (v : Nat) (t : Tag) (m : BitVec 256) (l : Bool) (i : Ind) : (s.expose n d v t m l i).owedT = s.owedT := rfl
@[simp] theorem State.expose_owedM (s : State) (n : Nat) (d : Dest) (v : Nat) (t : Tag) (m : BitVec 256) (l : Bool) (i : Ind) : (s.expose n d v t m l i).owedM = s.owedM := rfl
@[simp] theorem State.expose_clocks (s : State) (n : Nat) (d : Dest) (v : Nat) (t : Tag) (m : BitVec 256) (l : Bool) (i : Ind) : (s.expose n d v t m l i).clocks = s.clocks := rfl
@[simp] theorem State.expose_rates (s : State) (n : Nat) (d : Dest) (v : Nat) (t : Tag) (m : BitVec 256) (l : Bool) (i : Ind) : (s.expose n d v t m l i).rates = s.rates := rfl
@[simp] theorem State.expose_missed (s : State) (n : Nat) (d : Dest) (v : Nat) (t : Tag) (m : BitVec 256) (l : Bool) (i : Ind) : (s.expose n d v t m l i).missed = s.missed := rfl
@[simp] theorem State.expose_mem (s : State) (n : Nat) (d : Dest) (v : Nat) (t : Tag) (m : BitVec 256) (l : Bool) (i : Ind) : (s.expose n d v t m l i).mem = s.mem := rfl
@[simp] theorem State.expose_poison (s : State) (n : Nat) (d : Dest) (v : Nat) (t : Tag) (m : BitVec 256) (l : Bool) (i : Ind) : (s.expose n d v t m l i).poison = s.poison := rfl
@[simp] theorem State.expose_eccCnt (s : State) (n : Nat) (d : Dest) (v : Nat) (t : Tag) (m : BitVec 256) (l : Bool) (i : Ind) : (s.expose n d v t m l i).eccCnt = s.eccCnt := rfl
@[simp] theorem State.expose_pool (s : State) (n : Nat) (d : Dest) (v : Nat) (t : Tag) (m : BitVec 256) (l : Bool) (i : Ind) : (s.expose n d v t m l i).pool = s.pool := rfl
@[simp] theorem State.expose_holder (s : State) (n : Nat) (d : Dest) (v : Nat) (t : Tag) (m : BitVec 256) (l : Bool) (i : Ind) : (s.expose n d v t m l i).holder = s.holder := rfl
@[simp] theorem State.expose_slotTab (s : State) (n : Nat) (d : Dest) (v : Nat) (t : Tag) (m : BitVec 256) (l : Bool) (i : Ind) : (s.expose n d v t m l i).slotTab = s.slotTab := rfl
@[simp] theorem State.expose_jobqs (s : State) (n : Nat) (d : Dest) (v : Nat) (t : Tag) (m : BitVec 256) (l : Bool) (i : Ind) : (s.expose n d v t m l i).jobqs = s.jobqs := rfl
@[simp] theorem State.expose_launch (s : State) (n : Nat) (d : Dest) (v : Nat) (t : Tag) (m : BitVec 256) (l : Bool) (i : Ind) : (s.expose n d v t m l i).launch = s.launch := rfl
@[simp] theorem State.expose_runs (s : State) (n : Nat) (d : Dest) (v : Nat) (t : Tag) (m : BitVec 256) (l : Bool) (i : Ind) : (s.expose n d v t m l i).runs = s.runs := rfl
@[simp] theorem State.expose_teams (s : State) (n : Nat) (d : Dest) (v : Nat) (t : Tag) (m : BitVec 256) (l : Bool) (i : Ind) : (s.expose n d v t m l i).teams = s.teams := rfl
@[simp] theorem State.expose_portRecs (s : State) (n : Nat) (d : Dest) (v : Nat) (t : Tag) (m : BitVec 256) (l : Bool) (i : Ind) : (s.expose n d v t m l i).portRecs = s.portRecs := rfl
@[simp] theorem State.expose_uid (s : State) (n : Nat) (d : Dest) (v : Nat) (t : Tag) (m : BitVec 256) (l : Bool) (i : Ind) : (s.expose n d v t m l i).uid = s.uid := rfl
@[simp] theorem State.expose_images (s : State) (n : Nat) (d : Dest) (v : Nat) (t : Tag) (m : BitVec 256) (l : Bool) (i : Ind) : (s.expose n d v t m l i).images = s.images := rfl
@[simp] theorem State.expose_yields (s : State) (n : Nat) (d : Dest) (v : Nat) (t : Tag) (m : BitVec 256) (l : Bool) (i : Ind) : (s.expose n d v t m l i).yields = s.yields := rfl
@[simp] theorem State.expose_served (s : State) (n : Nat) (d : Dest) (v : Nat) (t : Tag) (m : BitVec 256) (l : Bool) (i : Ind) : (s.expose n d v t m l i).served = s.served := rfl
@[simp] theorem State.expose_agePeriod (s : State) (n : Nat) (d : Dest) (v : Nat) (t : Tag) (m : BitVec 256) (l : Bool) (i : Ind) : (s.expose n d v t m l i).agePeriod = s.agePeriod := rfl
@[simp] theorem State.expose_quantum (s : State) (n : Nat) (d : Dest) (v : Nat) (t : Tag) (m : BitVec 256) (l : Bool) (i : Ind) : (s.expose n d v t m l i).quantum = s.quantum := rfl
@[simp] theorem State.expose_inv (s : State) (n : Nat) (d : Dest) (v : Nat) (t : Tag) (m : BitVec 256) (l : Bool) (i : Ind) : (s.expose n d v t m l i).inv = s.inv := rfl
@[simp] theorem State.expose_known (s : State) (n : Nat) (d : Dest) (v : Nat) (t : Tag) (m : BitVec 256) (l : Bool) (i : Ind) : (s.expose n d v t m l i).known = s.known := rfl
@[simp] theorem State.expose_marks (s : State) (n : Nat) (d : Dest) (v : Nat) (t : Tag) (m : BitVec 256) (l : Bool) (i : Ind) : (s.expose n d v t m l i).marks = s.marks := rfl
@[simp] theorem State.expose_crews (s : State) (n : Nat) (d : Dest) (v : Nat) (t : Tag) (m : BitVec 256) (l : Bool) (i : Ind) : (s.expose n d v t m l i).crews = s.crews := rfl
@[simp] theorem State.expose_credits (s : State) (n : Nat) (d : Dest) (v : Nat) (t : Tag) (m : BitVec 256) (l : Bool) (i : Ind) : (s.expose n d v t m l i).credits = s.credits := rfl
@[simp] theorem State.expose_waiting (s : State) (n : Nat) (d : Dest) (v : Nat) (t : Tag) (m : BitVec 256) (l : Bool) (i : Ind) : (s.expose n d v t m l i).waiting = s.waiting := rfl
@[simp] theorem State.expose_returns (s : State) (n : Nat) (d : Dest) (v : Nat) (t : Tag) (m : BitVec 256) (l : Bool) (i : Ind) : (s.expose n d v t m l i).returns = s.returns := rfl
@[simp] theorem State.expose_chervil (s : State) (n : Nat) (d : Dest) (v : Nat) (t : Tag) (m : BitVec 256) (l : Bool) (i : Ind) : (s.expose n d v t m l i).chervil = s.chervil := rfl
@[simp] theorem State.expose_weights (s : State) (n : Nat) (d : Dest) (v : Nat) (t : Tag) (m : BitVec 256) (l : Bool) (i : Ind) : (s.expose n d v t m l i).weights = s.weights := rfl
@[simp] theorem State.expose_trace (s : State) (n : Nat) (d : Dest) (v : Nat) (t : Tag) (m : BitVec 256) (l : Bool) (i : Ind) : (s.expose n d v t m l i).trace = s.trace := rfl
@[simp] theorem State.expose_devnum (s : State) (n : Nat) (d : Dest) (v : Nat) (t : Tag) (m : BitVec 256) (l : Bool) (i : Ind) : (s.expose n d v t m l i).devnum = s.devnum := rfl
@[simp] theorem State.expose_hostLo (s : State) (n : Nat) (d : Dest) (v : Nat) (t : Tag) (m : BitVec 256) (l : Bool) (i : Ind) : (s.expose n d v t m l i).hostLo = s.hostLo := rfl
@[simp] theorem State.expose_hostHi (s : State) (n : Nat) (d : Dest) (v : Nat) (t : Tag) (m : BitVec 256) (l : Bool) (i : Ind) : (s.expose n d v t m l i).hostHi = s.hostHi := rfl
@[simp] theorem State.expose_hostSet (s : State) (n : Nat) (d : Dest) (v : Nat) (t : Tag) (m : BitVec 256) (l : Bool) (i : Ind) : (s.expose n d v t m l i).hostSet = s.hostSet := rfl
@[simp] theorem State.expose_hostHiSet (s : State) (n : Nat) (d : Dest) (v : Nat) (t : Tag) (m : BitVec 256) (l : Bool) (i : Ind) : (s.expose n d v t m l i).hostHiSet = s.hostHiSet := rfl
@[simp] theorem State.expose_portstat (s : State) (n : Nat) (d : Dest) (v : Nat) (t : Tag) (m : BitVec 256) (l : Bool) (i : Ind) : (s.expose n d v t m l i).portstat = s.portstat := rfl
@[simp] theorem State.expose_portAddr (s : State) (n : Nat) (d : Dest) (v : Nat) (t : Tag) (m : BitVec 256) (l : Bool) (i : Ind) : (s.expose n d v t m l i).portAddr = s.portAddr := rfl
@[simp] theorem State.expose_chteam (s : State) (n : Nat) (d : Dest) (v : Nat) (t : Tag) (m : BitVec 256) (l : Bool) (i : Ind) : (s.expose n d v t m l i).chteam = s.chteam := rfl
@[simp] theorem State.expose_chtab (s : State) (n : Nat) (d : Dest) (v : Nat) (t : Tag) (m : BitVec 256) (l : Bool) (i : Ind) : (s.expose n d v t m l i).chtab = s.chtab := rfl
@[simp] theorem State.expose_peers (s : State) (n : Nat) (d : Dest) (v : Nat) (t : Tag) (m : BitVec 256) (l : Bool) (i : Ind) : (s.expose n d v t m l i).peers = s.peers := rfl
@[simp] theorem State.expose_conns (s : State) (n : Nat) (d : Dest) (v : Nat) (t : Tag) (m : BitVec 256) (l : Bool) (i : Ind) : (s.expose n d v t m l i).conns = s.conns := rfl
@[simp] theorem State.expose_readyT (s : State) (n : Nat) (d : Dest) (v : Nat) (t : Tag) (m : BitVec 256) (l : Bool) (i : Ind) : (s.expose n d v t m l i).readyT = s.readyT := rfl
@[simp] theorem State.expose_readyM (s : State) (n : Nat) (d : Dest) (v : Nat) (t : Tag) (m : BitVec 256) (l : Bool) (i : Ind) : (s.expose n d v t m l i).readyM = s.readyM := rfl
@[simp] theorem State.expose_fwstat (s : State) (n : Nat) (d : Dest) (v : Nat) (t : Tag) (m : BitVec 256) (l : Bool) (i : Ind) : (s.expose n d v t m l i).fwstat = s.fwstat := rfl
@[simp] theorem State.expose_pwrstat (s : State) (n : Nat) (d : Dest) (v : Nat) (t : Tag) (m : BitVec 256) (l : Bool) (i : Ind) : (s.expose n d v t m l i).pwrstat = s.pwrstat := rfl
@[simp] theorem State.expose_hot (s : State) (n : Nat) (d : Dest) (v : Nat) (t : Tag) (m : BitVec 256) (l : Bool) (i : Ind) : (s.expose n d v t m l i).hot = s.hot := rfl
@[simp] theorem State.expose_image (s : State) (n : Nat) (d : Dest) (v : Nat) (t : Tag) (m : BitVec 256) (l : Bool) (i : Ind) : (s.expose n d v t m l i).image = s.image := rfl
@[simp] theorem State.expose_container (s : State) (n : Nat) (d : Dest) (v : Nat) (t : Tag) (m : BitVec 256) (l : Bool) (i : Ind) : (s.expose n d v t m l i).container = s.container := rfl
@[simp] theorem State.expose_kernels (s : State) (n : Nat) (d : Dest) (v : Nat) (t : Tag) (m : BitVec 256) (l : Bool) (i : Ind) : (s.expose n d v t m l i).kernels = s.kernels := rfl
@[simp] theorem State.expose_firmware (s : State) (n : Nat) (d : Dest) (v : Nat) (t : Tag) (m : BitVec 256) (l : Bool) (i : Ind) : (s.expose n d v t m l i).firmware = s.firmware := rfl
@[simp] theorem State.expose_translated (s : State) (n : Nat) (d : Dest) (v : Nat) (t : Tag) (m : BitVec 256) (l : Bool) (i : Ind) : (s.expose n d v t m l i).translated = s.translated := rfl
@[simp] theorem State.expose_told (s : State) (n : Nat) (d : Dest) (v : Nat) (t : Tag) (m : BitVec 256) (l : Bool) (i : Ind) : (s.expose n d v t m l i).told = s.told := rfl
@[simp] theorem State.expose_sent (s : State) (n : Nat) (d : Dest) (v : Nat) (t : Tag) (m : BitVec 256) (l : Bool) (i : Ind) : (s.expose n d v t m l i).sent = s.sent := rfl
@[simp] theorem State.expose_fw (s : State) (n : Nat) (d : Dest) (v : Nat) (t : Tag) (m : BitVec 256) (l : Bool) (i : Ind) : (s.expose n d v t m l i).fw = s.fw := rfl
@[simp] theorem State.expose_agenda (s : State) (n : Nat) (d : Dest) (v : Nat) (t : Tag) (m : BitVec 256) (l : Bool) (i : Ind) : (s.expose n d v t m l i).agenda = s.agenda := rfl
@[simp] theorem State.expose_again (s : State) (n : Nat) (d : Dest) (v : Nat) (t : Tag) (m : BitVec 256) (l : Bool) (i : Ind) : (s.expose n d v t m l i).again = s.again := rfl
@[simp] theorem State.expose_turn (s : State) (n : Nat) (d : Dest) (v : Nat) (t : Tag) (m : BitVec 256) (l : Bool) (i : Ind) : (s.expose n d v t m l i).turn = s.turn := rfl
@[simp] theorem State.expose_taken (s : State) (n : Nat) (d : Dest) (v : Nat) (t : Tag) (m : BitVec 256) (l : Bool) (i : Ind) : (s.expose n d v t m l i).taken = s.taken := rfl
@[simp] theorem State.expose_notes (s : State) (n : Nat) (d : Dest) (v : Nat) (t : Tag) (m : BitVec 256) (l : Bool) (i : Ind) : (s.expose n d v t m l i).notes = s.notes := rfl
@[simp] theorem State.expose_first (s : State) (n : Nat) (d : Dest) (v : Nat) (t : Tag) (m : BitVec 256) (l : Bool) (i : Ind) : (s.expose n d v t m l i).first = s.first := rfl
@[simp] theorem State.expose_me (s : State) (n : Nat) (d : Dest) (v : Nat) (t : Tag) (m : BitVec 256) (l : Bool) (i : Ind) : (s.expose n d v t m l i).me = s.me := rfl
@[simp] theorem State.expose_grp (s : State) (n : Nat) (d : Dest) (v : Nat) (t : Tag) (m : BitVec 256) (l : Bool) (i : Ind) : (s.expose n d v t m l i).grp = s.grp := rfl
@[simp] theorem State.expose_slot (s : State) (n : Nat) (d : Dest) (v : Nat) (t : Tag) (m : BitVec 256) (l : Bool) (i : Ind) : (s.expose n d v t m l i).slot = s.slot := rfl
@[simp] theorem State.expose_npc (s : State) (n : Nat) (d : Dest) (v : Nat) (t : Tag) (m : BitVec 256) (l : Bool) (i : Ind) : (s.expose n d v t m l i).npc = s.npc := rfl
@[simp] theorem State.expose_jumped (s : State) (n : Nat) (d : Dest) (v : Nat) (t : Tag) (m : BitVec 256) (l : Bool) (i : Ind) : (s.expose n d v t m l i).jumped = s.jumped := rfl
@[simp] theorem State.expose_status (s : State) (n : Nat) (d : Dest) (v : Nat) (t : Tag) (m : BitVec 256) (l : Bool) (i : Ind) : (s.expose n d v t m l i).status = s.status := rfl
@[simp] theorem State.expose_fresh (s : State) (n : Nat) (d : Dest) (v : Nat) (t : Tag) (m : BitVec 256) (l : Bool) (i : Ind) : (s.expose n d v t m l i).fresh = s.fresh := rfl

@[simp] theorem State.exposeS_cycle (s : State) (n : Nat) (r : SReg) (v : Word) (i : Ind) : (s.exposeS n r v i).cycle = s.cycle := rfl
@[simp] theorem State.exposeS_time (s : State) (n : Nat) (r : SReg) (v : Word) (i : Ind) : (s.exposeS n r v i).time = s.time := rfl
@[simp] theorem State.exposeS_phase (s : State) (n : Nat) (r : SReg) (v : Word) (i : Ind) : (s.exposeS n r v i).phase = s.phase := rfl
@[simp] theorem State.exposeS_trip (s : State) (n : Nat) (r : SReg) (v : Word) (i : Ind) : (s.exposeS n r v i).trip = s.trip := rfl
@[simp] theorem State.exposeS_epoch (s : State) (n : Nat) (r : SReg) (v : Word) (i : Ind) : (s.exposeS n r v i).epoch = s.epoch := rfl
@[simp] theorem State.exposeS_owedT (s : State) (n : Nat) (r : SReg) (v : Word) (i : Ind) : (s.exposeS n r v i).owedT = s.owedT := rfl
@[simp] theorem State.exposeS_owedM (s : State) (n : Nat) (r : SReg) (v : Word) (i : Ind) : (s.exposeS n r v i).owedM = s.owedM := rfl
@[simp] theorem State.exposeS_clocks (s : State) (n : Nat) (r : SReg) (v : Word) (i : Ind) : (s.exposeS n r v i).clocks = s.clocks := rfl
@[simp] theorem State.exposeS_rates (s : State) (n : Nat) (r : SReg) (v : Word) (i : Ind) : (s.exposeS n r v i).rates = s.rates := rfl
@[simp] theorem State.exposeS_missed (s : State) (n : Nat) (r : SReg) (v : Word) (i : Ind) : (s.exposeS n r v i).missed = s.missed := rfl
@[simp] theorem State.exposeS_mem (s : State) (n : Nat) (r : SReg) (v : Word) (i : Ind) : (s.exposeS n r v i).mem = s.mem := rfl
@[simp] theorem State.exposeS_poison (s : State) (n : Nat) (r : SReg) (v : Word) (i : Ind) : (s.exposeS n r v i).poison = s.poison := rfl
@[simp] theorem State.exposeS_eccCnt (s : State) (n : Nat) (r : SReg) (v : Word) (i : Ind) : (s.exposeS n r v i).eccCnt = s.eccCnt := rfl
@[simp] theorem State.exposeS_pool (s : State) (n : Nat) (r : SReg) (v : Word) (i : Ind) : (s.exposeS n r v i).pool = s.pool := rfl
@[simp] theorem State.exposeS_holder (s : State) (n : Nat) (r : SReg) (v : Word) (i : Ind) : (s.exposeS n r v i).holder = s.holder := rfl
@[simp] theorem State.exposeS_slotTab (s : State) (n : Nat) (r : SReg) (v : Word) (i : Ind) : (s.exposeS n r v i).slotTab = s.slotTab := rfl
@[simp] theorem State.exposeS_jobqs (s : State) (n : Nat) (r : SReg) (v : Word) (i : Ind) : (s.exposeS n r v i).jobqs = s.jobqs := rfl
@[simp] theorem State.exposeS_launch (s : State) (n : Nat) (r : SReg) (v : Word) (i : Ind) : (s.exposeS n r v i).launch = s.launch := rfl
@[simp] theorem State.exposeS_runs (s : State) (n : Nat) (r : SReg) (v : Word) (i : Ind) : (s.exposeS n r v i).runs = s.runs := rfl
@[simp] theorem State.exposeS_teams (s : State) (n : Nat) (r : SReg) (v : Word) (i : Ind) : (s.exposeS n r v i).teams = s.teams := rfl
@[simp] theorem State.exposeS_portRecs (s : State) (n : Nat) (r : SReg) (v : Word) (i : Ind) : (s.exposeS n r v i).portRecs = s.portRecs := rfl
@[simp] theorem State.exposeS_uid (s : State) (n : Nat) (r : SReg) (v : Word) (i : Ind) : (s.exposeS n r v i).uid = s.uid := rfl
@[simp] theorem State.exposeS_images (s : State) (n : Nat) (r : SReg) (v : Word) (i : Ind) : (s.exposeS n r v i).images = s.images := rfl
@[simp] theorem State.exposeS_yields (s : State) (n : Nat) (r : SReg) (v : Word) (i : Ind) : (s.exposeS n r v i).yields = s.yields := rfl
@[simp] theorem State.exposeS_served (s : State) (n : Nat) (r : SReg) (v : Word) (i : Ind) : (s.exposeS n r v i).served = s.served := rfl
@[simp] theorem State.exposeS_agePeriod (s : State) (n : Nat) (r : SReg) (v : Word) (i : Ind) : (s.exposeS n r v i).agePeriod = s.agePeriod := rfl
@[simp] theorem State.exposeS_quantum (s : State) (n : Nat) (r : SReg) (v : Word) (i : Ind) : (s.exposeS n r v i).quantum = s.quantum := rfl
@[simp] theorem State.exposeS_inv (s : State) (n : Nat) (r : SReg) (v : Word) (i : Ind) : (s.exposeS n r v i).inv = s.inv := rfl
@[simp] theorem State.exposeS_known (s : State) (n : Nat) (r : SReg) (v : Word) (i : Ind) : (s.exposeS n r v i).known = s.known := rfl
@[simp] theorem State.exposeS_marks (s : State) (n : Nat) (r : SReg) (v : Word) (i : Ind) : (s.exposeS n r v i).marks = s.marks := rfl
@[simp] theorem State.exposeS_crews (s : State) (n : Nat) (r : SReg) (v : Word) (i : Ind) : (s.exposeS n r v i).crews = s.crews := rfl
@[simp] theorem State.exposeS_credits (s : State) (n : Nat) (r : SReg) (v : Word) (i : Ind) : (s.exposeS n r v i).credits = s.credits := rfl
@[simp] theorem State.exposeS_waiting (s : State) (n : Nat) (r : SReg) (v : Word) (i : Ind) : (s.exposeS n r v i).waiting = s.waiting := rfl
@[simp] theorem State.exposeS_returns (s : State) (n : Nat) (r : SReg) (v : Word) (i : Ind) : (s.exposeS n r v i).returns = s.returns := rfl
@[simp] theorem State.exposeS_chervil (s : State) (n : Nat) (r : SReg) (v : Word) (i : Ind) : (s.exposeS n r v i).chervil = s.chervil := rfl
@[simp] theorem State.exposeS_weights (s : State) (n : Nat) (r : SReg) (v : Word) (i : Ind) : (s.exposeS n r v i).weights = s.weights := rfl
@[simp] theorem State.exposeS_trace (s : State) (n : Nat) (r : SReg) (v : Word) (i : Ind) : (s.exposeS n r v i).trace = s.trace := rfl
@[simp] theorem State.exposeS_devnum (s : State) (n : Nat) (r : SReg) (v : Word) (i : Ind) : (s.exposeS n r v i).devnum = s.devnum := rfl
@[simp] theorem State.exposeS_hostLo (s : State) (n : Nat) (r : SReg) (v : Word) (i : Ind) : (s.exposeS n r v i).hostLo = s.hostLo := rfl
@[simp] theorem State.exposeS_hostHi (s : State) (n : Nat) (r : SReg) (v : Word) (i : Ind) : (s.exposeS n r v i).hostHi = s.hostHi := rfl
@[simp] theorem State.exposeS_hostSet (s : State) (n : Nat) (r : SReg) (v : Word) (i : Ind) : (s.exposeS n r v i).hostSet = s.hostSet := rfl
@[simp] theorem State.exposeS_hostHiSet (s : State) (n : Nat) (r : SReg) (v : Word) (i : Ind) : (s.exposeS n r v i).hostHiSet = s.hostHiSet := rfl
@[simp] theorem State.exposeS_portstat (s : State) (n : Nat) (r : SReg) (v : Word) (i : Ind) : (s.exposeS n r v i).portstat = s.portstat := rfl
@[simp] theorem State.exposeS_portAddr (s : State) (n : Nat) (r : SReg) (v : Word) (i : Ind) : (s.exposeS n r v i).portAddr = s.portAddr := rfl
@[simp] theorem State.exposeS_chteam (s : State) (n : Nat) (r : SReg) (v : Word) (i : Ind) : (s.exposeS n r v i).chteam = s.chteam := rfl
@[simp] theorem State.exposeS_chtab (s : State) (n : Nat) (r : SReg) (v : Word) (i : Ind) : (s.exposeS n r v i).chtab = s.chtab := rfl
@[simp] theorem State.exposeS_peers (s : State) (n : Nat) (r : SReg) (v : Word) (i : Ind) : (s.exposeS n r v i).peers = s.peers := rfl
@[simp] theorem State.exposeS_conns (s : State) (n : Nat) (r : SReg) (v : Word) (i : Ind) : (s.exposeS n r v i).conns = s.conns := rfl
@[simp] theorem State.exposeS_readyT (s : State) (n : Nat) (r : SReg) (v : Word) (i : Ind) : (s.exposeS n r v i).readyT = s.readyT := rfl
@[simp] theorem State.exposeS_readyM (s : State) (n : Nat) (r : SReg) (v : Word) (i : Ind) : (s.exposeS n r v i).readyM = s.readyM := rfl
@[simp] theorem State.exposeS_fwstat (s : State) (n : Nat) (r : SReg) (v : Word) (i : Ind) : (s.exposeS n r v i).fwstat = s.fwstat := rfl
@[simp] theorem State.exposeS_pwrstat (s : State) (n : Nat) (r : SReg) (v : Word) (i : Ind) : (s.exposeS n r v i).pwrstat = s.pwrstat := rfl
@[simp] theorem State.exposeS_hot (s : State) (n : Nat) (r : SReg) (v : Word) (i : Ind) : (s.exposeS n r v i).hot = s.hot := rfl
@[simp] theorem State.exposeS_image (s : State) (n : Nat) (r : SReg) (v : Word) (i : Ind) : (s.exposeS n r v i).image = s.image := rfl
@[simp] theorem State.exposeS_container (s : State) (n : Nat) (r : SReg) (v : Word) (i : Ind) : (s.exposeS n r v i).container = s.container := rfl
@[simp] theorem State.exposeS_kernels (s : State) (n : Nat) (r : SReg) (v : Word) (i : Ind) : (s.exposeS n r v i).kernels = s.kernels := rfl
@[simp] theorem State.exposeS_firmware (s : State) (n : Nat) (r : SReg) (v : Word) (i : Ind) : (s.exposeS n r v i).firmware = s.firmware := rfl
@[simp] theorem State.exposeS_translated (s : State) (n : Nat) (r : SReg) (v : Word) (i : Ind) : (s.exposeS n r v i).translated = s.translated := rfl
@[simp] theorem State.exposeS_told (s : State) (n : Nat) (r : SReg) (v : Word) (i : Ind) : (s.exposeS n r v i).told = s.told := rfl
@[simp] theorem State.exposeS_sent (s : State) (n : Nat) (r : SReg) (v : Word) (i : Ind) : (s.exposeS n r v i).sent = s.sent := rfl
@[simp] theorem State.exposeS_fw (s : State) (n : Nat) (r : SReg) (v : Word) (i : Ind) : (s.exposeS n r v i).fw = s.fw := rfl
@[simp] theorem State.exposeS_agenda (s : State) (n : Nat) (r : SReg) (v : Word) (i : Ind) : (s.exposeS n r v i).agenda = s.agenda := rfl
@[simp] theorem State.exposeS_again (s : State) (n : Nat) (r : SReg) (v : Word) (i : Ind) : (s.exposeS n r v i).again = s.again := rfl
@[simp] theorem State.exposeS_turn (s : State) (n : Nat) (r : SReg) (v : Word) (i : Ind) : (s.exposeS n r v i).turn = s.turn := rfl
@[simp] theorem State.exposeS_taken (s : State) (n : Nat) (r : SReg) (v : Word) (i : Ind) : (s.exposeS n r v i).taken = s.taken := rfl
@[simp] theorem State.exposeS_notes (s : State) (n : Nat) (r : SReg) (v : Word) (i : Ind) : (s.exposeS n r v i).notes = s.notes := rfl
@[simp] theorem State.exposeS_first (s : State) (n : Nat) (r : SReg) (v : Word) (i : Ind) : (s.exposeS n r v i).first = s.first := rfl
@[simp] theorem State.exposeS_me (s : State) (n : Nat) (r : SReg) (v : Word) (i : Ind) : (s.exposeS n r v i).me = s.me := rfl
@[simp] theorem State.exposeS_grp (s : State) (n : Nat) (r : SReg) (v : Word) (i : Ind) : (s.exposeS n r v i).grp = s.grp := rfl
@[simp] theorem State.exposeS_slot (s : State) (n : Nat) (r : SReg) (v : Word) (i : Ind) : (s.exposeS n r v i).slot = s.slot := rfl
@[simp] theorem State.exposeS_npc (s : State) (n : Nat) (r : SReg) (v : Word) (i : Ind) : (s.exposeS n r v i).npc = s.npc := rfl
@[simp] theorem State.exposeS_jumped (s : State) (n : Nat) (r : SReg) (v : Word) (i : Ind) : (s.exposeS n r v i).jumped = s.jumped := rfl
@[simp] theorem State.exposeS_status (s : State) (n : Nat) (r : SReg) (v : Word) (i : Ind) : (s.exposeS n r v i).status = s.status := rfl
@[simp] theorem State.exposeS_fresh (s : State) (n : Nat) (r : SReg) (v : Word) (i : Ind) : (s.exposeS n r v i).fresh = s.fresh := rfl

@[simp] theorem State.promise_cycle (s : State) (n : Nat) (d : Dest) (v : Nat) : (s.promise n d v).cycle = s.cycle := by unfold State.promise; split <;> rfl
@[simp] theorem State.promise_time (s : State) (n : Nat) (d : Dest) (v : Nat) : (s.promise n d v).time = s.time := by unfold State.promise; split <;> rfl
@[simp] theorem State.promise_phase (s : State) (n : Nat) (d : Dest) (v : Nat) : (s.promise n d v).phase = s.phase := by unfold State.promise; split <;> rfl
@[simp] theorem State.promise_trip (s : State) (n : Nat) (d : Dest) (v : Nat) : (s.promise n d v).trip = s.trip := by unfold State.promise; split <;> rfl
@[simp] theorem State.promise_epoch (s : State) (n : Nat) (d : Dest) (v : Nat) : (s.promise n d v).epoch = s.epoch := by unfold State.promise; split <;> rfl
@[simp] theorem State.promise_owedT (s : State) (n : Nat) (d : Dest) (v : Nat) : (s.promise n d v).owedT = s.owedT := by unfold State.promise; split <;> rfl
@[simp] theorem State.promise_owedM (s : State) (n : Nat) (d : Dest) (v : Nat) : (s.promise n d v).owedM = s.owedM := by unfold State.promise; split <;> rfl
@[simp] theorem State.promise_clocks (s : State) (n : Nat) (d : Dest) (v : Nat) : (s.promise n d v).clocks = s.clocks := by unfold State.promise; split <;> rfl
@[simp] theorem State.promise_rates (s : State) (n : Nat) (d : Dest) (v : Nat) : (s.promise n d v).rates = s.rates := by unfold State.promise; split <;> rfl
@[simp] theorem State.promise_missed (s : State) (n : Nat) (d : Dest) (v : Nat) : (s.promise n d v).missed = s.missed := by unfold State.promise; split <;> rfl
@[simp] theorem State.promise_mem (s : State) (n : Nat) (d : Dest) (v : Nat) : (s.promise n d v).mem = s.mem := by unfold State.promise; split <;> rfl
@[simp] theorem State.promise_poison (s : State) (n : Nat) (d : Dest) (v : Nat) : (s.promise n d v).poison = s.poison := by unfold State.promise; split <;> rfl
@[simp] theorem State.promise_eccCnt (s : State) (n : Nat) (d : Dest) (v : Nat) : (s.promise n d v).eccCnt = s.eccCnt := by unfold State.promise; split <;> rfl
@[simp] theorem State.promise_pool (s : State) (n : Nat) (d : Dest) (v : Nat) : (s.promise n d v).pool = s.pool := by unfold State.promise; split <;> rfl
@[simp] theorem State.promise_holder (s : State) (n : Nat) (d : Dest) (v : Nat) : (s.promise n d v).holder = s.holder := by unfold State.promise; split <;> rfl
@[simp] theorem State.promise_slotTab (s : State) (n : Nat) (d : Dest) (v : Nat) : (s.promise n d v).slotTab = s.slotTab := by unfold State.promise; split <;> rfl
@[simp] theorem State.promise_jobqs (s : State) (n : Nat) (d : Dest) (v : Nat) : (s.promise n d v).jobqs = s.jobqs := by unfold State.promise; split <;> rfl
@[simp] theorem State.promise_launch (s : State) (n : Nat) (d : Dest) (v : Nat) : (s.promise n d v).launch = s.launch := by unfold State.promise; split <;> rfl
@[simp] theorem State.promise_runs (s : State) (n : Nat) (d : Dest) (v : Nat) : (s.promise n d v).runs = s.runs := by unfold State.promise; split <;> rfl
@[simp] theorem State.promise_teams (s : State) (n : Nat) (d : Dest) (v : Nat) : (s.promise n d v).teams = s.teams := by unfold State.promise; split <;> rfl
@[simp] theorem State.promise_portRecs (s : State) (n : Nat) (d : Dest) (v : Nat) : (s.promise n d v).portRecs = s.portRecs := by unfold State.promise; split <;> rfl
@[simp] theorem State.promise_uid (s : State) (n : Nat) (d : Dest) (v : Nat) : (s.promise n d v).uid = s.uid := by unfold State.promise; split <;> rfl
@[simp] theorem State.promise_images (s : State) (n : Nat) (d : Dest) (v : Nat) : (s.promise n d v).images = s.images := by unfold State.promise; split <;> rfl
@[simp] theorem State.promise_yields (s : State) (n : Nat) (d : Dest) (v : Nat) : (s.promise n d v).yields = s.yields := by unfold State.promise; split <;> rfl
@[simp] theorem State.promise_served (s : State) (n : Nat) (d : Dest) (v : Nat) : (s.promise n d v).served = s.served := by unfold State.promise; split <;> rfl
@[simp] theorem State.promise_agePeriod (s : State) (n : Nat) (d : Dest) (v : Nat) : (s.promise n d v).agePeriod = s.agePeriod := by unfold State.promise; split <;> rfl
@[simp] theorem State.promise_quantum (s : State) (n : Nat) (d : Dest) (v : Nat) : (s.promise n d v).quantum = s.quantum := by unfold State.promise; split <;> rfl
@[simp] theorem State.promise_inv (s : State) (n : Nat) (d : Dest) (v : Nat) : (s.promise n d v).inv = s.inv := by unfold State.promise; split <;> rfl
@[simp] theorem State.promise_known (s : State) (n : Nat) (d : Dest) (v : Nat) : (s.promise n d v).known = s.known := by unfold State.promise; split <;> rfl
@[simp] theorem State.promise_marks (s : State) (n : Nat) (d : Dest) (v : Nat) : (s.promise n d v).marks = s.marks := by unfold State.promise; split <;> rfl
@[simp] theorem State.promise_crews (s : State) (n : Nat) (d : Dest) (v : Nat) : (s.promise n d v).crews = s.crews := by unfold State.promise; split <;> rfl
@[simp] theorem State.promise_credits (s : State) (n : Nat) (d : Dest) (v : Nat) : (s.promise n d v).credits = s.credits := by unfold State.promise; split <;> rfl
@[simp] theorem State.promise_waiting (s : State) (n : Nat) (d : Dest) (v : Nat) : (s.promise n d v).waiting = s.waiting := by unfold State.promise; split <;> rfl
@[simp] theorem State.promise_returns (s : State) (n : Nat) (d : Dest) (v : Nat) : (s.promise n d v).returns = s.returns := by unfold State.promise; split <;> rfl
@[simp] theorem State.promise_chervil (s : State) (n : Nat) (d : Dest) (v : Nat) : (s.promise n d v).chervil = s.chervil := by unfold State.promise; split <;> rfl
@[simp] theorem State.promise_weights (s : State) (n : Nat) (d : Dest) (v : Nat) : (s.promise n d v).weights = s.weights := by unfold State.promise; split <;> rfl
@[simp] theorem State.promise_trace (s : State) (n : Nat) (d : Dest) (v : Nat) : (s.promise n d v).trace = s.trace := by unfold State.promise; split <;> rfl
@[simp] theorem State.promise_devnum (s : State) (n : Nat) (d : Dest) (v : Nat) : (s.promise n d v).devnum = s.devnum := by unfold State.promise; split <;> rfl
@[simp] theorem State.promise_hostLo (s : State) (n : Nat) (d : Dest) (v : Nat) : (s.promise n d v).hostLo = s.hostLo := by unfold State.promise; split <;> rfl
@[simp] theorem State.promise_hostHi (s : State) (n : Nat) (d : Dest) (v : Nat) : (s.promise n d v).hostHi = s.hostHi := by unfold State.promise; split <;> rfl
@[simp] theorem State.promise_hostSet (s : State) (n : Nat) (d : Dest) (v : Nat) : (s.promise n d v).hostSet = s.hostSet := by unfold State.promise; split <;> rfl
@[simp] theorem State.promise_hostHiSet (s : State) (n : Nat) (d : Dest) (v : Nat) : (s.promise n d v).hostHiSet = s.hostHiSet := by unfold State.promise; split <;> rfl
@[simp] theorem State.promise_portstat (s : State) (n : Nat) (d : Dest) (v : Nat) : (s.promise n d v).portstat = s.portstat := by unfold State.promise; split <;> rfl
@[simp] theorem State.promise_portAddr (s : State) (n : Nat) (d : Dest) (v : Nat) : (s.promise n d v).portAddr = s.portAddr := by unfold State.promise; split <;> rfl
@[simp] theorem State.promise_chteam (s : State) (n : Nat) (d : Dest) (v : Nat) : (s.promise n d v).chteam = s.chteam := by unfold State.promise; split <;> rfl
@[simp] theorem State.promise_chtab (s : State) (n : Nat) (d : Dest) (v : Nat) : (s.promise n d v).chtab = s.chtab := by unfold State.promise; split <;> rfl
@[simp] theorem State.promise_peers (s : State) (n : Nat) (d : Dest) (v : Nat) : (s.promise n d v).peers = s.peers := by unfold State.promise; split <;> rfl
@[simp] theorem State.promise_conns (s : State) (n : Nat) (d : Dest) (v : Nat) : (s.promise n d v).conns = s.conns := by unfold State.promise; split <;> rfl
@[simp] theorem State.promise_readyT (s : State) (n : Nat) (d : Dest) (v : Nat) : (s.promise n d v).readyT = s.readyT := by unfold State.promise; split <;> rfl
@[simp] theorem State.promise_readyM (s : State) (n : Nat) (d : Dest) (v : Nat) : (s.promise n d v).readyM = s.readyM := by unfold State.promise; split <;> rfl
@[simp] theorem State.promise_fwstat (s : State) (n : Nat) (d : Dest) (v : Nat) : (s.promise n d v).fwstat = s.fwstat := by unfold State.promise; split <;> rfl
@[simp] theorem State.promise_pwrstat (s : State) (n : Nat) (d : Dest) (v : Nat) : (s.promise n d v).pwrstat = s.pwrstat := by unfold State.promise; split <;> rfl
@[simp] theorem State.promise_hot (s : State) (n : Nat) (d : Dest) (v : Nat) : (s.promise n d v).hot = s.hot := by unfold State.promise; split <;> rfl
@[simp] theorem State.promise_image (s : State) (n : Nat) (d : Dest) (v : Nat) : (s.promise n d v).image = s.image := by unfold State.promise; split <;> rfl
@[simp] theorem State.promise_container (s : State) (n : Nat) (d : Dest) (v : Nat) : (s.promise n d v).container = s.container := by unfold State.promise; split <;> rfl
@[simp] theorem State.promise_kernels (s : State) (n : Nat) (d : Dest) (v : Nat) : (s.promise n d v).kernels = s.kernels := by unfold State.promise; split <;> rfl
@[simp] theorem State.promise_firmware (s : State) (n : Nat) (d : Dest) (v : Nat) : (s.promise n d v).firmware = s.firmware := by unfold State.promise; split <;> rfl
@[simp] theorem State.promise_translated (s : State) (n : Nat) (d : Dest) (v : Nat) : (s.promise n d v).translated = s.translated := by unfold State.promise; split <;> rfl
@[simp] theorem State.promise_told (s : State) (n : Nat) (d : Dest) (v : Nat) : (s.promise n d v).told = s.told := by unfold State.promise; split <;> rfl
@[simp] theorem State.promise_sent (s : State) (n : Nat) (d : Dest) (v : Nat) : (s.promise n d v).sent = s.sent := by unfold State.promise; split <;> rfl
@[simp] theorem State.promise_fw (s : State) (n : Nat) (d : Dest) (v : Nat) : (s.promise n d v).fw = s.fw := by unfold State.promise; split <;> rfl
@[simp] theorem State.promise_agenda (s : State) (n : Nat) (d : Dest) (v : Nat) : (s.promise n d v).agenda = s.agenda := by unfold State.promise; split <;> rfl
@[simp] theorem State.promise_again (s : State) (n : Nat) (d : Dest) (v : Nat) : (s.promise n d v).again = s.again := by unfold State.promise; split <;> rfl
@[simp] theorem State.promise_turn (s : State) (n : Nat) (d : Dest) (v : Nat) : (s.promise n d v).turn = s.turn := by unfold State.promise; split <;> rfl
@[simp] theorem State.promise_taken (s : State) (n : Nat) (d : Dest) (v : Nat) : (s.promise n d v).taken = s.taken := by unfold State.promise; split <;> rfl
@[simp] theorem State.promise_notes (s : State) (n : Nat) (d : Dest) (v : Nat) : (s.promise n d v).notes = s.notes := by unfold State.promise; split <;> rfl
@[simp] theorem State.promise_first (s : State) (n : Nat) (d : Dest) (v : Nat) : (s.promise n d v).first = s.first := by unfold State.promise; split <;> rfl
@[simp] theorem State.promise_me (s : State) (n : Nat) (d : Dest) (v : Nat) : (s.promise n d v).me = s.me := by unfold State.promise; split <;> rfl
@[simp] theorem State.promise_grp (s : State) (n : Nat) (d : Dest) (v : Nat) : (s.promise n d v).grp = s.grp := by unfold State.promise; split <;> rfl
@[simp] theorem State.promise_slot (s : State) (n : Nat) (d : Dest) (v : Nat) : (s.promise n d v).slot = s.slot := by unfold State.promise; split <;> rfl
@[simp] theorem State.promise_npc (s : State) (n : Nat) (d : Dest) (v : Nat) : (s.promise n d v).npc = s.npc := by unfold State.promise; split <;> rfl
@[simp] theorem State.promise_jumped (s : State) (n : Nat) (d : Dest) (v : Nat) : (s.promise n d v).jumped = s.jumped := by unfold State.promise; split <;> rfl
@[simp] theorem State.promise_status (s : State) (n : Nat) (d : Dest) (v : Nat) : (s.promise n d v).status = s.status := by unfold State.promise; split <;> rfl
@[simp] theorem State.promise_fresh (s : State) (n : Nat) (d : Dest) (v : Nat) : (s.promise n d v).fresh = s.fresh := by unfold State.promise; split <;> rfl

@[simp] theorem State.await_cycle (s : State) (d : Dest) : (s.await d).cycle = s.cycle := by unfold State.await; split <;> rfl
@[simp] theorem State.await_time (s : State) (d : Dest) : (s.await d).time = s.time := by unfold State.await; split <;> rfl
@[simp] theorem State.await_phase (s : State) (d : Dest) : (s.await d).phase = s.phase := by unfold State.await; split <;> rfl
@[simp] theorem State.await_trip (s : State) (d : Dest) : (s.await d).trip = s.trip := by unfold State.await; split <;> rfl
@[simp] theorem State.await_epoch (s : State) (d : Dest) : (s.await d).epoch = s.epoch := by unfold State.await; split <;> rfl
@[simp] theorem State.await_owedT (s : State) (d : Dest) : (s.await d).owedT = s.owedT := by unfold State.await; split <;> rfl
@[simp] theorem State.await_owedM (s : State) (d : Dest) : (s.await d).owedM = s.owedM := by unfold State.await; split <;> rfl
@[simp] theorem State.await_clocks (s : State) (d : Dest) : (s.await d).clocks = s.clocks := by unfold State.await; split <;> rfl
@[simp] theorem State.await_rates (s : State) (d : Dest) : (s.await d).rates = s.rates := by unfold State.await; split <;> rfl
@[simp] theorem State.await_missed (s : State) (d : Dest) : (s.await d).missed = s.missed := by unfold State.await; split <;> rfl
@[simp] theorem State.await_mem (s : State) (d : Dest) : (s.await d).mem = s.mem := by unfold State.await; split <;> rfl
@[simp] theorem State.await_poison (s : State) (d : Dest) : (s.await d).poison = s.poison := by unfold State.await; split <;> rfl
@[simp] theorem State.await_eccCnt (s : State) (d : Dest) : (s.await d).eccCnt = s.eccCnt := by unfold State.await; split <;> rfl
@[simp] theorem State.await_pool (s : State) (d : Dest) : (s.await d).pool = s.pool := by unfold State.await; split <;> rfl
@[simp] theorem State.await_holder (s : State) (d : Dest) : (s.await d).holder = s.holder := by unfold State.await; split <;> rfl
@[simp] theorem State.await_slotTab (s : State) (d : Dest) : (s.await d).slotTab = s.slotTab := by unfold State.await; split <;> rfl
@[simp] theorem State.await_jobqs (s : State) (d : Dest) : (s.await d).jobqs = s.jobqs := by unfold State.await; split <;> rfl
@[simp] theorem State.await_launch (s : State) (d : Dest) : (s.await d).launch = s.launch := by unfold State.await; split <;> rfl
@[simp] theorem State.await_runs (s : State) (d : Dest) : (s.await d).runs = s.runs := by unfold State.await; split <;> rfl
@[simp] theorem State.await_teams (s : State) (d : Dest) : (s.await d).teams = s.teams := by unfold State.await; split <;> rfl
@[simp] theorem State.await_portRecs (s : State) (d : Dest) : (s.await d).portRecs = s.portRecs := by unfold State.await; split <;> rfl
@[simp] theorem State.await_uid (s : State) (d : Dest) : (s.await d).uid = s.uid := by unfold State.await; split <;> rfl
@[simp] theorem State.await_images (s : State) (d : Dest) : (s.await d).images = s.images := by unfold State.await; split <;> rfl
@[simp] theorem State.await_yields (s : State) (d : Dest) : (s.await d).yields = s.yields := by unfold State.await; split <;> rfl
@[simp] theorem State.await_served (s : State) (d : Dest) : (s.await d).served = s.served := by unfold State.await; split <;> rfl
@[simp] theorem State.await_agePeriod (s : State) (d : Dest) : (s.await d).agePeriod = s.agePeriod := by unfold State.await; split <;> rfl
@[simp] theorem State.await_quantum (s : State) (d : Dest) : (s.await d).quantum = s.quantum := by unfold State.await; split <;> rfl
@[simp] theorem State.await_inv (s : State) (d : Dest) : (s.await d).inv = s.inv := by unfold State.await; split <;> rfl
@[simp] theorem State.await_known (s : State) (d : Dest) : (s.await d).known = s.known := by unfold State.await; split <;> rfl
@[simp] theorem State.await_marks (s : State) (d : Dest) : (s.await d).marks = s.marks := by unfold State.await; split <;> rfl
@[simp] theorem State.await_crews (s : State) (d : Dest) : (s.await d).crews = s.crews := by unfold State.await; split <;> rfl
@[simp] theorem State.await_credits (s : State) (d : Dest) : (s.await d).credits = s.credits := by unfold State.await; split <;> rfl
@[simp] theorem State.await_waiting (s : State) (d : Dest) : (s.await d).waiting = s.waiting := by unfold State.await; split <;> rfl
@[simp] theorem State.await_returns (s : State) (d : Dest) : (s.await d).returns = s.returns := by unfold State.await; split <;> rfl
@[simp] theorem State.await_chervil (s : State) (d : Dest) : (s.await d).chervil = s.chervil := by unfold State.await; split <;> rfl
@[simp] theorem State.await_weights (s : State) (d : Dest) : (s.await d).weights = s.weights := by unfold State.await; split <;> rfl
@[simp] theorem State.await_trace (s : State) (d : Dest) : (s.await d).trace = s.trace := by unfold State.await; split <;> rfl
@[simp] theorem State.await_devnum (s : State) (d : Dest) : (s.await d).devnum = s.devnum := by unfold State.await; split <;> rfl
@[simp] theorem State.await_hostLo (s : State) (d : Dest) : (s.await d).hostLo = s.hostLo := by unfold State.await; split <;> rfl
@[simp] theorem State.await_hostHi (s : State) (d : Dest) : (s.await d).hostHi = s.hostHi := by unfold State.await; split <;> rfl
@[simp] theorem State.await_hostSet (s : State) (d : Dest) : (s.await d).hostSet = s.hostSet := by unfold State.await; split <;> rfl
@[simp] theorem State.await_hostHiSet (s : State) (d : Dest) : (s.await d).hostHiSet = s.hostHiSet := by unfold State.await; split <;> rfl
@[simp] theorem State.await_portstat (s : State) (d : Dest) : (s.await d).portstat = s.portstat := by unfold State.await; split <;> rfl
@[simp] theorem State.await_portAddr (s : State) (d : Dest) : (s.await d).portAddr = s.portAddr := by unfold State.await; split <;> rfl
@[simp] theorem State.await_chteam (s : State) (d : Dest) : (s.await d).chteam = s.chteam := by unfold State.await; split <;> rfl
@[simp] theorem State.await_chtab (s : State) (d : Dest) : (s.await d).chtab = s.chtab := by unfold State.await; split <;> rfl
@[simp] theorem State.await_peers (s : State) (d : Dest) : (s.await d).peers = s.peers := by unfold State.await; split <;> rfl
@[simp] theorem State.await_conns (s : State) (d : Dest) : (s.await d).conns = s.conns := by unfold State.await; split <;> rfl
@[simp] theorem State.await_readyT (s : State) (d : Dest) : (s.await d).readyT = s.readyT := by unfold State.await; split <;> rfl
@[simp] theorem State.await_readyM (s : State) (d : Dest) : (s.await d).readyM = s.readyM := by unfold State.await; split <;> rfl
@[simp] theorem State.await_fwstat (s : State) (d : Dest) : (s.await d).fwstat = s.fwstat := by unfold State.await; split <;> rfl
@[simp] theorem State.await_pwrstat (s : State) (d : Dest) : (s.await d).pwrstat = s.pwrstat := by unfold State.await; split <;> rfl
@[simp] theorem State.await_hot (s : State) (d : Dest) : (s.await d).hot = s.hot := by unfold State.await; split <;> rfl
@[simp] theorem State.await_image (s : State) (d : Dest) : (s.await d).image = s.image := by unfold State.await; split <;> rfl
@[simp] theorem State.await_container (s : State) (d : Dest) : (s.await d).container = s.container := by unfold State.await; split <;> rfl
@[simp] theorem State.await_kernels (s : State) (d : Dest) : (s.await d).kernels = s.kernels := by unfold State.await; split <;> rfl
@[simp] theorem State.await_firmware (s : State) (d : Dest) : (s.await d).firmware = s.firmware := by unfold State.await; split <;> rfl
@[simp] theorem State.await_translated (s : State) (d : Dest) : (s.await d).translated = s.translated := by unfold State.await; split <;> rfl
@[simp] theorem State.await_told (s : State) (d : Dest) : (s.await d).told = s.told := by unfold State.await; split <;> rfl
@[simp] theorem State.await_sent (s : State) (d : Dest) : (s.await d).sent = s.sent := by unfold State.await; split <;> rfl
@[simp] theorem State.await_fw (s : State) (d : Dest) : (s.await d).fw = s.fw := by unfold State.await; split <;> rfl
@[simp] theorem State.await_agenda (s : State) (d : Dest) : (s.await d).agenda = s.agenda := by unfold State.await; split <;> rfl
@[simp] theorem State.await_again (s : State) (d : Dest) : (s.await d).again = s.again := by unfold State.await; split <;> rfl
@[simp] theorem State.await_turn (s : State) (d : Dest) : (s.await d).turn = s.turn := by unfold State.await; split <;> rfl
@[simp] theorem State.await_taken (s : State) (d : Dest) : (s.await d).taken = s.taken := by unfold State.await; split <;> rfl
@[simp] theorem State.await_notes (s : State) (d : Dest) : (s.await d).notes = s.notes := by unfold State.await; split <;> rfl
@[simp] theorem State.await_first (s : State) (d : Dest) : (s.await d).first = s.first := by unfold State.await; split <;> rfl
@[simp] theorem State.await_me (s : State) (d : Dest) : (s.await d).me = s.me := by unfold State.await; split <;> rfl
@[simp] theorem State.await_grp (s : State) (d : Dest) : (s.await d).grp = s.grp := by unfold State.await; split <;> rfl
@[simp] theorem State.await_slot (s : State) (d : Dest) : (s.await d).slot = s.slot := by unfold State.await; split <;> rfl
@[simp] theorem State.await_npc (s : State) (d : Dest) : (s.await d).npc = s.npc := by unfold State.await; split <;> rfl
@[simp] theorem State.await_jumped (s : State) (d : Dest) : (s.await d).jumped = s.jumped := by unfold State.await; split <;> rfl
@[simp] theorem State.await_status (s : State) (d : Dest) : (s.await d).status = s.status := by unfold State.await; split <;> rfl
@[simp] theorem State.await_fresh (s : State) (d : Dest) : (s.await d).fresh = s.fresh := by unfold State.await; split <;> rfl

/-! A trace note, a transfer, a stall, a slot-table outcome. -/

@[simp] theorem State.note_cycle (s : State) (c e d : Nat) : (s.note c e d).cycle = s.cycle := rfl
@[simp] theorem State.note_time (s : State) (c e d : Nat) : (s.note c e d).time = s.time := rfl
@[simp] theorem State.note_phase (s : State) (c e d : Nat) : (s.note c e d).phase = s.phase := rfl
@[simp] theorem State.note_trip (s : State) (c e d : Nat) : (s.note c e d).trip = s.trip := rfl
@[simp] theorem State.note_epoch (s : State) (c e d : Nat) : (s.note c e d).epoch = s.epoch := rfl
@[simp] theorem State.note_owedT (s : State) (c e d : Nat) : (s.note c e d).owedT = s.owedT := rfl
@[simp] theorem State.note_owedM (s : State) (c e d : Nat) : (s.note c e d).owedM = s.owedM := rfl
@[simp] theorem State.note_clocks (s : State) (c e d : Nat) : (s.note c e d).clocks = s.clocks := rfl
@[simp] theorem State.note_rates (s : State) (c e d : Nat) : (s.note c e d).rates = s.rates := rfl
@[simp] theorem State.note_missed (s : State) (c e d : Nat) : (s.note c e d).missed = s.missed := rfl
@[simp] theorem State.note_mem (s : State) (c e d : Nat) : (s.note c e d).mem = s.mem := rfl
@[simp] theorem State.note_poison (s : State) (c e d : Nat) : (s.note c e d).poison = s.poison := rfl
@[simp] theorem State.note_eccCnt (s : State) (c e d : Nat) : (s.note c e d).eccCnt = s.eccCnt := rfl
@[simp] theorem State.note_pool (s : State) (c e d : Nat) : (s.note c e d).pool = s.pool := rfl
@[simp] theorem State.note_ctxs (s : State) (c e d : Nat) : (s.note c e d).ctxs = s.ctxs := rfl
@[simp] theorem State.note_holder (s : State) (c e d : Nat) : (s.note c e d).holder = s.holder := rfl
@[simp] theorem State.note_slotTab (s : State) (c e d : Nat) : (s.note c e d).slotTab = s.slotTab := rfl
@[simp] theorem State.note_jobqs (s : State) (c e d : Nat) : (s.note c e d).jobqs = s.jobqs := rfl
@[simp] theorem State.note_launch (s : State) (c e d : Nat) : (s.note c e d).launch = s.launch := rfl
@[simp] theorem State.note_runs (s : State) (c e d : Nat) : (s.note c e d).runs = s.runs := rfl
@[simp] theorem State.note_teams (s : State) (c e d : Nat) : (s.note c e d).teams = s.teams := rfl
@[simp] theorem State.note_portRecs (s : State) (c e d : Nat) : (s.note c e d).portRecs = s.portRecs := rfl
@[simp] theorem State.note_uid (s : State) (c e d : Nat) : (s.note c e d).uid = s.uid := rfl
@[simp] theorem State.note_images (s : State) (c e d : Nat) : (s.note c e d).images = s.images := rfl
@[simp] theorem State.note_yields (s : State) (c e d : Nat) : (s.note c e d).yields = s.yields := rfl
@[simp] theorem State.note_served (s : State) (c e d : Nat) : (s.note c e d).served = s.served := rfl
@[simp] theorem State.note_agePeriod (s : State) (c e d : Nat) : (s.note c e d).agePeriod = s.agePeriod := rfl
@[simp] theorem State.note_quantum (s : State) (c e d : Nat) : (s.note c e d).quantum = s.quantum := rfl
@[simp] theorem State.note_inv (s : State) (c e d : Nat) : (s.note c e d).inv = s.inv := rfl
@[simp] theorem State.note_known (s : State) (c e d : Nat) : (s.note c e d).known = s.known := rfl
@[simp] theorem State.note_marks (s : State) (c e d : Nat) : (s.note c e d).marks = s.marks := rfl
@[simp] theorem State.note_crews (s : State) (c e d : Nat) : (s.note c e d).crews = s.crews := rfl
@[simp] theorem State.note_credits (s : State) (c e d : Nat) : (s.note c e d).credits = s.credits := rfl
@[simp] theorem State.note_waiting (s : State) (c e d : Nat) : (s.note c e d).waiting = s.waiting := rfl
@[simp] theorem State.note_returns (s : State) (c e d : Nat) : (s.note c e d).returns = s.returns := rfl
@[simp] theorem State.note_chervil (s : State) (c e d : Nat) : (s.note c e d).chervil = s.chervil := rfl
@[simp] theorem State.note_weights (s : State) (c e d : Nat) : (s.note c e d).weights = s.weights := rfl
@[simp] theorem State.note_trace (s : State) (c e d : Nat) : (s.note c e d).trace = s.trace := rfl
@[simp] theorem State.note_devnum (s : State) (c e d : Nat) : (s.note c e d).devnum = s.devnum := rfl
@[simp] theorem State.note_hostLo (s : State) (c e d : Nat) : (s.note c e d).hostLo = s.hostLo := rfl
@[simp] theorem State.note_hostHi (s : State) (c e d : Nat) : (s.note c e d).hostHi = s.hostHi := rfl
@[simp] theorem State.note_hostSet (s : State) (c e d : Nat) : (s.note c e d).hostSet = s.hostSet := rfl
@[simp] theorem State.note_hostHiSet (s : State) (c e d : Nat) : (s.note c e d).hostHiSet = s.hostHiSet := rfl
@[simp] theorem State.note_portstat (s : State) (c e d : Nat) : (s.note c e d).portstat = s.portstat := rfl
@[simp] theorem State.note_portAddr (s : State) (c e d : Nat) : (s.note c e d).portAddr = s.portAddr := rfl
@[simp] theorem State.note_chteam (s : State) (c e d : Nat) : (s.note c e d).chteam = s.chteam := rfl
@[simp] theorem State.note_chtab (s : State) (c e d : Nat) : (s.note c e d).chtab = s.chtab := rfl
@[simp] theorem State.note_peers (s : State) (c e d : Nat) : (s.note c e d).peers = s.peers := rfl
@[simp] theorem State.note_conns (s : State) (c e d : Nat) : (s.note c e d).conns = s.conns := rfl
@[simp] theorem State.note_readyT (s : State) (c e d : Nat) : (s.note c e d).readyT = s.readyT := rfl
@[simp] theorem State.note_readyM (s : State) (c e d : Nat) : (s.note c e d).readyM = s.readyM := rfl
@[simp] theorem State.note_fwstat (s : State) (c e d : Nat) : (s.note c e d).fwstat = s.fwstat := rfl
@[simp] theorem State.note_pwrstat (s : State) (c e d : Nat) : (s.note c e d).pwrstat = s.pwrstat := rfl
@[simp] theorem State.note_hot (s : State) (c e d : Nat) : (s.note c e d).hot = s.hot := rfl
@[simp] theorem State.note_image (s : State) (c e d : Nat) : (s.note c e d).image = s.image := rfl
@[simp] theorem State.note_container (s : State) (c e d : Nat) : (s.note c e d).container = s.container := rfl
@[simp] theorem State.note_kernels (s : State) (c e d : Nat) : (s.note c e d).kernels = s.kernels := rfl
@[simp] theorem State.note_firmware (s : State) (c e d : Nat) : (s.note c e d).firmware = s.firmware := rfl
@[simp] theorem State.note_translated (s : State) (c e d : Nat) : (s.note c e d).translated = s.translated := rfl
@[simp] theorem State.note_told (s : State) (c e d : Nat) : (s.note c e d).told = s.told := rfl
@[simp] theorem State.note_sent (s : State) (c e d : Nat) : (s.note c e d).sent = s.sent := rfl
@[simp] theorem State.note_fw (s : State) (c e d : Nat) : (s.note c e d).fw = s.fw := rfl
@[simp] theorem State.note_agenda (s : State) (c e d : Nat) : (s.note c e d).agenda = s.agenda := rfl
@[simp] theorem State.note_again (s : State) (c e d : Nat) : (s.note c e d).again = s.again := rfl
@[simp] theorem State.note_turn (s : State) (c e d : Nat) : (s.note c e d).turn = s.turn := rfl
@[simp] theorem State.note_taken (s : State) (c e d : Nat) : (s.note c e d).taken = s.taken := rfl
@[simp] theorem State.note_first (s : State) (c e d : Nat) : (s.note c e d).first = s.first := rfl
@[simp] theorem State.note_me (s : State) (c e d : Nat) : (s.note c e d).me = s.me := rfl
@[simp] theorem State.note_grp (s : State) (c e d : Nat) : (s.note c e d).grp = s.grp := rfl
@[simp] theorem State.note_slot (s : State) (c e d : Nat) : (s.note c e d).slot = s.slot := rfl
@[simp] theorem State.note_npc (s : State) (c e d : Nat) : (s.note c e d).npc = s.npc := rfl
@[simp] theorem State.note_jumped (s : State) (c e d : Nat) : (s.note c e d).jumped = s.jumped := rfl
@[simp] theorem State.note_status (s : State) (c e d : Nat) : (s.note c e d).status = s.status := rfl
@[simp] theorem State.note_fresh (s : State) (c e d : Nat) : (s.note c e d).fresh = s.fresh := rfl

@[simp] theorem State.jump_cycle (s : State) (a : Word) : (s.jump a).cycle = s.cycle := rfl
@[simp] theorem State.jump_time (s : State) (a : Word) : (s.jump a).time = s.time := rfl
@[simp] theorem State.jump_phase (s : State) (a : Word) : (s.jump a).phase = s.phase := rfl
@[simp] theorem State.jump_trip (s : State) (a : Word) : (s.jump a).trip = s.trip := rfl
@[simp] theorem State.jump_epoch (s : State) (a : Word) : (s.jump a).epoch = s.epoch := rfl
@[simp] theorem State.jump_owedT (s : State) (a : Word) : (s.jump a).owedT = s.owedT := rfl
@[simp] theorem State.jump_owedM (s : State) (a : Word) : (s.jump a).owedM = s.owedM := rfl
@[simp] theorem State.jump_clocks (s : State) (a : Word) : (s.jump a).clocks = s.clocks := rfl
@[simp] theorem State.jump_rates (s : State) (a : Word) : (s.jump a).rates = s.rates := rfl
@[simp] theorem State.jump_missed (s : State) (a : Word) : (s.jump a).missed = s.missed := rfl
@[simp] theorem State.jump_mem (s : State) (a : Word) : (s.jump a).mem = s.mem := rfl
@[simp] theorem State.jump_poison (s : State) (a : Word) : (s.jump a).poison = s.poison := rfl
@[simp] theorem State.jump_eccCnt (s : State) (a : Word) : (s.jump a).eccCnt = s.eccCnt := rfl
@[simp] theorem State.jump_pool (s : State) (a : Word) : (s.jump a).pool = s.pool := rfl
@[simp] theorem State.jump_ctxs (s : State) (a : Word) : (s.jump a).ctxs = s.ctxs := rfl
@[simp] theorem State.jump_holder (s : State) (a : Word) : (s.jump a).holder = s.holder := rfl
@[simp] theorem State.jump_slotTab (s : State) (a : Word) : (s.jump a).slotTab = s.slotTab := rfl
@[simp] theorem State.jump_jobqs (s : State) (a : Word) : (s.jump a).jobqs = s.jobqs := rfl
@[simp] theorem State.jump_launch (s : State) (a : Word) : (s.jump a).launch = s.launch := rfl
@[simp] theorem State.jump_runs (s : State) (a : Word) : (s.jump a).runs = s.runs := rfl
@[simp] theorem State.jump_teams (s : State) (a : Word) : (s.jump a).teams = s.teams := rfl
@[simp] theorem State.jump_portRecs (s : State) (a : Word) : (s.jump a).portRecs = s.portRecs := rfl
@[simp] theorem State.jump_uid (s : State) (a : Word) : (s.jump a).uid = s.uid := rfl
@[simp] theorem State.jump_images (s : State) (a : Word) : (s.jump a).images = s.images := rfl
@[simp] theorem State.jump_yields (s : State) (a : Word) : (s.jump a).yields = s.yields := rfl
@[simp] theorem State.jump_served (s : State) (a : Word) : (s.jump a).served = s.served := rfl
@[simp] theorem State.jump_agePeriod (s : State) (a : Word) : (s.jump a).agePeriod = s.agePeriod := rfl
@[simp] theorem State.jump_quantum (s : State) (a : Word) : (s.jump a).quantum = s.quantum := rfl
@[simp] theorem State.jump_inv (s : State) (a : Word) : (s.jump a).inv = s.inv := rfl
@[simp] theorem State.jump_known (s : State) (a : Word) : (s.jump a).known = s.known := rfl
@[simp] theorem State.jump_marks (s : State) (a : Word) : (s.jump a).marks = s.marks := rfl
@[simp] theorem State.jump_crews (s : State) (a : Word) : (s.jump a).crews = s.crews := rfl
@[simp] theorem State.jump_credits (s : State) (a : Word) : (s.jump a).credits = s.credits := rfl
@[simp] theorem State.jump_waiting (s : State) (a : Word) : (s.jump a).waiting = s.waiting := rfl
@[simp] theorem State.jump_returns (s : State) (a : Word) : (s.jump a).returns = s.returns := rfl
@[simp] theorem State.jump_chervil (s : State) (a : Word) : (s.jump a).chervil = s.chervil := rfl
@[simp] theorem State.jump_weights (s : State) (a : Word) : (s.jump a).weights = s.weights := rfl
@[simp] theorem State.jump_trace (s : State) (a : Word) : (s.jump a).trace = s.trace := rfl
@[simp] theorem State.jump_devnum (s : State) (a : Word) : (s.jump a).devnum = s.devnum := rfl
@[simp] theorem State.jump_hostLo (s : State) (a : Word) : (s.jump a).hostLo = s.hostLo := rfl
@[simp] theorem State.jump_hostHi (s : State) (a : Word) : (s.jump a).hostHi = s.hostHi := rfl
@[simp] theorem State.jump_hostSet (s : State) (a : Word) : (s.jump a).hostSet = s.hostSet := rfl
@[simp] theorem State.jump_hostHiSet (s : State) (a : Word) : (s.jump a).hostHiSet = s.hostHiSet := rfl
@[simp] theorem State.jump_portstat (s : State) (a : Word) : (s.jump a).portstat = s.portstat := rfl
@[simp] theorem State.jump_portAddr (s : State) (a : Word) : (s.jump a).portAddr = s.portAddr := rfl
@[simp] theorem State.jump_chteam (s : State) (a : Word) : (s.jump a).chteam = s.chteam := rfl
@[simp] theorem State.jump_chtab (s : State) (a : Word) : (s.jump a).chtab = s.chtab := rfl
@[simp] theorem State.jump_peers (s : State) (a : Word) : (s.jump a).peers = s.peers := rfl
@[simp] theorem State.jump_conns (s : State) (a : Word) : (s.jump a).conns = s.conns := rfl
@[simp] theorem State.jump_readyT (s : State) (a : Word) : (s.jump a).readyT = s.readyT := rfl
@[simp] theorem State.jump_readyM (s : State) (a : Word) : (s.jump a).readyM = s.readyM := rfl
@[simp] theorem State.jump_fwstat (s : State) (a : Word) : (s.jump a).fwstat = s.fwstat := rfl
@[simp] theorem State.jump_pwrstat (s : State) (a : Word) : (s.jump a).pwrstat = s.pwrstat := rfl
@[simp] theorem State.jump_hot (s : State) (a : Word) : (s.jump a).hot = s.hot := rfl
@[simp] theorem State.jump_image (s : State) (a : Word) : (s.jump a).image = s.image := rfl
@[simp] theorem State.jump_container (s : State) (a : Word) : (s.jump a).container = s.container := rfl
@[simp] theorem State.jump_kernels (s : State) (a : Word) : (s.jump a).kernels = s.kernels := rfl
@[simp] theorem State.jump_firmware (s : State) (a : Word) : (s.jump a).firmware = s.firmware := rfl
@[simp] theorem State.jump_translated (s : State) (a : Word) : (s.jump a).translated = s.translated := rfl
@[simp] theorem State.jump_told (s : State) (a : Word) : (s.jump a).told = s.told := rfl
@[simp] theorem State.jump_sent (s : State) (a : Word) : (s.jump a).sent = s.sent := rfl
@[simp] theorem State.jump_fw (s : State) (a : Word) : (s.jump a).fw = s.fw := rfl
@[simp] theorem State.jump_agenda (s : State) (a : Word) : (s.jump a).agenda = s.agenda := rfl
@[simp] theorem State.jump_again (s : State) (a : Word) : (s.jump a).again = s.again := rfl
@[simp] theorem State.jump_turn (s : State) (a : Word) : (s.jump a).turn = s.turn := rfl
@[simp] theorem State.jump_taken (s : State) (a : Word) : (s.jump a).taken = s.taken := rfl
@[simp] theorem State.jump_notes (s : State) (a : Word) : (s.jump a).notes = s.notes := rfl
@[simp] theorem State.jump_first (s : State) (a : Word) : (s.jump a).first = s.first := rfl
@[simp] theorem State.jump_me (s : State) (a : Word) : (s.jump a).me = s.me := rfl
@[simp] theorem State.jump_grp (s : State) (a : Word) : (s.jump a).grp = s.grp := rfl
@[simp] theorem State.jump_slot (s : State) (a : Word) : (s.jump a).slot = s.slot := rfl
@[simp] theorem State.jump_status (s : State) (a : Word) : (s.jump a).status = s.status := rfl
@[simp] theorem State.jump_fresh (s : State) (a : Word) : (s.jump a).fresh = s.fresh := rfl

@[simp] theorem State.actionDone_cycle (s : State) (c r k : Nat) : (s.actionDone c r k).cycle = s.cycle := rfl
@[simp] theorem State.actionDone_time (s : State) (c r k : Nat) : (s.actionDone c r k).time = s.time := rfl
@[simp] theorem State.actionDone_phase (s : State) (c r k : Nat) : (s.actionDone c r k).phase = s.phase := rfl
@[simp] theorem State.actionDone_trip (s : State) (c r k : Nat) : (s.actionDone c r k).trip = s.trip := rfl
@[simp] theorem State.actionDone_epoch (s : State) (c r k : Nat) : (s.actionDone c r k).epoch = s.epoch := rfl
@[simp] theorem State.actionDone_owedT (s : State) (c r k : Nat) : (s.actionDone c r k).owedT = s.owedT := rfl
@[simp] theorem State.actionDone_owedM (s : State) (c r k : Nat) : (s.actionDone c r k).owedM = s.owedM := rfl
@[simp] theorem State.actionDone_clocks (s : State) (c r k : Nat) : (s.actionDone c r k).clocks = s.clocks := rfl
@[simp] theorem State.actionDone_rates (s : State) (c r k : Nat) : (s.actionDone c r k).rates = s.rates := rfl
@[simp] theorem State.actionDone_missed (s : State) (c r k : Nat) : (s.actionDone c r k).missed = s.missed := rfl
@[simp] theorem State.actionDone_mem (s : State) (c r k : Nat) : (s.actionDone c r k).mem = s.mem := rfl
@[simp] theorem State.actionDone_poison (s : State) (c r k : Nat) : (s.actionDone c r k).poison = s.poison := rfl
@[simp] theorem State.actionDone_eccCnt (s : State) (c r k : Nat) : (s.actionDone c r k).eccCnt = s.eccCnt := rfl
@[simp] theorem State.actionDone_pool (s : State) (c r k : Nat) : (s.actionDone c r k).pool = s.pool := rfl
@[simp] theorem State.actionDone_ctxs (s : State) (c r k : Nat) : (s.actionDone c r k).ctxs = s.ctxs := rfl
@[simp] theorem State.actionDone_holder (s : State) (c r k : Nat) : (s.actionDone c r k).holder = s.holder := rfl
@[simp] theorem State.actionDone_jobqs (s : State) (c r k : Nat) : (s.actionDone c r k).jobqs = s.jobqs := rfl
@[simp] theorem State.actionDone_launch (s : State) (c r k : Nat) : (s.actionDone c r k).launch = s.launch := rfl
@[simp] theorem State.actionDone_runs (s : State) (c r k : Nat) : (s.actionDone c r k).runs = s.runs := rfl
@[simp] theorem State.actionDone_teams (s : State) (c r k : Nat) : (s.actionDone c r k).teams = s.teams := rfl
@[simp] theorem State.actionDone_portRecs (s : State) (c r k : Nat) : (s.actionDone c r k).portRecs = s.portRecs := rfl
@[simp] theorem State.actionDone_uid (s : State) (c r k : Nat) : (s.actionDone c r k).uid = s.uid := rfl
@[simp] theorem State.actionDone_images (s : State) (c r k : Nat) : (s.actionDone c r k).images = s.images := rfl
@[simp] theorem State.actionDone_yields (s : State) (c r k : Nat) : (s.actionDone c r k).yields = s.yields := rfl
@[simp] theorem State.actionDone_served (s : State) (c r k : Nat) : (s.actionDone c r k).served = s.served := rfl
@[simp] theorem State.actionDone_agePeriod (s : State) (c r k : Nat) : (s.actionDone c r k).agePeriod = s.agePeriod := rfl
@[simp] theorem State.actionDone_quantum (s : State) (c r k : Nat) : (s.actionDone c r k).quantum = s.quantum := rfl
@[simp] theorem State.actionDone_inv (s : State) (c r k : Nat) : (s.actionDone c r k).inv = s.inv := rfl
@[simp] theorem State.actionDone_known (s : State) (c r k : Nat) : (s.actionDone c r k).known = s.known := rfl
@[simp] theorem State.actionDone_marks (s : State) (c r k : Nat) : (s.actionDone c r k).marks = s.marks := rfl
@[simp] theorem State.actionDone_crews (s : State) (c r k : Nat) : (s.actionDone c r k).crews = s.crews := rfl
@[simp] theorem State.actionDone_credits (s : State) (c r k : Nat) : (s.actionDone c r k).credits = s.credits := rfl
@[simp] theorem State.actionDone_waiting (s : State) (c r k : Nat) : (s.actionDone c r k).waiting = s.waiting := rfl
@[simp] theorem State.actionDone_returns (s : State) (c r k : Nat) : (s.actionDone c r k).returns = s.returns := rfl
@[simp] theorem State.actionDone_chervil (s : State) (c r k : Nat) : (s.actionDone c r k).chervil = s.chervil := rfl
@[simp] theorem State.actionDone_weights (s : State) (c r k : Nat) : (s.actionDone c r k).weights = s.weights := rfl
@[simp] theorem State.actionDone_trace (s : State) (c r k : Nat) : (s.actionDone c r k).trace = s.trace := rfl
@[simp] theorem State.actionDone_devnum (s : State) (c r k : Nat) : (s.actionDone c r k).devnum = s.devnum := rfl
@[simp] theorem State.actionDone_hostLo (s : State) (c r k : Nat) : (s.actionDone c r k).hostLo = s.hostLo := rfl
@[simp] theorem State.actionDone_hostHi (s : State) (c r k : Nat) : (s.actionDone c r k).hostHi = s.hostHi := rfl
@[simp] theorem State.actionDone_hostSet (s : State) (c r k : Nat) : (s.actionDone c r k).hostSet = s.hostSet := rfl
@[simp] theorem State.actionDone_hostHiSet (s : State) (c r k : Nat) : (s.actionDone c r k).hostHiSet = s.hostHiSet := rfl
@[simp] theorem State.actionDone_portstat (s : State) (c r k : Nat) : (s.actionDone c r k).portstat = s.portstat := rfl
@[simp] theorem State.actionDone_portAddr (s : State) (c r k : Nat) : (s.actionDone c r k).portAddr = s.portAddr := rfl
@[simp] theorem State.actionDone_chteam (s : State) (c r k : Nat) : (s.actionDone c r k).chteam = s.chteam := rfl
@[simp] theorem State.actionDone_chtab (s : State) (c r k : Nat) : (s.actionDone c r k).chtab = s.chtab := rfl
@[simp] theorem State.actionDone_peers (s : State) (c r k : Nat) : (s.actionDone c r k).peers = s.peers := rfl
@[simp] theorem State.actionDone_conns (s : State) (c r k : Nat) : (s.actionDone c r k).conns = s.conns := rfl
@[simp] theorem State.actionDone_readyT (s : State) (c r k : Nat) : (s.actionDone c r k).readyT = s.readyT := rfl
@[simp] theorem State.actionDone_readyM (s : State) (c r k : Nat) : (s.actionDone c r k).readyM = s.readyM := rfl
@[simp] theorem State.actionDone_fwstat (s : State) (c r k : Nat) : (s.actionDone c r k).fwstat = s.fwstat := rfl
@[simp] theorem State.actionDone_pwrstat (s : State) (c r k : Nat) : (s.actionDone c r k).pwrstat = s.pwrstat := rfl
@[simp] theorem State.actionDone_hot (s : State) (c r k : Nat) : (s.actionDone c r k).hot = s.hot := rfl
@[simp] theorem State.actionDone_image (s : State) (c r k : Nat) : (s.actionDone c r k).image = s.image := rfl
@[simp] theorem State.actionDone_container (s : State) (c r k : Nat) : (s.actionDone c r k).container = s.container := rfl
@[simp] theorem State.actionDone_kernels (s : State) (c r k : Nat) : (s.actionDone c r k).kernels = s.kernels := rfl
@[simp] theorem State.actionDone_firmware (s : State) (c r k : Nat) : (s.actionDone c r k).firmware = s.firmware := rfl
@[simp] theorem State.actionDone_translated (s : State) (c r k : Nat) : (s.actionDone c r k).translated = s.translated := rfl
@[simp] theorem State.actionDone_told (s : State) (c r k : Nat) : (s.actionDone c r k).told = s.told := rfl
@[simp] theorem State.actionDone_sent (s : State) (c r k : Nat) : (s.actionDone c r k).sent = s.sent := rfl
@[simp] theorem State.actionDone_fw (s : State) (c r k : Nat) : (s.actionDone c r k).fw = s.fw := rfl
@[simp] theorem State.actionDone_agenda (s : State) (c r k : Nat) : (s.actionDone c r k).agenda = s.agenda := rfl
@[simp] theorem State.actionDone_again (s : State) (c r k : Nat) : (s.actionDone c r k).again = s.again := rfl
@[simp] theorem State.actionDone_turn (s : State) (c r k : Nat) : (s.actionDone c r k).turn = s.turn := rfl
@[simp] theorem State.actionDone_taken (s : State) (c r k : Nat) : (s.actionDone c r k).taken = s.taken := rfl
@[simp] theorem State.actionDone_notes (s : State) (c r k : Nat) : (s.actionDone c r k).notes = s.notes := rfl
@[simp] theorem State.actionDone_first (s : State) (c r k : Nat) : (s.actionDone c r k).first = s.first := rfl
@[simp] theorem State.actionDone_me (s : State) (c r k : Nat) : (s.actionDone c r k).me = s.me := rfl
@[simp] theorem State.actionDone_grp (s : State) (c r k : Nat) : (s.actionDone c r k).grp = s.grp := rfl
@[simp] theorem State.actionDone_slot (s : State) (c r k : Nat) : (s.actionDone c r k).slot = s.slot := rfl
@[simp] theorem State.actionDone_npc (s : State) (c r k : Nat) : (s.actionDone c r k).npc = s.npc := rfl
@[simp] theorem State.actionDone_jumped (s : State) (c r k : Nat) : (s.actionDone c r k).jumped = s.jumped := rfl
@[simp] theorem State.actionDone_status (s : State) (c r k : Nat) : (s.actionDone c r k).status = s.status := rfl
@[simp] theorem State.actionDone_fresh (s : State) (c r k : Nat) : (s.actionDone c r k).fresh = s.fresh := rfl

/-! A register written: every part of a context but its registers stays. -/

@[simp] theorem Ctx.setS_bound (x : Ctx) (n : Nat) (v : Word) : (x.setS n v).bound = x.bound := by unfold Ctx.setS; split <;> rfl
@[simp] theorem Ctx.setS_bind (x : Ctx) (n : Nat) (v : Word) : (x.setS n v).bind = x.bind := by unfold Ctx.setS; split <;> rfl
@[simp] theorem Ctx.setS_xchk (x : Ctx) (n : Nat) (v : Word) : (x.setS n v).xchk = x.xchk := by unfold Ctx.setS; split <;> rfl
@[simp] theorem Ctx.setS_trap (x : Ctx) (n : Nat) (v : Word) : (x.setS n v).trap = x.trap := by unfold Ctx.setS; split <;> rfl
@[simp] theorem Ctx.setS_probe (x : Ctx) (n : Nat) (v : Word) : (x.setS n v).probe = x.probe := by unfold Ctx.setS; split <;> rfl
@[simp] theorem Ctx.setS_eng (x : Ctx) (n : Nat) (v : Word) : (x.setS n v).eng = x.eng := by unfold Ctx.setS; split <;> rfl
@[simp] theorem Ctx.setS_pend (x : Ctx) (n : Nat) (v : Word) : (x.setS n v).pend = x.pend := by unfold Ctx.setS; split <;> rfl
@[simp] theorem Ctx.setS_board (x : Ctx) (n : Nat) (v : Word) : (x.setS n v).board = x.board := by unfold Ctx.setS; split <;> rfl
@[simp] theorem Ctx.setS_streams (x : Ctx) (n : Nat) (v : Word) : (x.setS n v).streams = x.streams := by unfold Ctx.setS; split <;> rfl
@[simp] theorem Ctx.setS_map (x : Ctx) (n : Nat) (v : Word) : (x.setS n v).map = x.map := by unfold Ctx.setS; split <;> rfl
@[simp] theorem Ctx.setS_ports (x : Ctx) (n : Nat) (v : Word) : (x.setS n v).ports = x.ports := by unfold Ctx.setS; split <;> rfl
@[simp] theorem Ctx.setS_freezeAsk (x : Ctx) (n : Nat) (v : Word) : (x.setS n v).freezeAsk = x.freezeAsk := by unfold Ctx.setS; split <;> rfl
@[simp] theorem Ctx.setS_freeze (x : Ctx) (n : Nat) (v : Word) : (x.setS n v).freeze = x.freeze := by unfold Ctx.setS; split <;> rfl
@[simp] theorem Ctx.setS_freezer (x : Ctx) (n : Nat) (v : Word) : (x.setS n v).freezer = x.freezer := by unfold Ctx.setS; split <;> rfl
@[simp] theorem Ctx.setS_yieldAsk (x : Ctx) (n : Nat) (v : Word) : (x.setS n v).yieldAsk = x.yieldAsk := by unfold Ctx.setS; split <;> rfl
@[simp] theorem Ctx.setS_yieldTo (x : Ctx) (n : Nat) (v : Word) : (x.setS n v).yieldTo = x.yieldTo := by unfold Ctx.setS; split <;> rfl
@[simp] theorem Ctx.setS_issued (x : Ctx) (n : Nat) (v : Word) : (x.setS n v).issued = x.issued := by unfold Ctx.setS; split <;> rfl
@[simp] theorem Ctx.setS_since (x : Ctx) (n : Nat) (v : Word) : (x.setS n v).since = x.since := by unfold Ctx.setS; split <;> rfl
@[simp] theorem Ctx.setS_asks (x : Ctx) (n : Nat) (v : Word) : (x.setS n v).asks = x.asks := by unfold Ctx.setS; split <;> rfl
@[simp] theorem Ctx.setS_swaps (x : Ctx) (n : Nat) (v : Word) : (x.setS n v).swaps = x.swaps := by unfold Ctx.setS; split <;> rfl
@[simp] theorem Ctx.setS_trapping (x : Ctx) (n : Nat) (v : Word) : (x.setS n v).trapping = x.trapping := by unfold Ctx.setS; split <;> rfl
@[simp] theorem Ctx.setS_seen (x : Ctx) (n : Nat) (v : Word) : (x.setS n v).seen = x.seen := by unfold Ctx.setS; split <;> rfl
@[simp] theorem Ctx.setS_rnd (x : Ctx) (n : Nat) (v : Word) : (x.setS n v).rnd = x.rnd := by unfold Ctx.setS; split <;> rfl

@[simp] theorem Ctx.setA_bound (x : Ctx) (n : Nat) (v : Word) : (x.setA n v).bound = x.bound := rfl
@[simp] theorem Ctx.setA_bind (x : Ctx) (n : Nat) (v : Word) : (x.setA n v).bind = x.bind := rfl
@[simp] theorem Ctx.setA_xchk (x : Ctx) (n : Nat) (v : Word) : (x.setA n v).xchk = x.xchk := rfl
@[simp] theorem Ctx.setA_trap (x : Ctx) (n : Nat) (v : Word) : (x.setA n v).trap = x.trap := rfl
@[simp] theorem Ctx.setA_probe (x : Ctx) (n : Nat) (v : Word) : (x.setA n v).probe = x.probe := rfl
@[simp] theorem Ctx.setA_eng (x : Ctx) (n : Nat) (v : Word) : (x.setA n v).eng = x.eng := rfl
@[simp] theorem Ctx.setA_pend (x : Ctx) (n : Nat) (v : Word) : (x.setA n v).pend = x.pend := rfl
@[simp] theorem Ctx.setA_board (x : Ctx) (n : Nat) (v : Word) : (x.setA n v).board = x.board := rfl
@[simp] theorem Ctx.setA_streams (x : Ctx) (n : Nat) (v : Word) : (x.setA n v).streams = x.streams := rfl
@[simp] theorem Ctx.setA_map (x : Ctx) (n : Nat) (v : Word) : (x.setA n v).map = x.map := rfl
@[simp] theorem Ctx.setA_ports (x : Ctx) (n : Nat) (v : Word) : (x.setA n v).ports = x.ports := rfl
@[simp] theorem Ctx.setA_freezeAsk (x : Ctx) (n : Nat) (v : Word) : (x.setA n v).freezeAsk = x.freezeAsk := rfl
@[simp] theorem Ctx.setA_freeze (x : Ctx) (n : Nat) (v : Word) : (x.setA n v).freeze = x.freeze := rfl
@[simp] theorem Ctx.setA_freezer (x : Ctx) (n : Nat) (v : Word) : (x.setA n v).freezer = x.freezer := rfl
@[simp] theorem Ctx.setA_yieldAsk (x : Ctx) (n : Nat) (v : Word) : (x.setA n v).yieldAsk = x.yieldAsk := rfl
@[simp] theorem Ctx.setA_yieldTo (x : Ctx) (n : Nat) (v : Word) : (x.setA n v).yieldTo = x.yieldTo := rfl
@[simp] theorem Ctx.setA_issued (x : Ctx) (n : Nat) (v : Word) : (x.setA n v).issued = x.issued := rfl
@[simp] theorem Ctx.setA_since (x : Ctx) (n : Nat) (v : Word) : (x.setA n v).since = x.since := rfl
@[simp] theorem Ctx.setA_asks (x : Ctx) (n : Nat) (v : Word) : (x.setA n v).asks = x.asks := rfl
@[simp] theorem Ctx.setA_swaps (x : Ctx) (n : Nat) (v : Word) : (x.setA n v).swaps = x.swaps := rfl
@[simp] theorem Ctx.setA_trapping (x : Ctx) (n : Nat) (v : Word) : (x.setA n v).trapping = x.trapping := rfl
@[simp] theorem Ctx.setA_seen (x : Ctx) (n : Nat) (v : Word) : (x.setA n v).seen = x.seen := rfl
@[simp] theorem Ctx.setA_rnd (x : Ctx) (n : Nat) (v : Word) : (x.setA n v).rnd = x.rnd := rfl

@[simp] theorem Ctx.setP_bound (x : Ctx) (n : Nat) (v : Bool) : (x.setP n v).bound = x.bound := by unfold Ctx.setP; split <;> rfl
@[simp] theorem Ctx.setP_bind (x : Ctx) (n : Nat) (v : Bool) : (x.setP n v).bind = x.bind := by unfold Ctx.setP; split <;> rfl
@[simp] theorem Ctx.setP_xchk (x : Ctx) (n : Nat) (v : Bool) : (x.setP n v).xchk = x.xchk := by unfold Ctx.setP; split <;> rfl
@[simp] theorem Ctx.setP_trap (x : Ctx) (n : Nat) (v : Bool) : (x.setP n v).trap = x.trap := by unfold Ctx.setP; split <;> rfl
@[simp] theorem Ctx.setP_probe (x : Ctx) (n : Nat) (v : Bool) : (x.setP n v).probe = x.probe := by unfold Ctx.setP; split <;> rfl
@[simp] theorem Ctx.setP_eng (x : Ctx) (n : Nat) (v : Bool) : (x.setP n v).eng = x.eng := by unfold Ctx.setP; split <;> rfl
@[simp] theorem Ctx.setP_pend (x : Ctx) (n : Nat) (v : Bool) : (x.setP n v).pend = x.pend := by unfold Ctx.setP; split <;> rfl
@[simp] theorem Ctx.setP_board (x : Ctx) (n : Nat) (v : Bool) : (x.setP n v).board = x.board := by unfold Ctx.setP; split <;> rfl
@[simp] theorem Ctx.setP_streams (x : Ctx) (n : Nat) (v : Bool) : (x.setP n v).streams = x.streams := by unfold Ctx.setP; split <;> rfl
@[simp] theorem Ctx.setP_map (x : Ctx) (n : Nat) (v : Bool) : (x.setP n v).map = x.map := by unfold Ctx.setP; split <;> rfl
@[simp] theorem Ctx.setP_ports (x : Ctx) (n : Nat) (v : Bool) : (x.setP n v).ports = x.ports := by unfold Ctx.setP; split <;> rfl
@[simp] theorem Ctx.setP_freezeAsk (x : Ctx) (n : Nat) (v : Bool) : (x.setP n v).freezeAsk = x.freezeAsk := by unfold Ctx.setP; split <;> rfl
@[simp] theorem Ctx.setP_freeze (x : Ctx) (n : Nat) (v : Bool) : (x.setP n v).freeze = x.freeze := by unfold Ctx.setP; split <;> rfl
@[simp] theorem Ctx.setP_freezer (x : Ctx) (n : Nat) (v : Bool) : (x.setP n v).freezer = x.freezer := by unfold Ctx.setP; split <;> rfl
@[simp] theorem Ctx.setP_yieldAsk (x : Ctx) (n : Nat) (v : Bool) : (x.setP n v).yieldAsk = x.yieldAsk := by unfold Ctx.setP; split <;> rfl
@[simp] theorem Ctx.setP_yieldTo (x : Ctx) (n : Nat) (v : Bool) : (x.setP n v).yieldTo = x.yieldTo := by unfold Ctx.setP; split <;> rfl
@[simp] theorem Ctx.setP_issued (x : Ctx) (n : Nat) (v : Bool) : (x.setP n v).issued = x.issued := by unfold Ctx.setP; split <;> rfl
@[simp] theorem Ctx.setP_since (x : Ctx) (n : Nat) (v : Bool) : (x.setP n v).since = x.since := by unfold Ctx.setP; split <;> rfl
@[simp] theorem Ctx.setP_asks (x : Ctx) (n : Nat) (v : Bool) : (x.setP n v).asks = x.asks := by unfold Ctx.setP; split <;> rfl
@[simp] theorem Ctx.setP_swaps (x : Ctx) (n : Nat) (v : Bool) : (x.setP n v).swaps = x.swaps := by unfold Ctx.setP; split <;> rfl
@[simp] theorem Ctx.setP_trapping (x : Ctx) (n : Nat) (v : Bool) : (x.setP n v).trapping = x.trapping := by unfold Ctx.setP; split <;> rfl
@[simp] theorem Ctx.setP_seen (x : Ctx) (n : Nat) (v : Bool) : (x.setP n v).seen = x.seen := by unfold Ctx.setP; split <;> rfl
@[simp] theorem Ctx.setP_rnd (x : Ctx) (n : Nat) (v : Bool) : (x.setP n v).rnd = x.rnd := by unfold Ctx.setP; split <;> rfl

@[simp] theorem Ctx.setG_bound (x : Ctx) (n : Nat) (v : Bool) : (x.setG n v).bound = x.bound := rfl
@[simp] theorem Ctx.setG_bind (x : Ctx) (n : Nat) (v : Bool) : (x.setG n v).bind = x.bind := rfl
@[simp] theorem Ctx.setG_xchk (x : Ctx) (n : Nat) (v : Bool) : (x.setG n v).xchk = x.xchk := rfl
@[simp] theorem Ctx.setG_trap (x : Ctx) (n : Nat) (v : Bool) : (x.setG n v).trap = x.trap := rfl
@[simp] theorem Ctx.setG_probe (x : Ctx) (n : Nat) (v : Bool) : (x.setG n v).probe = x.probe := rfl
@[simp] theorem Ctx.setG_eng (x : Ctx) (n : Nat) (v : Bool) : (x.setG n v).eng = x.eng := rfl
@[simp] theorem Ctx.setG_pend (x : Ctx) (n : Nat) (v : Bool) : (x.setG n v).pend = x.pend := rfl
@[simp] theorem Ctx.setG_board (x : Ctx) (n : Nat) (v : Bool) : (x.setG n v).board = x.board := rfl
@[simp] theorem Ctx.setG_streams (x : Ctx) (n : Nat) (v : Bool) : (x.setG n v).streams = x.streams := rfl
@[simp] theorem Ctx.setG_map (x : Ctx) (n : Nat) (v : Bool) : (x.setG n v).map = x.map := rfl
@[simp] theorem Ctx.setG_ports (x : Ctx) (n : Nat) (v : Bool) : (x.setG n v).ports = x.ports := rfl
@[simp] theorem Ctx.setG_freezeAsk (x : Ctx) (n : Nat) (v : Bool) : (x.setG n v).freezeAsk = x.freezeAsk := rfl
@[simp] theorem Ctx.setG_freeze (x : Ctx) (n : Nat) (v : Bool) : (x.setG n v).freeze = x.freeze := rfl
@[simp] theorem Ctx.setG_freezer (x : Ctx) (n : Nat) (v : Bool) : (x.setG n v).freezer = x.freezer := rfl
@[simp] theorem Ctx.setG_yieldAsk (x : Ctx) (n : Nat) (v : Bool) : (x.setG n v).yieldAsk = x.yieldAsk := rfl
@[simp] theorem Ctx.setG_yieldTo (x : Ctx) (n : Nat) (v : Bool) : (x.setG n v).yieldTo = x.yieldTo := rfl
@[simp] theorem Ctx.setG_issued (x : Ctx) (n : Nat) (v : Bool) : (x.setG n v).issued = x.issued := rfl
@[simp] theorem Ctx.setG_since (x : Ctx) (n : Nat) (v : Bool) : (x.setG n v).since = x.since := rfl
@[simp] theorem Ctx.setG_asks (x : Ctx) (n : Nat) (v : Bool) : (x.setG n v).asks = x.asks := rfl
@[simp] theorem Ctx.setG_swaps (x : Ctx) (n : Nat) (v : Bool) : (x.setG n v).swaps = x.swaps := rfl
@[simp] theorem Ctx.setG_trapping (x : Ctx) (n : Nat) (v : Bool) : (x.setG n v).trapping = x.trapping := rfl
@[simp] theorem Ctx.setG_seen (x : Ctx) (n : Nat) (v : Bool) : (x.setG n v).seen = x.seen := rfl
@[simp] theorem Ctx.setG_rnd (x : Ctx) (n : Nat) (v : Bool) : (x.setG n v).rnd = x.rnd := rfl

@[simp] theorem Ctx.setM_bound (x : Ctx) (n : Nat) (v : BitVec 256) : (x.setM n v).bound = x.bound := by unfold Ctx.setM; split <;> rfl
@[simp] theorem Ctx.setM_bind (x : Ctx) (n : Nat) (v : BitVec 256) : (x.setM n v).bind = x.bind := by unfold Ctx.setM; split <;> rfl
@[simp] theorem Ctx.setM_xchk (x : Ctx) (n : Nat) (v : BitVec 256) : (x.setM n v).xchk = x.xchk := by unfold Ctx.setM; split <;> rfl
@[simp] theorem Ctx.setM_trap (x : Ctx) (n : Nat) (v : BitVec 256) : (x.setM n v).trap = x.trap := by unfold Ctx.setM; split <;> rfl
@[simp] theorem Ctx.setM_probe (x : Ctx) (n : Nat) (v : BitVec 256) : (x.setM n v).probe = x.probe := by unfold Ctx.setM; split <;> rfl
@[simp] theorem Ctx.setM_eng (x : Ctx) (n : Nat) (v : BitVec 256) : (x.setM n v).eng = x.eng := by unfold Ctx.setM; split <;> rfl
@[simp] theorem Ctx.setM_pend (x : Ctx) (n : Nat) (v : BitVec 256) : (x.setM n v).pend = x.pend := by unfold Ctx.setM; split <;> rfl
@[simp] theorem Ctx.setM_board (x : Ctx) (n : Nat) (v : BitVec 256) : (x.setM n v).board = x.board := by unfold Ctx.setM; split <;> rfl
@[simp] theorem Ctx.setM_streams (x : Ctx) (n : Nat) (v : BitVec 256) : (x.setM n v).streams = x.streams := by unfold Ctx.setM; split <;> rfl
@[simp] theorem Ctx.setM_map (x : Ctx) (n : Nat) (v : BitVec 256) : (x.setM n v).map = x.map := by unfold Ctx.setM; split <;> rfl
@[simp] theorem Ctx.setM_ports (x : Ctx) (n : Nat) (v : BitVec 256) : (x.setM n v).ports = x.ports := by unfold Ctx.setM; split <;> rfl
@[simp] theorem Ctx.setM_freezeAsk (x : Ctx) (n : Nat) (v : BitVec 256) : (x.setM n v).freezeAsk = x.freezeAsk := by unfold Ctx.setM; split <;> rfl
@[simp] theorem Ctx.setM_freeze (x : Ctx) (n : Nat) (v : BitVec 256) : (x.setM n v).freeze = x.freeze := by unfold Ctx.setM; split <;> rfl
@[simp] theorem Ctx.setM_freezer (x : Ctx) (n : Nat) (v : BitVec 256) : (x.setM n v).freezer = x.freezer := by unfold Ctx.setM; split <;> rfl
@[simp] theorem Ctx.setM_yieldAsk (x : Ctx) (n : Nat) (v : BitVec 256) : (x.setM n v).yieldAsk = x.yieldAsk := by unfold Ctx.setM; split <;> rfl
@[simp] theorem Ctx.setM_yieldTo (x : Ctx) (n : Nat) (v : BitVec 256) : (x.setM n v).yieldTo = x.yieldTo := by unfold Ctx.setM; split <;> rfl
@[simp] theorem Ctx.setM_issued (x : Ctx) (n : Nat) (v : BitVec 256) : (x.setM n v).issued = x.issued := by unfold Ctx.setM; split <;> rfl
@[simp] theorem Ctx.setM_since (x : Ctx) (n : Nat) (v : BitVec 256) : (x.setM n v).since = x.since := by unfold Ctx.setM; split <;> rfl
@[simp] theorem Ctx.setM_asks (x : Ctx) (n : Nat) (v : BitVec 256) : (x.setM n v).asks = x.asks := by unfold Ctx.setM; split <;> rfl
@[simp] theorem Ctx.setM_swaps (x : Ctx) (n : Nat) (v : BitVec 256) : (x.setM n v).swaps = x.swaps := by unfold Ctx.setM; split <;> rfl
@[simp] theorem Ctx.setM_trapping (x : Ctx) (n : Nat) (v : BitVec 256) : (x.setM n v).trapping = x.trapping := by unfold Ctx.setM; split <;> rfl
@[simp] theorem Ctx.setM_seen (x : Ctx) (n : Nat) (v : BitVec 256) : (x.setM n v).seen = x.seen := by unfold Ctx.setM; split <;> rfl
@[simp] theorem Ctx.setM_rnd (x : Ctx) (n : Nat) (v : BitVec 256) : (x.setM n v).rnd = x.rnd := by unfold Ctx.setM; split <;> rfl

@[simp] theorem Ctx.setRow_bound (x : Ctx) (n : Nat) (v : Row) : (x.setRow n v).bound = x.bound := rfl
@[simp] theorem Ctx.setRow_bind (x : Ctx) (n : Nat) (v : Row) : (x.setRow n v).bind = x.bind := rfl
@[simp] theorem Ctx.setRow_xchk (x : Ctx) (n : Nat) (v : Row) : (x.setRow n v).xchk = x.xchk := rfl
@[simp] theorem Ctx.setRow_trap (x : Ctx) (n : Nat) (v : Row) : (x.setRow n v).trap = x.trap := rfl
@[simp] theorem Ctx.setRow_probe (x : Ctx) (n : Nat) (v : Row) : (x.setRow n v).probe = x.probe := rfl
@[simp] theorem Ctx.setRow_eng (x : Ctx) (n : Nat) (v : Row) : (x.setRow n v).eng = x.eng := rfl
@[simp] theorem Ctx.setRow_pend (x : Ctx) (n : Nat) (v : Row) : (x.setRow n v).pend = x.pend := rfl
@[simp] theorem Ctx.setRow_board (x : Ctx) (n : Nat) (v : Row) : (x.setRow n v).board = x.board := rfl
@[simp] theorem Ctx.setRow_streams (x : Ctx) (n : Nat) (v : Row) : (x.setRow n v).streams = x.streams := rfl
@[simp] theorem Ctx.setRow_map (x : Ctx) (n : Nat) (v : Row) : (x.setRow n v).map = x.map := rfl
@[simp] theorem Ctx.setRow_ports (x : Ctx) (n : Nat) (v : Row) : (x.setRow n v).ports = x.ports := rfl
@[simp] theorem Ctx.setRow_freezeAsk (x : Ctx) (n : Nat) (v : Row) : (x.setRow n v).freezeAsk = x.freezeAsk := rfl
@[simp] theorem Ctx.setRow_freeze (x : Ctx) (n : Nat) (v : Row) : (x.setRow n v).freeze = x.freeze := rfl
@[simp] theorem Ctx.setRow_freezer (x : Ctx) (n : Nat) (v : Row) : (x.setRow n v).freezer = x.freezer := rfl
@[simp] theorem Ctx.setRow_yieldAsk (x : Ctx) (n : Nat) (v : Row) : (x.setRow n v).yieldAsk = x.yieldAsk := rfl
@[simp] theorem Ctx.setRow_yieldTo (x : Ctx) (n : Nat) (v : Row) : (x.setRow n v).yieldTo = x.yieldTo := rfl
@[simp] theorem Ctx.setRow_issued (x : Ctx) (n : Nat) (v : Row) : (x.setRow n v).issued = x.issued := rfl
@[simp] theorem Ctx.setRow_since (x : Ctx) (n : Nat) (v : Row) : (x.setRow n v).since = x.since := rfl
@[simp] theorem Ctx.setRow_asks (x : Ctx) (n : Nat) (v : Row) : (x.setRow n v).asks = x.asks := rfl
@[simp] theorem Ctx.setRow_swaps (x : Ctx) (n : Nat) (v : Row) : (x.setRow n v).swaps = x.swaps := rfl
@[simp] theorem Ctx.setRow_trapping (x : Ctx) (n : Nat) (v : Row) : (x.setRow n v).trapping = x.trapping := rfl
@[simp] theorem Ctx.setRow_seen (x : Ctx) (n : Nat) (v : Row) : (x.setRow n v).seen = x.seen := rfl
@[simp] theorem Ctx.setRow_rnd (x : Ctx) (n : Nat) (v : Row) : (x.setRow n v).rnd = x.rnd := rfl

@[simp] theorem Ctx.setOper_bound (x : Ctx) (n : Nat) (v : Row) : (x.setOper n v).bound = x.bound := rfl
@[simp] theorem Ctx.setOper_bind (x : Ctx) (n : Nat) (v : Row) : (x.setOper n v).bind = x.bind := rfl
@[simp] theorem Ctx.setOper_xchk (x : Ctx) (n : Nat) (v : Row) : (x.setOper n v).xchk = x.xchk := rfl
@[simp] theorem Ctx.setOper_trap (x : Ctx) (n : Nat) (v : Row) : (x.setOper n v).trap = x.trap := rfl
@[simp] theorem Ctx.setOper_probe (x : Ctx) (n : Nat) (v : Row) : (x.setOper n v).probe = x.probe := rfl
@[simp] theorem Ctx.setOper_eng (x : Ctx) (n : Nat) (v : Row) : (x.setOper n v).eng = x.eng := rfl
@[simp] theorem Ctx.setOper_pend (x : Ctx) (n : Nat) (v : Row) : (x.setOper n v).pend = x.pend := rfl
@[simp] theorem Ctx.setOper_board (x : Ctx) (n : Nat) (v : Row) : (x.setOper n v).board = x.board := rfl
@[simp] theorem Ctx.setOper_streams (x : Ctx) (n : Nat) (v : Row) : (x.setOper n v).streams = x.streams := rfl
@[simp] theorem Ctx.setOper_map (x : Ctx) (n : Nat) (v : Row) : (x.setOper n v).map = x.map := rfl
@[simp] theorem Ctx.setOper_ports (x : Ctx) (n : Nat) (v : Row) : (x.setOper n v).ports = x.ports := rfl
@[simp] theorem Ctx.setOper_freezeAsk (x : Ctx) (n : Nat) (v : Row) : (x.setOper n v).freezeAsk = x.freezeAsk := rfl
@[simp] theorem Ctx.setOper_freeze (x : Ctx) (n : Nat) (v : Row) : (x.setOper n v).freeze = x.freeze := rfl
@[simp] theorem Ctx.setOper_freezer (x : Ctx) (n : Nat) (v : Row) : (x.setOper n v).freezer = x.freezer := rfl
@[simp] theorem Ctx.setOper_yieldAsk (x : Ctx) (n : Nat) (v : Row) : (x.setOper n v).yieldAsk = x.yieldAsk := rfl
@[simp] theorem Ctx.setOper_yieldTo (x : Ctx) (n : Nat) (v : Row) : (x.setOper n v).yieldTo = x.yieldTo := rfl
@[simp] theorem Ctx.setOper_issued (x : Ctx) (n : Nat) (v : Row) : (x.setOper n v).issued = x.issued := rfl
@[simp] theorem Ctx.setOper_since (x : Ctx) (n : Nat) (v : Row) : (x.setOper n v).since = x.since := rfl
@[simp] theorem Ctx.setOper_asks (x : Ctx) (n : Nat) (v : Row) : (x.setOper n v).asks = x.asks := rfl
@[simp] theorem Ctx.setOper_swaps (x : Ctx) (n : Nat) (v : Row) : (x.setOper n v).swaps = x.swaps := rfl
@[simp] theorem Ctx.setOper_trapping (x : Ctx) (n : Nat) (v : Row) : (x.setOper n v).trapping = x.trapping := rfl
@[simp] theorem Ctx.setOper_seen (x : Ctx) (n : Nat) (v : Row) : (x.setOper n v).seen = x.seen := rfl
@[simp] theorem Ctx.setOper_rnd (x : Ctx) (n : Nat) (v : Row) : (x.setOper n v).rnd = x.rnd := rfl

@[simp] theorem Ctx.setType_bound (x : Ctx) (n : Nat) (v : Tag) : (x.setType n v).bound = x.bound := rfl
@[simp] theorem Ctx.setType_bind (x : Ctx) (n : Nat) (v : Tag) : (x.setType n v).bind = x.bind := rfl
@[simp] theorem Ctx.setType_xchk (x : Ctx) (n : Nat) (v : Tag) : (x.setType n v).xchk = x.xchk := rfl
@[simp] theorem Ctx.setType_trap (x : Ctx) (n : Nat) (v : Tag) : (x.setType n v).trap = x.trap := rfl
@[simp] theorem Ctx.setType_probe (x : Ctx) (n : Nat) (v : Tag) : (x.setType n v).probe = x.probe := rfl
@[simp] theorem Ctx.setType_eng (x : Ctx) (n : Nat) (v : Tag) : (x.setType n v).eng = x.eng := rfl
@[simp] theorem Ctx.setType_pend (x : Ctx) (n : Nat) (v : Tag) : (x.setType n v).pend = x.pend := rfl
@[simp] theorem Ctx.setType_board (x : Ctx) (n : Nat) (v : Tag) : (x.setType n v).board = x.board := rfl
@[simp] theorem Ctx.setType_streams (x : Ctx) (n : Nat) (v : Tag) : (x.setType n v).streams = x.streams := rfl
@[simp] theorem Ctx.setType_map (x : Ctx) (n : Nat) (v : Tag) : (x.setType n v).map = x.map := rfl
@[simp] theorem Ctx.setType_ports (x : Ctx) (n : Nat) (v : Tag) : (x.setType n v).ports = x.ports := rfl
@[simp] theorem Ctx.setType_freezeAsk (x : Ctx) (n : Nat) (v : Tag) : (x.setType n v).freezeAsk = x.freezeAsk := rfl
@[simp] theorem Ctx.setType_freeze (x : Ctx) (n : Nat) (v : Tag) : (x.setType n v).freeze = x.freeze := rfl
@[simp] theorem Ctx.setType_freezer (x : Ctx) (n : Nat) (v : Tag) : (x.setType n v).freezer = x.freezer := rfl
@[simp] theorem Ctx.setType_yieldAsk (x : Ctx) (n : Nat) (v : Tag) : (x.setType n v).yieldAsk = x.yieldAsk := rfl
@[simp] theorem Ctx.setType_yieldTo (x : Ctx) (n : Nat) (v : Tag) : (x.setType n v).yieldTo = x.yieldTo := rfl
@[simp] theorem Ctx.setType_issued (x : Ctx) (n : Nat) (v : Tag) : (x.setType n v).issued = x.issued := rfl
@[simp] theorem Ctx.setType_since (x : Ctx) (n : Nat) (v : Tag) : (x.setType n v).since = x.since := rfl
@[simp] theorem Ctx.setType_asks (x : Ctx) (n : Nat) (v : Tag) : (x.setType n v).asks = x.asks := rfl
@[simp] theorem Ctx.setType_swaps (x : Ctx) (n : Nat) (v : Tag) : (x.setType n v).swaps = x.swaps := rfl
@[simp] theorem Ctx.setType_trapping (x : Ctx) (n : Nat) (v : Tag) : (x.setType n v).trapping = x.trapping := rfl
@[simp] theorem Ctx.setType_seen (x : Ctx) (n : Nat) (v : Tag) : (x.setType n v).seen = x.seen := rfl
@[simp] theorem Ctx.setType_rnd (x : Ctx) (n : Nat) (v : Tag) : (x.setType n v).rnd = x.rnd := rfl

@[simp] theorem Ctx.indicate_bound (x : Ctx) (i : Ind) : (x.indicate i).bound = x.bound := rfl
@[simp] theorem Ctx.indicate_bind (x : Ctx) (i : Ind) : (x.indicate i).bind = x.bind := rfl
@[simp] theorem Ctx.indicate_xchk (x : Ctx) (i : Ind) : (x.indicate i).xchk = x.xchk := rfl
@[simp] theorem Ctx.indicate_trap (x : Ctx) (i : Ind) : (x.indicate i).trap = x.trap := rfl
@[simp] theorem Ctx.indicate_probe (x : Ctx) (i : Ind) : (x.indicate i).probe = x.probe := rfl
@[simp] theorem Ctx.indicate_eng (x : Ctx) (i : Ind) : (x.indicate i).eng = x.eng := rfl
@[simp] theorem Ctx.indicate_pend (x : Ctx) (i : Ind) : (x.indicate i).pend = x.pend := rfl
@[simp] theorem Ctx.indicate_board (x : Ctx) (i : Ind) : (x.indicate i).board = x.board := rfl
@[simp] theorem Ctx.indicate_streams (x : Ctx) (i : Ind) : (x.indicate i).streams = x.streams := rfl
@[simp] theorem Ctx.indicate_map (x : Ctx) (i : Ind) : (x.indicate i).map = x.map := rfl
@[simp] theorem Ctx.indicate_ports (x : Ctx) (i : Ind) : (x.indicate i).ports = x.ports := rfl
@[simp] theorem Ctx.indicate_freezeAsk (x : Ctx) (i : Ind) : (x.indicate i).freezeAsk = x.freezeAsk := rfl
@[simp] theorem Ctx.indicate_freeze (x : Ctx) (i : Ind) : (x.indicate i).freeze = x.freeze := rfl
@[simp] theorem Ctx.indicate_freezer (x : Ctx) (i : Ind) : (x.indicate i).freezer = x.freezer := rfl
@[simp] theorem Ctx.indicate_yieldAsk (x : Ctx) (i : Ind) : (x.indicate i).yieldAsk = x.yieldAsk := rfl
@[simp] theorem Ctx.indicate_yieldTo (x : Ctx) (i : Ind) : (x.indicate i).yieldTo = x.yieldTo := rfl
@[simp] theorem Ctx.indicate_issued (x : Ctx) (i : Ind) : (x.indicate i).issued = x.issued := rfl
@[simp] theorem Ctx.indicate_since (x : Ctx) (i : Ind) : (x.indicate i).since = x.since := rfl
@[simp] theorem Ctx.indicate_asks (x : Ctx) (i : Ind) : (x.indicate i).asks = x.asks := rfl
@[simp] theorem Ctx.indicate_swaps (x : Ctx) (i : Ind) : (x.indicate i).swaps = x.swaps := rfl
@[simp] theorem Ctx.indicate_trapping (x : Ctx) (i : Ind) : (x.indicate i).trapping = x.trapping := rfl
@[simp] theorem Ctx.indicate_seen (x : Ctx) (i : Ind) : (x.indicate i).seen = x.seen := rfl
@[simp] theorem Ctx.indicate_rnd (x : Ctx) (i : Ind) : (x.indicate i).rnd = x.rnd := rfl

@[simp] theorem Ctx.onStream_bound (x : Ctx) (g : Nat) (f : Stream → Stream) : (x.onStream g f).bound = x.bound := rfl
@[simp] theorem Ctx.onStream_bind (x : Ctx) (g : Nat) (f : Stream → Stream) : (x.onStream g f).bind = x.bind := rfl
@[simp] theorem Ctx.onStream_xchk (x : Ctx) (g : Nat) (f : Stream → Stream) : (x.onStream g f).xchk = x.xchk := rfl
@[simp] theorem Ctx.onStream_regs (x : Ctx) (g : Nat) (f : Stream → Stream) : (x.onStream g f).regs = x.regs := rfl
@[simp] theorem Ctx.onStream_trap (x : Ctx) (g : Nat) (f : Stream → Stream) : (x.onStream g f).trap = x.trap := rfl
@[simp] theorem Ctx.onStream_probe (x : Ctx) (g : Nat) (f : Stream → Stream) : (x.onStream g f).probe = x.probe := rfl
@[simp] theorem Ctx.onStream_eng (x : Ctx) (g : Nat) (f : Stream → Stream) : (x.onStream g f).eng = x.eng := rfl
@[simp] theorem Ctx.onStream_pend (x : Ctx) (g : Nat) (f : Stream → Stream) : (x.onStream g f).pend = x.pend := rfl
@[simp] theorem Ctx.onStream_board (x : Ctx) (g : Nat) (f : Stream → Stream) : (x.onStream g f).board = x.board := rfl
@[simp] theorem Ctx.onStream_map (x : Ctx) (g : Nat) (f : Stream → Stream) : (x.onStream g f).map = x.map := rfl
@[simp] theorem Ctx.onStream_ports (x : Ctx) (g : Nat) (f : Stream → Stream) : (x.onStream g f).ports = x.ports := rfl
@[simp] theorem Ctx.onStream_freezeAsk (x : Ctx) (g : Nat) (f : Stream → Stream) : (x.onStream g f).freezeAsk = x.freezeAsk := rfl
@[simp] theorem Ctx.onStream_freeze (x : Ctx) (g : Nat) (f : Stream → Stream) : (x.onStream g f).freeze = x.freeze := rfl
@[simp] theorem Ctx.onStream_freezer (x : Ctx) (g : Nat) (f : Stream → Stream) : (x.onStream g f).freezer = x.freezer := rfl
@[simp] theorem Ctx.onStream_yieldAsk (x : Ctx) (g : Nat) (f : Stream → Stream) : (x.onStream g f).yieldAsk = x.yieldAsk := rfl
@[simp] theorem Ctx.onStream_yieldTo (x : Ctx) (g : Nat) (f : Stream → Stream) : (x.onStream g f).yieldTo = x.yieldTo := rfl
@[simp] theorem Ctx.onStream_issued (x : Ctx) (g : Nat) (f : Stream → Stream) : (x.onStream g f).issued = x.issued := rfl
@[simp] theorem Ctx.onStream_since (x : Ctx) (g : Nat) (f : Stream → Stream) : (x.onStream g f).since = x.since := rfl
@[simp] theorem Ctx.onStream_asks (x : Ctx) (g : Nat) (f : Stream → Stream) : (x.onStream g f).asks = x.asks := rfl
@[simp] theorem Ctx.onStream_swaps (x : Ctx) (g : Nat) (f : Stream → Stream) : (x.onStream g f).swaps = x.swaps := rfl
@[simp] theorem Ctx.onStream_trapping (x : Ctx) (g : Nat) (f : Stream → Stream) : (x.onStream g f).trapping = x.trapping := rfl
@[simp] theorem Ctx.onStream_seen (x : Ctx) (g : Nat) (f : Stream → Stream) : (x.onStream g f).seen = x.seen := rfl
@[simp] theorem Ctx.onStream_rnd (x : Ctx) (g : Nat) (f : Stream → Stream) : (x.onStream g f).rnd = x.rnd := rfl

@[simp] theorem Ctx.onTimeline_bound (x : Ctx) (tl : Nat) (f : Timeline → Timeline) : (x.onTimeline tl f).bound = x.bound := rfl
@[simp] theorem Ctx.onTimeline_bind (x : Ctx) (tl : Nat) (f : Timeline → Timeline) : (x.onTimeline tl f).bind = x.bind := rfl
@[simp] theorem Ctx.onTimeline_xchk (x : Ctx) (tl : Nat) (f : Timeline → Timeline) : (x.onTimeline tl f).xchk = x.xchk := rfl
@[simp] theorem Ctx.onTimeline_regs (x : Ctx) (tl : Nat) (f : Timeline → Timeline) : (x.onTimeline tl f).regs = x.regs := rfl
@[simp] theorem Ctx.onTimeline_trap (x : Ctx) (tl : Nat) (f : Timeline → Timeline) : (x.onTimeline tl f).trap = x.trap := rfl
@[simp] theorem Ctx.onTimeline_probe (x : Ctx) (tl : Nat) (f : Timeline → Timeline) : (x.onTimeline tl f).probe = x.probe := rfl
@[simp] theorem Ctx.onTimeline_pend (x : Ctx) (tl : Nat) (f : Timeline → Timeline) : (x.onTimeline tl f).pend = x.pend := rfl
@[simp] theorem Ctx.onTimeline_board (x : Ctx) (tl : Nat) (f : Timeline → Timeline) : (x.onTimeline tl f).board = x.board := rfl
@[simp] theorem Ctx.onTimeline_streams (x : Ctx) (tl : Nat) (f : Timeline → Timeline) : (x.onTimeline tl f).streams = x.streams := rfl
@[simp] theorem Ctx.onTimeline_map (x : Ctx) (tl : Nat) (f : Timeline → Timeline) : (x.onTimeline tl f).map = x.map := rfl
@[simp] theorem Ctx.onTimeline_ports (x : Ctx) (tl : Nat) (f : Timeline → Timeline) : (x.onTimeline tl f).ports = x.ports := rfl
@[simp] theorem Ctx.onTimeline_freezeAsk (x : Ctx) (tl : Nat) (f : Timeline → Timeline) : (x.onTimeline tl f).freezeAsk = x.freezeAsk := rfl
@[simp] theorem Ctx.onTimeline_freeze (x : Ctx) (tl : Nat) (f : Timeline → Timeline) : (x.onTimeline tl f).freeze = x.freeze := rfl
@[simp] theorem Ctx.onTimeline_freezer (x : Ctx) (tl : Nat) (f : Timeline → Timeline) : (x.onTimeline tl f).freezer = x.freezer := rfl
@[simp] theorem Ctx.onTimeline_yieldAsk (x : Ctx) (tl : Nat) (f : Timeline → Timeline) : (x.onTimeline tl f).yieldAsk = x.yieldAsk := rfl
@[simp] theorem Ctx.onTimeline_yieldTo (x : Ctx) (tl : Nat) (f : Timeline → Timeline) : (x.onTimeline tl f).yieldTo = x.yieldTo := rfl
@[simp] theorem Ctx.onTimeline_issued (x : Ctx) (tl : Nat) (f : Timeline → Timeline) : (x.onTimeline tl f).issued = x.issued := rfl
@[simp] theorem Ctx.onTimeline_since (x : Ctx) (tl : Nat) (f : Timeline → Timeline) : (x.onTimeline tl f).since = x.since := rfl
@[simp] theorem Ctx.onTimeline_asks (x : Ctx) (tl : Nat) (f : Timeline → Timeline) : (x.onTimeline tl f).asks = x.asks := rfl
@[simp] theorem Ctx.onTimeline_swaps (x : Ctx) (tl : Nat) (f : Timeline → Timeline) : (x.onTimeline tl f).swaps = x.swaps := rfl
@[simp] theorem Ctx.onTimeline_trapping (x : Ctx) (tl : Nat) (f : Timeline → Timeline) : (x.onTimeline tl f).trapping = x.trapping := rfl
@[simp] theorem Ctx.onTimeline_seen (x : Ctx) (tl : Nat) (f : Timeline → Timeline) : (x.onTimeline tl f).seen = x.seen := rfl
@[simp] theorem Ctx.onTimeline_rnd (x : Ctx) (tl : Nat) (f : Timeline → Timeline) : (x.onTimeline tl f).rnd = x.rnd := rfl

@[simp] theorem Ctx.charge_bound (x : Ctx) (n : Nat) : (x.charge n).bound = x.bound := rfl
@[simp] theorem Ctx.charge_bind (x : Ctx) (n : Nat) : (x.charge n).bind = x.bind := rfl
@[simp] theorem Ctx.charge_xchk (x : Ctx) (n : Nat) : (x.charge n).xchk = x.xchk := rfl
@[simp] theorem Ctx.charge_trap (x : Ctx) (n : Nat) : (x.charge n).trap = x.trap := rfl
@[simp] theorem Ctx.charge_probe (x : Ctx) (n : Nat) : (x.charge n).probe = x.probe := rfl
@[simp] theorem Ctx.charge_eng (x : Ctx) (n : Nat) : (x.charge n).eng = x.eng := rfl
@[simp] theorem Ctx.charge_pend (x : Ctx) (n : Nat) : (x.charge n).pend = x.pend := rfl
@[simp] theorem Ctx.charge_board (x : Ctx) (n : Nat) : (x.charge n).board = x.board := rfl
@[simp] theorem Ctx.charge_streams (x : Ctx) (n : Nat) : (x.charge n).streams = x.streams := rfl
@[simp] theorem Ctx.charge_map (x : Ctx) (n : Nat) : (x.charge n).map = x.map := rfl
@[simp] theorem Ctx.charge_ports (x : Ctx) (n : Nat) : (x.charge n).ports = x.ports := rfl
@[simp] theorem Ctx.charge_freezeAsk (x : Ctx) (n : Nat) : (x.charge n).freezeAsk = x.freezeAsk := rfl
@[simp] theorem Ctx.charge_freeze (x : Ctx) (n : Nat) : (x.charge n).freeze = x.freeze := rfl
@[simp] theorem Ctx.charge_freezer (x : Ctx) (n : Nat) : (x.charge n).freezer = x.freezer := rfl
@[simp] theorem Ctx.charge_yieldAsk (x : Ctx) (n : Nat) : (x.charge n).yieldAsk = x.yieldAsk := rfl
@[simp] theorem Ctx.charge_yieldTo (x : Ctx) (n : Nat) : (x.charge n).yieldTo = x.yieldTo := rfl
@[simp] theorem Ctx.charge_issued (x : Ctx) (n : Nat) : (x.charge n).issued = x.issued := rfl
@[simp] theorem Ctx.charge_since (x : Ctx) (n : Nat) : (x.charge n).since = x.since := rfl
@[simp] theorem Ctx.charge_asks (x : Ctx) (n : Nat) : (x.charge n).asks = x.asks := rfl
@[simp] theorem Ctx.charge_swaps (x : Ctx) (n : Nat) : (x.charge n).swaps = x.swaps := rfl
@[simp] theorem Ctx.charge_trapping (x : Ctx) (n : Nat) : (x.charge n).trapping = x.trapping := rfl
@[simp] theorem Ctx.charge_seen (x : Ctx) (n : Nat) : (x.charge n).seen = x.seen := rfl
@[simp] theorem Ctx.charge_rnd (x : Ctx) (n : Nat) : (x.charge n).rnd = x.rnd := rfl

end Sys2Proof.Machine
end

