-- ==== Sys2Proof/Laws/Ops.lean ====
section
/-!
SUPPORT. What the operations on registers and results can do: reads of registers after writes, results put in
flight, the end of a syllable.
-/

namespace Sys2Proof.Machine

/-! Registers (R37, R152). -/

@[simp] theorem Ctx.s_zero (x : Ctx) : x.s 0 = 0 := rfl
@[simp] theorem Ctx.p_zero (x : Ctx) : x.p 0 = true := rfl
@[simp] theorem Ctx.m_zero (x : Ctx) : x.m 0 = BitVec.allOnes 256 := rfl
@[simp] theorem Ctx.setS_zero (x : Ctx) (v : Word) : x.setS 0 v = x := rfl
@[simp] theorem Ctx.setP_zero (x : Ctx) (v : Bool) : x.setP 0 v = x := rfl
@[simp] theorem Ctx.setM_zero (x : Ctx) (v : BitVec 256) : x.setM 0 v = x := rfl

theorem Ctx.s_setS (x : Ctx) (n j : Nat) (v : Word) :
    (x.setS n v).s j = if j = n ∧ n ≠ 0 then v else x.s j := by
  unfold Ctx.setS Ctx.s
  by_cases hn : n = 0
  · simp [hn]
  · by_cases hj : j = 0
    · subst hj; simp [hn, Ne.symm hn]
    · simp [hn, hj, tab_get_set]

theorem Ctx.a_setA (x : Ctx) (n j : Nat) (v : Word) : (x.setA n v).a j = if j = n then v else x.a j := by
  simp [Ctx.setA, Ctx.a, tab_get_set]

theorem Ctx.m_setM (x : Ctx) (n j : Nat) (v : BitVec 256) :
    (x.setM n v).m j = if j = n ∧ n ≠ 0 then v else x.m j := by
  unfold Ctx.setM Ctx.m
  by_cases hn : n = 0
  · simp [hn]
  · by_cases hj : j = 0
    · subst hj; simp [hn, Ne.symm hn]
    · simp [hn, hj, tab_get_set]

theorem Ctx.row_setRow (x : Ctx) (n j : Nat) (v : Row) : (x.setRow n v).row j = if j = n then v else x.row j := by
  simp [Ctx.setRow, Ctx.row, tab_get_set]

theorem Ctx.oper_setOper (x : Ctx) (n j : Nat) (v : Row) :
    (x.setOper n v).oper j = if j = n then v else x.oper j := by
  simp [Ctx.setOper, Ctx.oper, tab_get_set]

theorem Ctx.tileType_setType (x : Ctx) (n j : Nat) (v : Tag) :
    (x.setType n v).tileType j = if j = n then v else x.tileType j := by
  simp [Ctx.setType, Ctx.tileType, tab_get_set]

@[simp] theorem Ctx.a_setS (x : Ctx) (n j : Nat) (v : Word) : (x.setS n v).a j = x.a j := by
  unfold Ctx.setS; split <;> rfl
@[simp] theorem Ctx.p_setS (x : Ctx) (n j : Nat) (v : Word) : (x.setS n v).p j = x.p j := by
  unfold Ctx.setS; split <;> rfl
@[simp] theorem Ctx.g_setS (x : Ctx) (n j : Nat) (v : Word) : (x.setS n v).g j = x.g j := by
  unfold Ctx.setS; split <;> rfl
@[simp] theorem Ctx.m_setS (x : Ctx) (n j : Nat) (v : Word) : (x.setS n v).m j = x.m j := by
  unfold Ctx.setS; split <;> rfl
@[simp] theorem Ctx.row_setS (x : Ctx) (n j : Nat) (v : Word) : (x.setS n v).row j = x.row j := by
  unfold Ctx.setS; split <;> rfl
@[simp] theorem Ctx.s_setA (x : Ctx) (n j : Nat) (v : Word) : (x.setA n v).s j = x.s j := rfl
@[simp] theorem Ctx.p_setA (x : Ctx) (n j : Nat) (v : Word) : (x.setA n v).p j = x.p j := rfl
@[simp] theorem Ctx.s_indicate (x : Ctx) (n : Nat) (i : Ind) : (x.indicate i).s n = x.s n := rfl
@[simp] theorem Ctx.a_indicate (x : Ctx) (n : Nat) (i : Ind) : (x.indicate i).a n = x.a n := rfl
@[simp] theorem Ctx.p_indicate (x : Ctx) (n : Nat) (i : Ind) : (x.indicate i).p n = x.p n := rfl
@[simp] theorem Ctx.row_indicate (x : Ctx) (n : Nat) (i : Ind) : (x.indicate i).row n = x.row n := rfl

theorem Ctx.g_setG (x : Ctx) (n j : Nat) (v : Bool) (hn : n < 16) (hj : j < 16) :
    (x.setG n v).g j = if j = n then v else x.g j := by
  have hp : (BitVec.ofNat 16 (2 ^ n)).getLsbD j = decide (j = n) := by
    rw [BitVec.getLsbD_ofNat, Nat.testBit_two_pow]
    by_cases h : n = j <;> simp [h, hj, Ne.symm]
  unfold Ctx.setG Ctx.g
  cases v <;> by_cases h : j = n <;>
    simp_all

theorem Ctx.p_setP (x : Ctx) (n j : Nat) (v : Bool) (hn : n < 32) (hj : j < 32) :
    (x.setP n v).p j = if j = n ∧ n ≠ 0 then v else x.p j := by
  have hp : (BitVec.ofNat 32 (2 ^ n)).getLsbD j = decide (j = n) := by
    rw [BitVec.getLsbD_ofNat, Nat.testBit_two_pow]
    by_cases h : n = j <;> simp [h, hj, Ne.symm]
  unfold Ctx.setP Ctx.p
  by_cases h0 : n = 0
  · simp [h0]
  · cases v <;> by_cases h : j = n <;>
      simp_all

/-! The issuing context after an update of it. -/

@[simp] theorem State.cx_up (s : State) (f : Ctx → Ctx) : (s.up f).cx = f s.cx := by simp [State.cx, State.up]

theorem State.ctx_up_other (s : State) (f : Ctx → Ctx) {c : Nat} (h : c ≠ s.me) : (s.up f).ctx c = s.ctx c :=
  State.ctx_onCtx_other s f h

/-- What an exposed result does: one entry more in flight, and nothing else (R43). -/
theorem State.cx_expose (s : State) (n : Nat) (d : Dest) (v : Nat) (t : Tag) (m : BitVec 256) (l : Bool) (i : Ind) :
    (s.expose n d v t m l i).cx = { s.cx with pend := s.cx.pend ++
      [{ due := s.cycle + n, dest := d, data := v, tag := t, mask := m, latch := l, ind := i, group := s.grp,
         slot := s.slot, issued := s.cycle }] } := by
  simp [State.expose]

theorem State.ctx_expose_other (s : State) (n : Nat) (d : Dest) (v : Nat) (t : Tag) (m : BitVec 256) (l : Bool)
    (i : Ind) {c : Nat} (h : c ≠ s.me) : (s.expose n d v t m l i).ctx c = s.ctx c :=
  State.ctx_up_other s _ h

/-- What a scoreboarded result does: one entry more on the scoreboard, none for s0 (R39, R46). -/
theorem State.cx_promise (s : State) (n : Nat) (d : Dest) (v : Nat) (h : d ≠ .scalar 0) :
    (s.promise n d v).cx = { s.cx with board := s.cx.board ++
      [{ dest := d, due := s.cycle + n, value := some v, issued := s.cycle }] } := by
  unfold State.promise
  split
  · contradiction
  · simp

@[simp] theorem State.promise_zero (s : State) (n v : Nat) : s.promise n (.scalar 0) v = s := rfl
@[simp] theorem State.await_zero (s : State) : s.await (.scalar 0) = s := rfl

/-! Requests for chunks, and the random-row queue. -/

/-- A request joins the walk and takes nothing out of it. -/
theorem mem_askTurn (c : Nat) (t u : Turn) (l : List Turn) : u ∈ askTurn c t l ↔ u = t ∨ u ∈ l := by
  induction l with
  | nil => simp [askTurn]
  | cons v r ih =>
    simp only [askTurn]
    split
    · split
      · simp
      · simp only [List.mem_cons, ih]; exact or_left_comm
    · simp only [List.mem_cons, ih]; exact or_left_comm

/-- A pop of `rnd` waits while no row is filled, and else takes one row and moves the counter on. -/
theorem Ctx.popRnd_eq (x : Ctx) (now : Nat) : x.popRnd now =
    if x.rnd.rows + (now - x.rnd.upto) = 0 then none
    else some { x with rnd := ⟨min (x.rnd.rows + (now - x.rnd.upto) - 1) (Config.rndDepth + 5), now⟩
                       regs := { x.regs with rngC := x.regs.rngC + 16 } } := by
  unfold Ctx.popRnd
  split <;> simp_all

/-! How a syllable ends. -/

@[simp] theorem State.finish_ok (s t : State) : s.finish (.ok t) = .next t := rfl
@[simp] theorem State.finish_trap (s : State) (t : Trap) : s.finish (.error (.trap t)) = .next (s.takeTrap t) := rfl
@[simp] theorem State.finish_hold (s : State) (h : Hold) : s.finish (.error (.hold h)) = .next (s.hold h) := rfl

/-- A syllable always answers a next state. -/
theorem State.finish_next (s : State) (r : Except Stop State) : ∃ t, s.finish r = .next t := by
  rcases r with (e | e) | t
  · exact ⟨_, rfl⟩
  · exact ⟨_, rfl⟩
  · exact ⟨_, rfl⟩

@[simp] theorem check_false (b : Prop) [Decidable b] (e : Stop) (h : ¬b) : check b e = .ok () := if_neg h
@[simp] theorem check_true (b : Prop) [Decidable b] (e : Stop) (h : b) : check b e = .error e := if_pos h

end Sys2Proof.Machine
end

