-- ==== Sys2Proof/Laws/Access.lean ====
section
/-!
SUPPORT. What the shared operations of the access slot do: the access checks, loads, stores, atomics and flags, when
they pass and when `Translate` fails.
-/

namespace Sys2Proof.Machine

theorem access_ok {s : State} {a : Word} {n cls : Nat} {acc : Acc} {ks : List Nat}
    (hs : s.storesBefore (2 ^ cls) = false) (ht : translate s s.who a n acc = .ok ks)
    (hr : acc ≠ .write → acc ≠ .writeWord → ks.any (keyBad s) = false)
    (hw : acc = .write ∨ acc = .writeWord → keysReady s ks = true) :
    s.access a n cls acc = .ok ks := by
  unfold State.access State.afterStores
  rw [hs, ht]
  cases acc <;> first
    | (have h := hr (by simp) (by simp); simp only [h, check, State.mem?, bind, Except.bind]; rfl)
    | (have h := hw (by simp); simp [h, check, State.mem?, bind, Except.bind])

theorem access_error {s : State} {a : Word} {n cls : Nat} {acc : Acc} {f : MFault}
    (hs : s.storesBefore (2 ^ cls) = false) (ht : translate s s.who a n acc = .error f) :
    s.access a n cls acc = .error (s.mfault f) := by
  unfold State.access State.afterStores
  rw [hs, ht]; rfl

theorem loadInto_ok {s : State} {sd : SReg} {aa : AReg} {cls : Class} {off : BitVec 27} {n : Nat} {sign al : Bool}
    {ks : List Nat} (h : Passes s (effective s aa off) n cls.toNat (if al then .readWord else .read) true false ks) :
    loadInto s sd aa cls off n sign al = .next (s.promise (s.latencyOf ks) (.scalar sd.toNat)
      (if sign then wrapBits (signed (s.peek ks) (8 * n)) 64 else s.peek ks)) := by
  obtain ⟨h1, h2, h3, h5, h4⟩ := h
  unfold loadInto
  dsimp only
  rw [access_ok h1 h2 (fun _ _ => h3 rfl) (by cases al <;> simp)]
  simp [bind, Except.bind, h4]

theorem loadInto_error {s : State} {sd : SReg} {aa : AReg} {cls : Class} {off : BitVec 27} {n : Nat} {sign al : Bool}
    {f : MFault} (hs : s.storesBefore (2 ^ cls.toNat) = false)
    (ht : translate s s.who (effective s aa off) n (if al then .readWord else .read) = .error f) :
    loadInto s sd aa cls off n sign al = .next (s.takeTrap
      { origin := slotOrigin s.slot, cond := f.cond, addr := f.addr, info := word f.info, slot := some s.slot }) := by
  unfold loadInto
  dsimp only
  rw [access_error hs ht]; rfl

theorem storeFrom_ok {s : State} {sa : SReg} {aa : AReg} {cls : Class} {off : BitVec 27} {n : Nat} {rel : Bool}
    {ks : List Nat} (h : Passes s (effective s aa off) n cls.toNat (if rel then .writeWord else .write) false true ks)
    (hr : rel = true → s.storesBefore 0xFFFF = false) :
    storeFrom s sa aa cls off n rel = .next (s.store (effective s aa off) ks (toBytes n (s.rs sa).toNat)) := by
  obtain ⟨h1, h2, h3, h5, h4⟩ := h
  unfold storeFrom
  dsimp only
  cases rel
  · rw [access_ok h1 h2 (fun h => absurd rfl h) (fun _ => h5 rfl)]; simp [bind, Except.bind, h4]
  · rw [access_ok h1 h2 (fun _ h => absurd rfl h) (fun _ => h5 rfl)]
    simp [bind, Except.bind, h4, State.afterStores, hr rfl]

theorem storeFrom_error {s : State} {sa : SReg} {aa : AReg} {cls : Class} {off : BitVec 27} {n : Nat} {rel : Bool}
    {f : MFault} (hs : s.storesBefore (2 ^ cls.toNat) = false)
    (ht : translate s s.who (effective s aa off) n (if rel then .writeWord else .write) = .error f) :
    storeFrom s sa aa cls off n rel = .next (s.takeTrap
      { origin := slotOrigin s.slot, cond := f.cond, addr := f.addr, info := word f.info, slot := some s.slot }) := by
  unfold storeFrom
  dsimp only
  rw [access_error hs ht]; rfl

theorem atomic_ok {s : State} {sd : SReg} {aa : AReg} {cls : Class} {n : Nat} {g : Nat → Nat} {ks : List Nat}
    (h : Passes s (s.ra aa) n cls.toNat .atomic true true ks) :
    atomic s sd aa cls n g = .next ((s.store (s.ra aa) ks (toBytes n (g (s.peek ks)))).promise (s.latencyOf ks)
      (.scalar sd.toNat) (s.peek ks)) := by
  obtain ⟨h1, h2, h3, h5, h4⟩ := h
  unfold atomic
  dsimp only
  rw [access_ok h1 h2 (fun _ _ => h3 rfl) (by simp)]
  simp [bind, Except.bind, h4]

theorem atomic_error {s : State} {sd : SReg} {aa : AReg} {cls : Class} {n : Nat} {g : Nat → Nat} {f : MFault}
    (hs : s.storesBefore (2 ^ cls.toNat) = false) (ht : translate s s.who (s.ra aa) n .atomic = .error f) :
    atomic s sd aa cls n g = .next (s.takeTrap
      { origin := slotOrigin s.slot, cond := f.cond, addr := f.addr, info := word f.info, slot := some s.slot }) := by
  unfold atomic
  dsimp only
  rw [access_error hs ht]; rfl

theorem setFlag_ok {s : State} {aa : AReg} {cls : Class} {g : Nat → Nat} {ks : List Nat}
    (h : Passes s (s.ra aa) 8 cls.toNat .atomic true true ks) (hr : s.storesBefore 0xFFFF = false) :
    setFlag s aa cls g = .next (s.store (s.ra aa) ks (toBytes 8 (g (s.peek ks)))) := by
  obtain ⟨h1, h2, h3, h5, h4⟩ := h
  unfold setFlag
  dsimp only
  rw [access_ok h1 h2 (fun _ _ => h3 rfl) (by simp)]
  simp [bind, Except.bind, h4, State.afterStores, hr]

theorem setFlag_error {s : State} {aa : AReg} {cls : Class} {g : Nat → Nat} {f : MFault}
    (hs : s.storesBefore (2 ^ cls.toNat) = false) (ht : translate s s.who (s.ra aa) 8 .atomic = .error f) :
    setFlag s aa cls g = .next (s.takeTrap
      { origin := slotOrigin s.slot, cond := f.cond, addr := f.addr, info := word f.info, slot := some s.slot }) := by
  unfold setFlag
  dsimp only
  rw [access_error hs ht]; rfl

theorem waitFlag_ok {s : State} {sb : SReg} {aa : AReg} {cls : Class} {cond : Nat} {ks : List Nat}
    (h : Passes s (s.ra aa) 8 cls.toNat .readWord true false ks)
    (hm : flagMet cond (s.peek ks) (s.rs sb).toNat = true ∨ s.stream.met = true) :
    waitFlag s sb aa cls cond = .next s := by
  obtain ⟨h1, h2, h3, h5, h4⟩ := h
  unfold waitFlag
  dsimp only
  rw [access_ok h1 h2 (fun _ _ => h3 rfl) (by simp)]
  rcases hm with hm | hm <;> simp [bind, Except.bind, h4, hm, check]

theorem waitFlag_hold {s : State} {sb : SReg} {aa : AReg} {cls : Class} {cond : Nat} {ks : List Nat}
    (h : Passes s (s.ra aa) 8 cls.toNat .readWord true false ks)
    (hm : flagMet cond (s.peek ks) (s.rs sb).toNat = false) (hn : s.stream.met = false) :
    waitFlag s sb aa cls cond = .next (s.hold (.flag (s.ra aa) cond (s.rs sb))) := by
  obtain ⟨h1, h2, h3, h5, h4⟩ := h
  unfold waitFlag
  dsimp only
  rw [access_ok h1 h2 (fun _ _ => h3 rfl) (by simp)]
  simp [bind, Except.bind, hm, hn, check]

end Sys2Proof.Machine
end

