-- ==== Sys2Proof/Laws/Commands.lean ====
section
/-!
SUPPORT. What the shared checks of commands answer under the conditions of Safety, and what a row result does.
-/

namespace Sys2Proof.Machine

/-- A command that has its place finds room. -/
theorem roomFor_placed {s : State} {q c t : Nat} (h : Placed s q c t) : s.roomFor q c = .ok () := by
  obtain ⟨h1, h2, h3, -⟩ := h
  have h4 : (s.cx.eng.queues[q]?.getD []).length < 64 := by simpa using h1
  simp [State.roomFor, check, State.afterStores, bind, Except.bind, h3, Nat.not_le.mpr h2, Nat.not_le.mpr h4]

/-- A command that has its place may write its token register. -/
theorem tokenPort_placed {s : State} {q c t : Nat} (h : Placed s q c t) : s.tokenPort t = .ok () := by
  obtain ⟨-, -, -, h4⟩ := h
  simp only [State.tokenPort, check]
  rw [if_neg]
  rintro ⟨a, b⟩
  rcases h4 with h | h
  · exact a h
  · rw [h] at b; cases b

/-- A usable range passes its check. -/
theorem range_usable {s : State} {a : Word} {n : Nat} {acc : Acc} (h : Usable s a n acc) : s.range a n acc = .ok () := by
  simp [State.range, State.mem?, h.1]

/-- A usable word passes the check of a future or a flag. -/
theorem atomicTarget_usable {s : State} {a : Word} (h : Usable s a 8 .atomic) : s.atomicTarget (some a) = .ok () := by
  simp [State.atomicTarget, range_usable h]

/-- A usable word has no watch of its own. -/
theorem watchTarget_usable {s : State} {a : Word} (h : Usable s a 8 .atomic) : s.watchTarget (some a) = .ok () := by
  have h2 := h.2
  simp at h2
  simp [State.watchTarget, h2]

/-- A destination that can take a row result takes it as `Gives` says. -/
theorem result_gives {s : State} {d : VField} (h : Takes s d) (n : Nat) (mask : BitVec 256) (tag : Tag) (data : Nat) (ind : Ind) :
    ∃ u, s.result n d mask tag data ind = .ok u ∧ Gives s u n d mask tag data ind := by
  unfold State.result Gives
  obtain ⟨h1, h2⟩ := h
  split
  · rename_i e
    rw [e] at h1
    obtain ⟨r, hr⟩ := Option.isSome_iff_exists.mp (h1 rfl)
    simp [e, hr]
  · rename_i e
    simp [e]
  · rename_i e0 e1
    have hl : 1 < d.level := by
      rcases Nat.lt_or_ge 1 d.level with h | h
      · exact h
      · rcases Nat.le_one_iff_eq_zero_or_eq_one.mp h with h | h
        · exact absurd h e0
        · exact absurd h e1
    simp [Nat.not_le.mpr (h2 hl), hl]
    exact ⟨fun h => absurd h (by omega), fun h => absurd h (by omega)⟩

end Sys2Proof.Machine
end

