-- ==== Sys2Proof/Laws/Effects.lean ====
section
/-!
SUPPORT. What the shared operations do to memory: those that leave it, and those that keep its canonical form.
`Inv` stays folded in these statements, so that no proof compares two memories by evaluation.
-/

namespace Sys2Proof.Machine

theorem Inv.of_mem {s t : State} (h : t.mem = s.mem) (hs : Inv s) : Inv t := by
  unfold Inv at *
  rw [h]
  exact hs

/-- An operation that leaves memory, repeated. -/
theorem foldl_mem {α : Type} (f : State → α → State) (l : List α) (s : State)
    (h : ∀ t a, (f t a).mem = t.mem) : (l.foldl f s).mem = s.mem := by
  induction l generalizing s with
  | nil => rfl
  | cons a r ih => rw [List.foldl_cons, ih, h]

/-- An operation that keeps the canonical form, repeated. -/
theorem foldl_inv {α : Type} (f : State → α → State) (l : List α) (s : State)
    (h : ∀ t a, Inv t → Inv (f t a)) (hs : Inv s) : Inv (l.foldl f s) := by
  induction l generalizing s with
  | nil => exact hs
  | cons a r ih => exact ih _ (h _ _ hs)

@[simp] theorem noteWatches_mem (s : State) (g : Agent) (t i : Nat) (a : Word) (n : Nat) :
    (noteWatches s g t i a n).mem = s.mem := rfl

@[simp] theorem noteFlags_mem (s : State) (g : Agent) (ks : List Nat) : (noteFlags s g ks).mem = s.mem := by
  unfold noteFlags
  dsimp only
  split <;> rfl

/-- A store writes its bytes at its keys, where the memory is ready (R362). -/
theorem storeKeys_mem (s : State) (g : Agent) (w : Who) (a : Word) (ks : List Nat) (bs : List Byte) :
    (storeKeys s g w a ks bs).mem = if keysReady s ks then memPutAll s.mem ks bs else s.mem := by
  unfold storeKeys
  split <;> simp

theorem storeKeys_inv (s : State) (g : Agent) (w : Who) (a : Word) (ks : List Nat) (bs : List Byte)
    (h : Inv s) : Inv (storeKeys s g w a ks bs) := by
  unfold Inv at *
  rw [storeKeys_mem]
  split
  · exact memWf_memPutAll _ _ _ h
  · exact h

/-- A write that succeeds is a store at the keys of its address. -/
theorem writeMem_ok {s t : State} {g : Agent} {w : Who} {a : Word} {bs : List Byte} {acc : Acc}
    (h : writeMem s g w a bs acc = .ok t) :
    ∃ ks, translate s w a bs.length acc = .ok ks ∧ keysReady s ks = true ∧ t = storeKeys s g w a ks bs := by
  unfold writeMem at h
  split at h
  · cases h
  · rename_i ks hk
    split at h
    · cases h; exact ⟨ks, hk, ‹_›, rfl⟩
    · cases h

theorem writeMem_inv {s t : State} {g : Agent} {w : Who} {a : Word} {bs : List Byte} {acc : Acc}
    (h : writeMem s g w a bs acc = .ok t) (hs : Inv s) : Inv t := by
  obtain ⟨ks, -, -, rfl⟩ := writeMem_ok h
  exact storeKeys_inv _ _ _ _ _ _ hs

theorem saveMem_inv {s t : State} {g : Agent} {w : Who} {a : Word} {bs : List Byte}
    (h : saveMem s g w a bs = .ok t) (hs : Inv s) : Inv t := by
  unfold saveMem at h
  split at h
  · cases h
  · split at h
    · cases h
    · cases h; exact storeKeys_inv _ _ _ _ _ _ hs

/-! Units. -/

@[simp] theorem State.charge_mem (s : State) (c i n : Nat) : (s.charge c i n).mem = s.mem := rfl

@[simp] theorem State.chargeBeat_mem (s : State) (c i n : Nat) : (s.chargeBeat c i n).mem = s.mem :=
  foldl_mem _ _ _ fun _ _ => rfl

@[simp] theorem State.chargeKeys_mem (s : State) (c i : Nat) (ks : List Nat) : (s.chargeKeys c i ks).mem = s.mem :=
  foldl_mem _ _ _ fun _ _ => State.chargeBeat_mem ..

@[simp] theorem State.chargeAt_mem (s : State) (c : Nat) (w : Who) (a : Word) :
    (s.chargeAt c w a).mem = s.mem := by
  unfold State.chargeAt
  split <;> simp

@[simp] theorem State.chargeSave_mem (s : State) (c : Nat) (w : Who) (a : Word) (ps : List (Nat × Nat)) :
    (s.chargeSave c w a ps).mem = s.mem :=
  foldl_mem _ _ _ fun _ _ => State.chargeAt_mem ..

@[simp] theorem State.send_mem (s : State) (p : Nat) (a : BitVec 128) (c t : Nat) (g : Word) (b : List Byte) :
    (s.send p a c t g b).mem = s.mem := rfl

@[simp] theorem State.setCrew_mem (s : State) (c : Crew) : (s.setCrew c).mem = s.mem := rfl

@[simp] theorem State.sendColl_mem (s : State) (d : Nat) (id : Word) (h : List Nat) (b : List Byte) :
    (s.sendColl d id h b).mem = s.mem := by
  unfold State.sendColl
  split
  · rfl
  · exact foldl_mem _ _ _ fun _ _ => rfl

@[simp] theorem State.toHome_mem (s : State) (id : Word) (h : List Nat) (b : List Byte) :
    (s.toHome id h b).mem = s.mem := State.sendColl_mem ..

@[simp] theorem State.tellRound_mem (s : State) (id : Word) (m v : Nat) (b : List Byte) :
    (s.tellRound id m v b).mem = s.mem := by
  unfold State.tellRound
  split
  · split <;> rfl
  · exact State.sendColl_mem ..

@[simp] theorem State.endRound_mem (s : State) (id : Word) (r : Round) : (s.endRound id r).mem = s.mem :=
  foldl_mem _ _ _ fun _ _ => State.tellRound_mem ..

@[simp] theorem State.onStrand_mem (s : State) (u : Nat) (f : Ctx → Ctx) : (s.onStrand u f).mem = s.mem := by
  unfold State.onStrand
  split <;> rfl

@[simp] theorem State.tellBarrier_mem (s : State) (id b : Word) (l : List (Nat × Nat)) (m : Nat × Nat) :
    (s.tellBarrier id b l m).mem = s.mem := by
  unfold State.tellBarrier
  split
  · exact State.onStrand_mem ..
  · exact State.sendColl_mem ..

@[simp] theorem State.leaveHome_mem (s : State) (id : Word) (m : Nat) (b : Word) :
    (s.leaveHome id m b).mem = s.mem := by
  unfold State.leaveHome
  split
  · rfl
  · split
    · rfl
    · dsimp only
      split
      · rw [foldl_mem _ _ _ fun _ _ => State.tellBarrier_mem .., foldl_mem _ _ _ fun _ _ => State.endRound_mem ..]
      · rfl

@[simp] theorem State.leaveCrew_mem (s : State) (id : Word) (u : Nat) (b : Word) :
    (s.leaveCrew id u b).mem = s.mem := by
  unfold State.leaveCrew
  split
  · exact State.leaveHome_mem ..
  · exact State.toHome_mem ..

@[simp] theorem State.leaveAll_mem (s : State) (c : Nat) : (s.leaveAll c).mem = s.mem := by
  unfold State.leaveAll
  rw [State.onCtx_mem, foldl_mem _ _ _ fun _ _ => State.leaveCrew_mem ..]

theorem resolveFuture_inv {s t : State} {g : Agent} {w : Who} {a : Word} {v : Nat} {b : Bool}
    (h : resolveFuture s g w a v = .ok (t, b)) (hs : Inv s) : Inv t := by
  unfold resolveFuture resolveWith at h
  split at h
  · cases h
  · unfold resolveKeys at h
    dsimp only at h
    split at h
    · cases h
    · split at h
      · cases h
      · split at h
        · cases h; exact hs
        · have hu := storeKeys_inv s g w a ‹_› (toBytes 8 v) hs
          split at h
          · cases h; exact hu
          · cases h; exact hu

theorem State.endTeam_inv (s : State) (r : Run) (hs : Inv s) : Inv (s.endTeam r) := by
  unfold State.endTeam
  split
  · exact hs
  · split
    · rename_i hr
      exact resolveFuture_inv hr hs
    · exact hs

theorem State.teamDone_inv (s : State) (r : Run) (hs : Inv s) : Inv (s.teamDone r) := by
  unfold State.teamDone
  split
  · exact State.endTeam_inv _ _ hs
  · exact hs

theorem State.strandEnds_inv (s : State) (q p u : Nat) (b : Bool) (hs : Inv s) : Inv (s.strandEnds q p u b) := by
  unfold State.strandEnds
  split
  · exact hs
  · exact State.teamDone_inv _ _ hs

@[simp] theorem State.recordsDone_mem (s : State) (rs : List RecRef) : (s.recordsDone rs).mem = s.mem := by
  refine foldl_mem _ _ _ fun t r => ?_
  split <;> rfl

@[simp] theorem State.freeRecords_mem (s : State) (d : Nat) (rs : List RecRef) :
    (s.freeRecords d rs).mem = s.mem := rfl

@[simp] theorem State.invalidate_mem (s : State) (t : Nat) : (s.invalidate t).mem = s.mem := rfl

/-! Landings, stalls, teardown, traps. -/

@[simp] theorem State.land_mem (s : State) (c : Nat) (e : Pend) : (s.land c e).mem = s.mem := by
  unfold State.land
  split <;> rfl

@[simp] theorem State.landThose_mem (s : State) (c : Nat) (f : Pend → Bool) : (s.landThose c f).mem = s.mem := by
  unfold State.landThose
  dsimp only
  rw [foldl_mem _ _ _ fun _ _ => State.land_mem ..]
  rfl

theorem State.logWait_inv (s : State) (c g : Nat) (w : Wait) (h : Nat) (hs : Inv s) : Inv (s.logWait c g w h) := by
  rw [State.logWait]
  split
  · exact hs
  · split
    · exact hs
    · split
      · rename_i hw
        exact Inv.of_mem (State.onCtx_mem ..) (writeMem_inv hw hs)
      · exact Inv.of_mem (State.onCtx_mem ..) hs

theorem State.endWait_inv (s : State) (c g h : Nat) (hs : Inv s) : Inv (s.endWait c g h) := by
  unfold State.endWait
  dsimp only
  split
  · exact hs
  · exact Inv.of_mem (State.onCtx_mem ..) (State.logWait_inv _ _ _ _ _ hs)

/-- A stall leaves memory in canonical form. -/
theorem State.hold_inv (s : State) (h : Hold) (hs : Inv s) : Inv (s.hold h) := by
  unfold State.hold
  split
  · split
    · exact hs
    · exact Inv.of_mem (s := s.endWait s.me s.grp 0) rfl (State.endWait_inv _ _ _ _ hs)
  · exact hs

theorem State.endWaits_inv (s : State) (c h : Nat) (hs : Inv s) : Inv (s.endWaits c h) :=
  foldl_inv _ _ _ (fun _ _ ht => State.endWait_inv _ _ _ _ ht) hs

@[simp] theorem State.thawBy_mem (s : State) (c : Nat) : (s.thawBy c).mem = s.mem := rfl
@[simp] theorem State.release_mem (s : State) (c : Nat) : (s.release c).mem = s.mem := rfl

@[simp] theorem State.capture_mem (s : State) (c : Nat) : (s.capture c).mem = s.mem := by
  simp [State.capture]

@[simp] theorem State.settle_mem (s : State) (c : Nat) : (s.settle c).mem = s.mem := rfl

theorem State.abandon_inv (s : State) (c : Nat) (hs : Inv s) : Inv (s.abandon c) :=
  Inv.of_mem (State.onCtx_mem ..) (State.endWaits_inv _ _ _ (Inv.of_mem (by simp) hs))

theorem State.putRecord_inv (s : State) (c : Nat) (x : Ctx) (ws : List Nat) (hs : Inv s) :
    Inv (s.putRecord c x ws) := by
  unfold State.putRecord
  split
  · rename_i hw
    exact saveMem_inv hw hs
  · exact hs

@[simp] theorem State.unpost_mem (s : State) (x : Ctx) : (s.unpost x).mem = s.mem := by
  refine foldl_mem _ _ _ fun t p => ?_
  split <;> rfl

theorem State.tearDown_inv (s : State) (c v : Nat) (hs : Inv s) : Inv (s.tearDown c v) :=
  State.strandEnds_inv _ _ _ _ _
    (Inv.of_mem (State.release_mem ..) (State.putRecord_inv _ _ _ _ (State.abandon_inv _ _ (Inv.of_mem (by simp) hs))))

theorem State.quiesce_inv (s : State) (c : Nat) (hs : Inv s) : Inv (s.quiesce c) :=
  Inv.of_mem (by simp [State.quiesce]) (State.endWaits_inv (s.thawBy c) c 1 (Inv.of_mem (State.thawBy_mem ..) hs))

@[simp] theorem State.enterTrap_mem (s : State) (c : Nat) (x : Ctx) : (s.enterTrap c x).mem = s.mem := by
  unfold State.enterTrap
  dsimp only
  split <;> rfl

/-- A trap writes no memory but the wait log and the save area, in canonical form. -/
theorem State.takeTrapOf_inv (s : State) (c g : Nat) (t : Trap) (hs : Inv s) : Inv (s.takeTrapOf c g t) := by
  have h1 : Inv (s.note c 1 (t.cause * 4 + g)) := Inv.of_mem (State.note_mem ..) hs
  rw [State.takeTrapOf]
  split
  · exact State.tearDown_inv _ _ _ h1
  · have h2 := State.quiesce_inv _ c h1
    dsimp only
    split
    · exact State.tearDown_inv _ _ _ (Inv.of_mem (State.setCtx_mem ..) h2)
    · rename_i hw
      exact Inv.of_mem (State.enterTrap_mem ..) (saveMem_inv hw h2)

theorem State.takeTrap_inv (s : State) (t : Trap) (hs : Inv s) : Inv (s.takeTrap t) :=
  State.takeTrapOf_inv _ _ _ _ hs

/-- A strand that stops for a trap writes no memory but the wait log. -/
theorem State.beginTrap_inv (s : State) (c g : Nat) (t : Trap) (hs : Inv s) : Inv (s.beginTrap c g t) := by
  unfold State.beginTrap
  dsimp only
  split
  · exact Inv.of_mem (s := s) rfl hs
  · have h := Inv.of_mem (State.capture_mem (s.endWaits c 1) c) (State.endWaits_inv s c 1 hs)
    generalize (s.endWaits c 1).capture c = u at h ⊢
    exact Inv.of_mem (s := u) rfl h

/-- A trap, taken now or once the answers of its strand have come, keeps memory in canonical form. -/
theorem State.trapTo_inv (s : State) (c g : Nat) (t : Trap) (hs : Inv s) : Inv (s.trapTo c g t) := by
  unfold State.trapTo
  split
  · exact State.beginTrap_inv _ _ _ _ hs
  · exact State.takeTrapOf_inv _ _ _ _ hs

/-- The trap of the issuing stream keeps memory in canonical form. -/
theorem State.trapHere_inv (s : State) (t : Trap) (hs : Inv s) : Inv (s.trapHere t) :=
  Inv.of_mem rfl (State.trapTo_inv s s.me s.grp t hs)

/-- A syllable that keeps the canonical form in its own effect keeps it however it ends. -/
theorem State.finish_inv {s t : State} {r : Except Stop State} (h : s.finish r = .next t) (hs : Inv s)
    (hr : ∀ u, r = .ok u → Inv u) : Inv t := by
  rcases r with (e | e) | u
  · cases h; exact State.takeTrap_inv _ _ hs
  · cases h; exact State.hold_inv _ _ hs
  · cases h; exact hr _ rfl

/-- A successful check or read leads on; the rest of a syllable is looked at under it. -/
theorem bind_ok {ε α β : Type} {x : Except ε α} {f : α → Except ε β} {r : β} (h : (x >>= f) = .ok r) :
    ∃ a, x = .ok a ∧ f a = .ok r := by
  cases x with
  | error e => cases h
  | ok a => exact ⟨a, rfl, h⟩

end Sys2Proof.Machine
end

