-- ==== Sys2Proof/Tests/Slice0.lean ====
section
/-!
SUPPORT. Tests on fixed values: ill-formed terms that WellFormed refuses, words written out from the encodings of
spec/, one step of each family, and for every statement values that meet its hypotheses together.
-/

namespace Sys2Proof.Tests

open Sys2Proof Sys2Proof.Machine

-- One test after another: side by side, their evaluations would need more memory than a check has.
set_option Elab.async false

/-! Small states. -/

/-- A requester of tile 0 with shares of its scratchpads. -/
def reqr : Who := { usSize := 131072, csSize := 4096, dsSize := 4096 }
/-- A context bound in slot 0. -/
def cx0 : Ctx :=
  { bound := true, bind := { who := reqr, rows := 64, scalars := 56, save := addrOf 0xFFFF 0x10000, uid := 1 } }
/-- A device with every unit ready and one context. -/
def devOf (x : Ctx) : State :=
  { State.reset with readyT := BitVec.allOnes 128, readyM := BitVec.allOnes 27, ctxs := [(0, x)], agenda := [] }
/-- The context with scalars, address registers and predicates. -/
def cxWith (s : List (Nat × Word)) (a : List (Nat × Word)) (p : BitVec 32 := 0) : Ctx :=
  { cx0 with regs := { s := s, a := a, p := p } }
/-- The device with such a context. -/
def dev (s : List (Nat × Word) := []) (a : List (Nat × Word) := []) (p : BitVec 32 := 0) : State := devOf (cxWith s a p)
/-- Its memory with bytes in the unit scratchpad of tile 0. -/
def withOwn (s : State) (off : Nat) (bs : List Byte) : State :=
  { s with mem := memPutAll s.mem (keysFrom (keyOf 320 off) bs.length) bs }
/-- The state that an outcome holds, reset for a stop. -/
def after (o : Host.Outcome State Fault Refusal) : State := match o with | .next t => t | _ => State.reset
/-- Whether an outcome is a next state. -/
def nextIs (o : Host.Outcome State Fault Refusal) (t : State) : Bool := match o with | .next u => decide (u = t) | _ => false
/-- An address of the own unit scratchpad. -/
def own (off : Nat) : Word := addrOf 0xFFFF off

/-- Whether a result is a success with a value, and whether it is an error. -/
def yields {α ε : Type} [DecidableEq α] (r : Except ε α) (v : α) : Bool := match r with | .ok u => decide (u = v) | .error _ => false
def fails {α ε : Type} [DecidableEq ε] (r : Except ε α) (e : ε) : Bool := match r with | .ok _ => false | .error f => decide (f = e)
theorem yields_iff {α ε : Type} [DecidableEq α] (r : Except ε α) (v : α) : yields r v = true ↔ r = .ok v := by
  cases r <;> simp [yields]
theorem fails_iff {α ε : Type} [DecidableEq ε] (r : Except ε α) (e : ε) : fails r e = true ↔ r = .error e := by
  cases r <;> simp [fails]

/-! Each check of WellFormed refuses a term. -/

theorem test_ill_formed_range :
    [Instr.tlwaitImm 7 0, .tlwaitReg 7 0, .tlget 1 7, .extr 1 2 60 4, .ins 1 2 1 63, .sfcvt 1 2 6, .rdsp 1 0x007,
     .wrsp 1 0x0D9, .brpAny 31 1 0, .brpAll 16 16 0, .brpNone 0 32 0, .ctxsave 1 1 3, .ctxload 1 1 3, .amoAdd 1 1 1 0 0 1,
     .amoAnd 1 1 1 0 0 1, .amoOr 1 1 1 0 0 1, .amoXor 1 1 1 0 0 1, .amoSwap 1 1 1 0 0 1, .cas 1 1 1 0 0 1, .fence 1 6,
     .flset 1 1 0 6, .flsetAdd 1 1 0 6, .flwaitGe 1 1 0 6, .flwaitEq 1 1 0 6, .flwaitNe 1 1 0 6, .cpyl 1 2 0 0,
     .cpyl 1 2 53 0, .pref 1 1 2 3 0 0 0, .evict 1 1 2 3 0 0 0, .credSum 1 1 2 3 0 0 4 3, .credMax 1 1 2 3 0 0 4 3,
     .credSmerge 1 1 2 3 0 0 4 3, .kvgath 1 1 2 3 0 0 4 0 3].all (fun i => i.defect == some 3) = true := by decide

theorem test_ill_formed_fork :
    [Instr.fork 0x0501 0 0 0, .fork 0x0800 8 8 0, .fork 0 8 0 0, .fork 0x0504 8 8 0].all (fun i => i.defect == some 3) =
      true := by decide

theorem test_ill_formed_vector :
    [Instr.vch 0 15 0 0 0 1 2 3 0, .vch 1 22 0 0 0 1 0 0 0, .vch 0 31 0 0 0 1 0 0 0].all (fun i => i.defect == some 1) = true ∧
    [Instr.vch 0 0 0 0 0 1 2 0 0, .vch 0 1 0 0 0 1 2 3 0, .vshuf 0 1 2 0 0 1, .vshuf 0 1 2 0 5 0].all
      (fun i => i.defect == some 2) = true ∧
    [Instr.vch 0 0 0 0 0x200 1 0 0 0, .vch 0 0 0 0 0 0x110 0 0 0, .vcvt 0 0x301 0 0 1, .vcvt 0 1 0 0 9, .vredAdd 0x300 1 0,
     .vredMax 0 0x302 0, .vredMin 0x110 1 0, .vredAnd 0x301 1 0, .vredOr 0x342 1 0, .vscanAdd 0 0x202 0, .vscanMax 0 0x303 0,
     .vscanMin 0x200 0 0, .vscanAnd 0x300 0 0, .vscanOr 0x110 0 0, .vperm 0 1 0x302 0, .vbcast 0x200 1 0 0,
     .vshuf 0 1 0x302 0 0 0, .vshuf 0 1 2 0 6 0, .vmaskFrom 0 1, .vmaskFrom 1 0x301, .vmaskAnd 0 1 2, .vmaskOr 0 1 2,
     .vmaskAndn 0 1 2, .vmaskCount 0x341 0, .vmaskCount 1 1, .vtag 0 1 0 10, .vmov 0x200 1 0, .vext 1 1 0,
     .vins 0 1 2 0 0].all (fun i => i.defect == some 3) = true := by decide

theorem test_ill_formed_matrix :
    [Instr.mcfg 0 0, .mcfg 0 8, .mset 6 0 1, .mset 1 8 1, .msetI 0 5 1, .msetI 0 22 1, .msnap 1 1 0, .mplane 1 2 3 2,
     .mplane 1 2 3 9].all (fun i => i.defect == some 3) = true := by decide

/-! Words written out from the encodings of spec/03, and words that other files print. -/

/-- A syllable: stop, slot, major, guard, minor, and bits 42:0 from format G's fields (R34, R36). -/
def gWord (slot major guard minor f1 f2 f3 f4 f5 k : Nat) : Nat :=
  2 ^ 63 + slot * 2 ^ 60 + major * 2 ^ 52 + guard * 2 ^ 46 + minor * 2 ^ 43 + f1 * 2 ^ 37 + f2 * 2 ^ 31 + f3 * 2 ^ 25 +
    f4 * 2 ^ 19 + f5 * 2 ^ 13 + k

theorem test_decode_scalar :
    decodeTableWord 64 (gWord 0 0x04 0 2 9 3 4 0 0 0) = some (.cmpNe 9 3 4) ∧
    decodeTableWord 64 (gWord 1 0x06 3 2 7 8 9 10 0 0) = some (.sfma 7 8 9 10) ∧
    decodeTableWord 64 (gWord 0 0x07 0 1 4 5 6 0 0 0x1FFF) = some (.aadd 4 5 6 0x1FFF) ∧
    decodeTableWord 64 (gWord 0 0x10 0 4 3 2 0 0 0 5) = some (.shli 3 2 5) := by decide +kernel
theorem test_decode_control :
    decodeTableWord 64 0x882008400A000010 = some (.loopImm 2 5 16) ∧ decodeTableWord 64 0x8850080000000000 = some .yield ∧
    decodeTableWord 64 0x885010000000002A = some (.svc 0x2A) ∧ decodeTableWord 64 0x88F0000000000000 = some .trapret ∧
    decodeTableWord 64 0x88F0090180000001 = some (.ctxsave 8 3 1) ∧ decodeTableWord 64 0x88F0110180000002 = some (.ctxload 8 3 2) ∧
    decodeTableWord 64 0x88F018A300000001 = some (.tinv 5 6 1) := by decide +kernel
theorem test_decode_every : decodeTableWord 64 0x6F00002000000029 = some (.tlwaitImm 1 0x29) ∧
    decodeTableWord 64 0x8FF0000000000000 = some .nop := by decide +kernel
theorem test_decode_copy : decodeTableWord 64 0xB02002820AAC0B01 = some (.kvgath 20 4 5 21 2 0 22 0 1) ∧
    decodeTableWord 64 0xB0200B028CC80D01 = some (.kvapp 24 5 6 25 0 0 26 1) := by decide +kernel
theorem test_decode_vector : decodeTableWord 64 0xDC80000003800000 = some (.vmov 0 7 0) ∧
    decodeTableWord 64 0x4C00002003800001 = some (.vcvt 16 7 0 0 1) ∧
    decodeTableWord 64 0xD31AD02804010040 = some (.vch 0 24 26 26 0x014 8 8 8 0) := by decide +kernel
theorem test_decode_matrix : decodeTableWord 64 0xE000180000000000 = some .mgo := by decide +kernel
theorem test_decode_special : decodeTableWord 64 0xF01000E198680000 = some (.conftMaxp 7 3 12 13) ∧
    decodeTableWord 64 0xF010004298580000 = some (.conftMaxp 2 5 12 11) ∧ decodeTableWord 64 0xF000092200000000 = some (.rret 9 4) ∧
    decodeTableWord 64 0xF03002812A000000 = some (.jobq 20 2 21) ∧ decodeTableWord 64 0xF02000020A000001 = some (.rngkey 4 5 1) ∧
    decodeTableWord 64 0xF020092000000000 = some (.enrd 9) ∧ decodeTableWord 64 0xF040080314580000 = some (.futreg 6 10 11) ∧
    decodeTableWord 64 0xF040100318000000 = some (.futres 6 12) ∧ decodeTableWord 64 0xF04019A300000000 = some (.futwait 13 6) := by
  decide +kernel
/-- Access words by format AM (R50): class in 30:27, a signed offset in 26:0. -/
theorem test_decode_access : decodeTableWord 64 (gWord 2 0x00 0 5 3 4 0 0 0 0 + 2 * 2 ^ 27 + (2 ^ 27 - 8)) =
    some (.ldS32 3 4 2 (BitVec.ofInt 27 (-8))) := by decide +kernel

/-! What meets the hypotheses of each statement. -/

theorem wit_EncodedSyllableDecodes :
    (Instr.add 3 1 2).wellFormed = true ∧ (Instr.add 3 1 2).inSlot 1 = true ∧
    (Instr.fork 0x0504 9 0 0).wellFormed = true ∧ (Instr.fork 0x0504 9 0 0).inSlot 0 = true ∧
    (Instr.vch 1 18 30 14 0x3F 0x3BF 0x37F 0 7).wellFormed = true ∧ (Instr.vch 1 18 30 14 0x3F 0x3BF 0x37F 0 7).inSlot 5 = true ∧
    (Instr.nop).wellFormed = true ∧ (Instr.nop).inSlot 7 = true := by decide
theorem wit_AcceptedBundles :
    yields (decodeBundle [0x0000006084000000]) [⟨0, 0, .add 3 1 2⟩] = true ∧
    (decodeBundle (encode 0 0 false (.add 3 1 2) ++ encode 7 5 true (.enrd 9))).isOk = true := by decide +kernel

/-- A bundle of one syllable placed at the program counter of a stream that is free to issue. -/
def issuable (s : State) (ws : List Nat) (y : Syl) : Bool :=
  let s0 := (s.popTurn []).looking 0 0
  s.fw == [] && s.agenda == [] && s.turn == [.stream 0 0] && (s.ctx 0).bound && !(s.ctx 0).trap.stopped && !(s.ctx 0).freeze &&
  !((s.ctx 0).streams.getD 0 {}).joined && ((s.ctx 0).streams.getD 0 {}).leave == none &&
  ((s.ctx 0).streams.getD 0 {}).barrier == none && debugStop (s.ctx 0) ((s.ctx 0).streams.getD 0 {}) == none &&
  yields (fetchBundle s0 s0.who s0.stream.loops s0.stream.pc) ws && yields (decodeBundle ws) [y] &&
  s0.slotsTaken 0 &&& slotsUsed s0.cx 0 [y] == 0 && yields (checkBundle s0.cx 0 s0.cycle [y]) ()

/-- A syllable placed by the host's interface. -/
def place (i : Instr) (slot : Nat := 0) (guard : BitVec 6 := 0) : State :=
  State.reset.withFetchWord 64 ((encode slot guard true i).headD 0)

/-- How the syllable of a placed bundle ends. -/
def ending (s : State) (y : Syl) : Status :=
  let s0 := (s.popTurn []).looking 0 0
  (after (exec y.op ((s0.going (pcAdd s0.stream.pc 1) (slotsUsed s0.cx 0 [y])).atSlot y.slot))).status

theorem wit_StepRuns_running : issuable (place (.add 3 1 2)) (encode 0 0 true (.add 3 1 2)) ⟨0, 0, .add 3 1 2⟩ = true ∧
    guardTrue ((place (.add 3 1 2)).ctx 0) 0 = true ∧ ending (place (.add 3 1 2)) ⟨0, 0, .add 3 1 2⟩ = .running := by
  decide +kernel
theorem wit_StepRuns_moved : issuable (place .halt) (encode 0 0 true .halt) ⟨0, 0, .halt⟩ = true ∧
    ending (place .halt) ⟨0, 0, .halt⟩ = .moved := by decide +kernel
theorem wit_StepRuns_trapped : issuable (place .trapret) (encode 0 0 true .trapret) ⟨0, 0, .trapret⟩ = true ∧
    ending (place .trapret) ⟨0, 0, .trapret⟩ = .trapped { origin := 0, cond := 3, slot := some 0 } := by decide +kernel
theorem wit_StepRuns_service : issuable (place (.svc 0x2A)) (encode 0 0 true (.svc 0x2A)) ⟨0, 0, .svc 0x2A⟩ = true ∧
    ending (place (.svc 0x2A)) ⟨0, 0, .svc 0x2A⟩ = .trapped { origin := 0, cond := 0x26, info := 0x2A, slot := some 0 } := by decide +kernel
theorem wit_StepRuns_held : issuable (place (.gwait 3)) (encode 0 0 true (.gwait 3)) ⟨0, 0, .gwait 3⟩ = true ∧
    ending (place (.gwait 3)) ⟨0, 0, .gwait 3⟩ = .held (.gate 0 3) := by decide +kernel
theorem wit_StepRuns_guarded : issuable (place (.add 3 1 2) 0 1) (encode 0 1 true (.add 3 1 2)) ⟨0, 1, .add 3 1 2⟩ = true ∧
    guardTrue ((place (.add 3 1 2) 0 1).ctx 0) 1 = false := by decide +kernel
theorem wit_StepRuns_happening : ({ dev with agenda := [.moduleReset] } : State).agenda = [.moduleReset] := rfl

theorem wit_FirstBindValues :
    (devOf { bound := true, bind := cx0.bind, xchk := true }).cx = { bound := true, bind := cx0.bind, xchk := true } := rfl
theorem wit_ClockRatio : ({ dev with phase := 8 } : State).phase < 9 ∧ (dev).trip = false ∧
    ({ dev with phase := 0, trip := true } : State).phase < 9 ∧ ({ dev with phase := 0, trip := true } : State).trip = true := by decide
theorem wit_StepKeepsMemoryCanonical : Inv State.reset ∧ ∃ t, step State.reset = .next t := ⟨rfl, _, rfl⟩
theorem wit_MemoryReadsBack : ([keyOf 0 0, keyOf 466 (2 ^ 48 - 1)] : List Nat).Nodup ∧
    ([keyOf 0 0, keyOf 466 (2 ^ 48 - 1)] : List Nat).length = ([1, 0] : List Byte).length ∧ memWf [(0, 3), (7, 255)] = true ∧
    8 ∉ ([0, 7] : List Nat) := by decide
theorem wit_CanonicalMemoryIsUnique : memWf [(0, 3), (7, 255)] = true ∧
    ∀ k, memGet [(0, 3), (7, 255)] k = memGet [(0, 3), (7, 255)] k := ⟨by decide, fun _ => rfl⟩

/-- Results in flight to registers of every kind, due in cycle 0. -/
def landing : State := { devOf { cx0 with
  pend := [{ due := 0, dest := .scalar 63, data := 5 }, { due := 0, dest := .scalar 63, data := 2 ^ 64 + 6, ind := 4 },
    { due := 0, dest := .addr 15, data := 7 }, { due := 0, dest := .pred 31, data := 1 }, { due := 0, dest := .mask 7, data := 2 },
    { due := 0, dest := .row 63, data := 2 ^ 32 * 9 + 8, tag := .int32, mask := 2 }, { due := 0, dest := .oper 15, data := 3, tag := .int8 },
    { due := 1, dest := .scalar 1, data := 9 }],
  board := [{ dest := .scalar 2, due := 0, value := some 4 }, { dest := .pred 31, due := 0, value := some 3 }, { dest := .scalar 4 }] } with phase := 0 }

/-- R43, R45, R184: the youngest result to s63 remains, a masked row keeps its other lanes, later results stay. -/
theorem test_landing : let x := (after (exec (.exposedResultLanding 0) landing)).cx
    x.s 63 = 6 ∧ x.a 15 = 7 ∧ x.p 31 = true ∧ x.m 7 = 2 ∧ (x.row 63).data = 2 ^ 32 * 9 ∧ (x.row 63).tag = .int32 ∧
    (x.oper 15).data = 3 ∧ x.s 1 = 0 ∧ x.pend.length = 1 ∧ x.regs.nstat = 4 := by decide +kernel
/-- R46: s2 lands, p31 takes bit 0, and s4, which is not known, stays pending. -/
theorem test_board_landing : let x := (after (exec (.scoreboardResultLanding 0) { landing with
      ctxs := [(0, { landing.cx with pend := [] })] })).cx
    x.s 2 = 4 ∧ x.p 31 = true ∧ x.board = [{ dest := .scalar 4 }] := by decide +kernel
theorem wit_DueResultsLand :
    ((landing.cx.pend.filter fun e => decide (e.due ≤ landing.cycle)).filter (·.dest == .row 63)).length = 1 ∧
    ((landing.cx.pend.filter fun e => decide (e.due ≤ landing.cycle)).filter (·.dest == .oper 15)).length = 1 ∧
    (landing.cx.pend.all fun e => e.dest != .special 0x050 && e.dest != .special 0x0E0) = true := by decide +kernel
theorem wit_ScoreboardLands : (landing.cx.board.filter (landing.cx.boardReady landing.cycle)).length = 1 := by decide +kernel
theorem wit_HardWiredRegisters : ∀ d ∈ [Dest.scalar 0, .pred 0, .mask 0],
    ({ due := 0, dest := d, data := 1, ind := 1 } : Pend).latch = false ∧ (d = .scalar 0 ∨ d = .pred 0 ∨ d = .mask 0) := by decide
theorem wit_ScalarFrame : (Instr.divu 1 2 3).space = some .scalar ∧ ∀ sa n, Instr.divu 1 2 3 ≠ .wrsp sa n :=
  ⟨rfl, fun _ _ h => Instr.noConfusion h⟩

/-- The value of the result that an instruction puts in flight. -/
def put1 (i : Instr) (s : State) : Option Nat := ((after (exec i s)).cx.pend.getLast?).map (·.data)
/-- s1 and s2 hold the operands. -/
def two (a b : Word) : State := dev [(1, a), (2, b)] []

/-- R171: wraps at 2^64, shift counts modulo 64, signed and unsigned order. -/
theorem test_integer :
    put1 (.add 3 1 2) (two (-1) 2) = some 1 ∧ put1 (.sub 3 1 2) (two 1 2) = some (2 ^ 64 - 1) ∧
    put1 (.and 3 1 2) (two 12 10) = some 8 ∧ put1 (.or 3 1 2) (two 12 10) = some 14 ∧ put1 (.xor 3 1 2) (two 12 10) = some 6 ∧
    put1 (.shl 3 1 2) (two 3 127) = some (2 ^ 63) ∧ put1 (.shr 3 1 2) (two (-1) 127) = some 1 ∧
    put1 (.sar 3 1 2) (two (2 ^ 63) 63) = some (2 ^ 64 - 1) ∧ put1 (.rotr 3 1 2) (two 3 65) = some (2 ^ 63 + 1) ∧
    put1 (.min 3 1 2) (two (-1) 1) = some (2 ^ 64 - 1) ∧ put1 (.max 3 1 2) (two (-1) 1) = some 1 ∧
    put1 (.minu 3 1 2) (two (-1) 1) = some 1 ∧ put1 (.maxu 3 1 2) (two (-1) 1) = some (2 ^ 64 - 1) := by decide +kernel
theorem test_immediate :
    put1 (.addi 3 1 (BitVec.ofInt 31 (-1))) (two 0 0) = some (2 ^ 64 - 1) ∧ put1 (.andi 3 1 (BitVec.ofInt 31 (-2))) (two (-1) 0) = some (2 ^ 64 - 2) ∧
    put1 (.ori 3 1 5) (two 2 0) = some 7 ∧ put1 (.xori 3 1 5) (two 1 0) = some 4 ∧ put1 (.shli 3 1 63) (two 3 0) = some (2 ^ 63) ∧
    put1 (.shri 3 1 63) (two (2 ^ 63) 0) = some 1 ∧ put1 (.sari 3 1 1) (two (2 ^ 63) 0) = some (2 ^ 63 + 2 ^ 62) ∧
    put1 (.movi 3 (BitVec.ofInt 37 (-3))) (two 0 0) = some (2 ^ 64 - 3) ∧
    put1 (.movhi 1 1) (two (-1) 0) = some (2 ^ 38 - 1) := by decide +kernel
/-- R171, R172: the products, the corners of division, and signs of remainders. -/
theorem test_multiply_divide :
    put1 (.mul 3 1 2) (two (-1) (-1)) = some 1 ∧ put1 (.mulh 3 1 2) (two (-1) 2) = some (2 ^ 64 - 1) ∧
    put1 (.mulhu 3 1 2) (two (-1) 2) = some 1 ∧ put1 (.div 3 1 2) (two (-7) 2) = some (2 ^ 64 - 3) ∧
    put1 (.rem 3 1 2) (two (-7) 2) = some (2 ^ 64 - 1) ∧ put1 (.divu 3 1 2) (two (-1) 2) = some (2 ^ 63 - 1) ∧
    put1 (.remu 3 1 2) (two 7 4) = some 3 ∧ put1 (.div 3 1 2) (two 5 0) = some (2 ^ 64 - 1) ∧ put1 (.rem 3 1 2) (two 5 0) = some 5 ∧
    put1 (.div 3 1 2) (two (2 ^ 63) (-1)) = some (2 ^ 63) ∧ put1 (.rem 3 1 2) (two (2 ^ 63) (-1)) = some 0 := by decide +kernel
theorem test_bits_and_fields :
    put1 (.clz 3 1) (two 1 0) = some 63 ∧ put1 (.ctz 3 1) (two 0 0) = some 64 ∧ put1 (.popc 3 1) (two (-1) 0) = some 64 ∧
    put1 (.extr 3 1 8 3) (two 0xF5A 0) = some 15 ∧ put1 (.ins 2 1 60 3) (two 0x1F 1) = some (0xF * 2 ^ 60 + 1) ∧
    put1 (.sel 3 1 2 0) (two 4 9) = some 4 ∧ put1 (.cmpLt 3 1 2) (two (-1) 0) = some 1 ∧ put1 (.cmpLtu 3 1 2) (two (-1) 0) = some 0 ∧
    put1 (.cmpEq 3 1 2) (two 5 5) = some 1 ∧ put1 (.cmpNe 3 1 2) (two 5 5) = some 0 ∧ put1 (.cmpLe 3 1 2) (two 5 5) = some 1 ∧
    put1 (.cmpLeu 3 1 2) (two 6 5) = some 0 := by decide +kernel
/-- R174: tables 0b1000 (and), 0b0110 (xor), 0b0011 (not pa); PMOV's bit 0 is 1. -/
theorem test_predicates : let s := dev [] [] 6
    put1 (.pset 3 1 2 8) s = some 1 ∧ put1 (.pset 3 1 2 6) s = some 0 ∧ put1 (.pset 3 1 2 3) s = some 0 ∧
    put1 (.pset 3 4 2 3) s = some 1 ∧ put1 (.pmovToScalar 3) s = some 7 ∧
    (after (exec (.pmovToPredicates 1) (two 4 0))).cx.pend.length = 31 := by decide +kernel
theorem test_address : let s := dev [(1, 0x12345), (2, 0xFFFF800000000001)] [(4, 0x7000FFFFFFFFFFFF)]
    put1 (.abuf 3 1 2) s = some 0x2345800000000001 ∧ put1 (.aadd 3 4 0 1) s = some 0x7000000000000000 ∧
    put1 (.aget 3 4) s = some 0x7000FFFFFFFFFFFF ∧ put1 (.aset 3 2) s = some 0xFFFF800000000001 := by decide +kernel
/-- The indications of the result that an instruction puts in flight. -/
def inds (i : Instr) (s : State) : Option Ind := ((after (exec i s)).cx.pend.getLast?).map (·.ind)
/-- R178: 1.0 + 1.0, a NaN source, 3.0 · 0.5 + 0.5, and ∞ · 0, which is invalid. -/
theorem test_scalar_float : put1 (.sfadd 3 1 2) (two 0x3F800000 0x3F800000) = some 0x40000000 ∧
    put1 (.sfmul 3 1 2) (two 0x7F800001 0x3F800000) = some 0x7FC00000 ∧
    put1 (.sfma 3 1 2 2) (two 0x40400000 0x3F000000) = some 0x40000000 ∧
    inds (.sfmul 3 1 2) (two 0x7F800000 0) = some 16 := by decide +kernel
/-- The examples of R179. -/
theorem test_sfcvt : put1 (.sfcvt 3 1 1) (two 7 0) = some 0x40E00000 ∧
    put1 (.sfcvt 3 1 2) (two 0x3F800001 0) = some 0x3F80 ∧ inds (.sfcvt 3 1 2) (two 0x3F800001 0) = some 1 ∧
    put1 (.sfcvt 3 1 2) (two 1 0) = some 0 ∧ inds (.sfcvt 3 1 2) (two 1 0) = some 3 ∧
    put1 (.sfcvt 3 1 0) (two 0x4F000000 0) = some 0x7FFFFFFF ∧ inds (.sfcvt 3 1 0) (two 0x4F000000 0) = some 9 ∧
    put1 (.sfcvt 3 1 0) (two 0xFF800000 0) = some 0xFFFFFFFF80000000 ∧
    inds (.sfcvt 3 1 0) (two 0xFF800000 0) = some 8 := by decide +kernel

theorem wit_Divide : (two 5 0).rs 2 = 0 ∧ (two (2 ^ 63) (-1)).rs 1 = BitVec.intMin 64 ∧ (two (2 ^ 63) (-1)).rs 2 = BitVec.allOnes 64 ∧
    (two (2 ^ 63) (-1)).rs 2 ≠ 0 ∧ (two (-7) 2).rs 2 ≠ 0 ∧ ¬((two (-7) 2).rs 1 = BitVec.intMin 64 ∧ (two (-7) 2).rs 2 = BitVec.allOnes 64) := by
  decide +kernel
theorem wit_BitCounts : (two 0 0).rs 1 = 0 ∧ (two (2 ^ 63) 0).rs 1 ≠ 0 := by decide +kernel
theorem wit_BitFields : (63 : BitVec 6).toNat + (0 : BitVec 6).toNat < 64 ∧ 64 ≤ (63 : BitVec 6).toNat + (1 : BitVec 6).toNat := by decide
theorem wit_MovesOfConstants : ∃ v : Word, (two (BitVec.ofInt 64 ((v.extractLsb' 0 37).toInt)) 0).rs 1 = BitVec.ofInt 64 (v.extractLsb' 0 37).toInt ∧ v = BitVec.allOnes 64 :=
  ⟨_, by decide +kernel, rfl⟩
theorem wit_ScalarFloat : (two 0x7FC00000 0).fp 1 = .nan := by decide +kernel
/-- R146, R155, R156: user-mode NVER is privileged; CTSEL takes 6 bits; ROTCFG refuses base + size above 256. -/
theorem wit_SpecialRegisterWrites : writable cx0 0x051 = false ∧ writable cx0 0x020 = true ∧ cx0.priv = false ∧
    (reservedField (2 ^ 6) (reservedSpecial 0x020)).isSome = true ∧ reservedField 63 (reservedSpecial 0x020) = none ∧
    badSpecial cx0 0x020 63 = false ∧ writable cx0 0x011 = true ∧ reservedField (256 * 256 + 1) (reservedSpecial 0x011) = none ∧
    badSpecial cx0 0x011 (256 * 256 + 1) = true := by decide +kernel
theorem test_wrsp : (after (exec (.wrsp 1 0x020) (two 63 0))).cx.pend.map (·.dest) = [.special 0x020] ∧
    (after (exec (.wrsp 1 0x020) (two 64 0))).status = .trapped { origin := 0, cond := 5, slot := some 0 } ∧
    (after (exec (.wrsp 1 0x051) (two 1 0))).status = .trapped { origin := 0, cond := 3, slot := some 0 } ∧
    (after (exec (.wrsp 1 0x011) (two 65537 0))).status = .trapped { origin := 0, cond := 4, slot := some 0 } := by decide +kernel
/-- R156: RDSP reads what the cycle began with. -/
theorem wit_ChangingRegisters : (two 0 0).cx.bound = true ∧ (two 0 0).clocked (clusterOf (0 / 16)) = true ∧
    Tab.find? ({ cx0 with seen := [(0x060, 7)] } : Ctx).seen 0x060 = some 7 ∧ Tab.find? (two 0 0).cx.seen 0x052 = none := by decide +kernel
theorem test_changing : put1 (.rdsp 3 0x060) (devOf { cx0 with seen := [(0x060, 7)], regs := { enCount := 9 } }) = some 7 ∧
    put1 (.rdsp 3 0x060) (devOf { cx0 with regs := { enCount := 9 } }) = some 9 := by decide +kernel
theorem test_rdsp : put1 (.rdsp 3 0x051) (two 0 0) = some 3 ∧ put1 (.rdsp 3 0x041) (two 0 0) = some 131072 := by decide +kernel

/-! Memory. -/

/-- A buffer 0 with a table entry, one page of 1 GiB at address 0 of fast channel 0. -/
def mapped (e : Nat := placeEntry) (s : List (Nat × Word) := []) (a : List (Nat × Word) := []) : State :=
  let m := memPutAll (memPutAll [] (keysFrom 0 64) (toBytes 64 e)) (keysFrom 0x1000 8) (toBytes 8 0x2001)
  { dev s a with mem := memPutAll m (keysFrom 0x2000 8) (toBytes 8 1) }
/-- The fields of `placeEntry` with owner, rights and length. -/
def entryOf (owner rights length : Nat) : Nat := length + rights * 2 ^ 52 + 2 ^ 63 + 3 * 2 ^ 94 + owner * 2 ^ 112 + 1 * 2 ^ 140
/-- Translation of buffer 0 fails with a condition at the address. -/
def refuses (s : State) (a : Word) (n : Nat) (acc : Acc) (cond : Nat) : Bool := fails (translate s s.who a n acc) ⟨cond, a, 0⟩

/-- R74: the first step that fails names the fault; the last byte of a buffer passes. -/
theorem test_translate_faults :
    refuses (mapped) (addrOf 1 0) 1 .read 0x08 = true ∧ refuses (dev) (addrOf 0 0) 1 .read 0x09 = true ∧
    refuses (mapped (entryOf 5 7 8)) (addrOf 0 9) 8 .atomic 0x0A = true ∧
    refuses (mapped (entryOf 0xFFFF 1 8)) (addrOf 0 9) 8 .atomic 0x0B = true ∧
    refuses (mapped (entryOf 0xFFFF 15 8)) (addrOf 0 9) 8 .atomic 0x0D = true ∧
    refuses (mapped (entryOf 0xFFFF 15 8)) (addrOf 0 1) 8 .read 0x0C = true ∧
    yields (translate (mapped (entryOf 0xFFFF 15 8)) reqr (addrOf 0 7) 1 .read) [7] = true := by decide +kernel
theorem wit_TranslateFaults : 0 < 8 ∧ bufIdx (addrOf 0 1) < 0xFE00 ∧ (mapped).who.btCount ≤ bufIdx (addrOf 1 0) ∧
    bufIdx (addrOf 0 1) < (mapped).who.btCount ∧ fails (readEntry dev [] reqr (addrOf 0 0)) ⟨0x09, addrOf 0 0, 0⟩ = true ∧
    [entryOf 5 7 8, entryOf 0xFFFF 1 8, entryOf 0xFFFF 15 8].all (fun e => yields (readEntry (mapped e) (mapped e).mem reqr (addrOf 0 0)) e) = true ∧
    entryOwner (entryOf 5 7 8) ≠ 0xFFFF ∧ entryOwner (entryOf 5 7 8) ≠ reqr.team ∧ entryOwner (entryOf 0xFFFF 1 8) = 0xFFFF ∧
    entryRights (entryOf 0xFFFF 1 8) &&& Acc.write.rights ≠ Acc.write.rights ∧
    entryRights (entryOf 0xFFFF 15 8) &&& Acc.atomic.rights = Acc.atomic.rights ∧ Acc.atomic.aligned = true ∧
    bufOff (addrOf 0 1) % 8 ≠ 0 ∧ bufOff (addrOf 0 0) % 8 = 0 ∧ entryLength (entryOf 0xFFFF 15 8) < bufOff (addrOf 0 1) + 8 ∧
    bufOff (addrOf 0 0) + 8 ≤ entryLength (entryOf 0xFFFF 15 8) := by decide +kernel
theorem wit_TranslationKeys : yields (translate dev reqr (own 131064) 8 .read) (keysFrom (keyOf 320 131064) 8) = true ∧ 8 ≠ 0 ∧
    yields (checkAccess dev [] reqr (own 131064) 8 .read) (.scratch 320) = true := by decide +kernel

/-- The conditions of `Passes`. -/
def passes (s : State) (a : Word) (n cls : Nat) (acc : Acc) (reads writes : Bool) (ks : List Nat) : Bool :=
  !s.storesBefore (2 ^ cls) && yields (translate s s.who a n acc) ks && (!reads || !ks.any (keyBad s)) &&
  (!writes || keysReady s ks) && yields (ownWatch s a n reads writes) ()
theorem passes_iff (s : State) (a : Word) (n cls : Nat) (acc : Acc) (reads writes : Bool) (ks : List Nat) :
    passes s a n cls acc reads writes ks = true ↔ Passes s a n cls acc reads writes ks := by
  simp [passes, Passes, yields_iff, and_assoc]
  cases reads <;> cases writes <;> simp

/-- s1 holds a value, a1 the last doubleword of the share, where 0xFFFFFFFFFFFFFF80 stands. -/
def atEnd (v : Word := 0) : State := withOwn (dev [(1, v), (2, 0x80)] [(1, own 131064)]) 131064 (toBytes 8 (2 ^ 64 - 128))
def end8 : List Nat := keysFrom (keyOf 320 131064) 8
/-- The value promised to a register by an instruction. -/
def promised (i : Instr) (s : State) : Option Nat := ((after (exec i s)).cx.board.getLast?).bind (·.value)
/-- The eight bytes at the end of the share after an instruction. -/
def endAfter (i : Instr) (s : State) : Nat := ofBytes (memGetAll (after (exec i s)).mem end8)

theorem test_loads : promised (.ldU8 3 1 0 0) atEnd = some 0x80 ∧ promised (.ldS8 3 1 0 0) atEnd = some (2 ^ 64 - 128) ∧
    promised (.ldU16 3 1 0 0) atEnd = some 0xFF80 ∧ promised (.ldS16 3 1 0 0) atEnd = some (2 ^ 64 - 128) ∧
    promised (.ldU32 3 1 0 4) atEnd = some 0xFFFFFFFF ∧ promised (.ldS32 3 1 0 4) atEnd = some (2 ^ 64 - 1) ∧
    promised (.ld64 3 1 0 0) atEnd = some (2 ^ 64 - 128) ∧ promised (.ldacq32 3 1 0 0) atEnd = some 0xFFFFFF80 ∧
    promised (.ldacq64 3 1 0 0) atEnd = some (2 ^ 64 - 128) := by decide +kernel
theorem test_stores : endAfter (.st8 1 1 0 7) (atEnd 5) = 0x05FFFFFFFFFFFF80 ∧ endAfter (.st16 1 1 0 0) (atEnd 5) = 2 ^ 64 - 2 ^ 16 + 5 ∧
    endAfter (.st32 1 1 0 4) (atEnd 5) = 0x5FFFFFF80 ∧ endAfter (.st64 1 1 0 0) (atEnd 5) = 5 ∧
    endAfter (.strel32 1 1 0 0) (atEnd 5) = 0xFFFFFFFF00000005 ∧ endAfter (.strel64 1 1 0 0) (atEnd 5) = 5 := by decide +kernel
theorem test_atomics : endAfter (.amoAdd 3 1 2 0 1 0) atEnd = 0 ∧ promised (.amoAdd 3 1 2 0 1 0) atEnd = some (2 ^ 64 - 128) ∧
    endAfter (.amoMin 3 1 2 0 1 0) atEnd = 2 ^ 64 - 128 ∧ endAfter (.amoMin 3 1 2 0 1 1) atEnd = 0x80 ∧
    endAfter (.amoMax 3 1 2 0 1 0) atEnd = 0x80 ∧ endAfter (.amoAnd 3 1 2 0 1 0) atEnd = 0x80 ∧
    endAfter (.amoOr 3 1 1 0 0 0) (atEnd 1) = 2 ^ 64 - 127 ∧ endAfter (.amoXor 3 1 2 0 1 0) atEnd = 2 ^ 64 - 256 ∧
    endAfter (.amoSwap 3 1 2 0 0 0) atEnd = 0xFFFFFFFF00000080 ∧ endAfter (.cas 1 1 2 0 1 0) (atEnd (2 ^ 64 - 128)) = 0x80 ∧
    endAfter (.cas 1 1 2 0 1 0) (atEnd 3) = 2 ^ 64 - 128 := by decide +kernel
theorem wit_LoadsAndStores : passes atEnd (own 131071) 1 15 .read true false (keysFrom (keyOf 320 131071) 1) = true ∧
    passes atEnd (own 131070) 2 0 .read true false (keysFrom (keyOf 320 131070) 2) = true ∧
    passes atEnd (own 131068) 4 0 .read true false (keysFrom (keyOf 320 131068) 4) = true ∧
    passes atEnd (own 131064) 8 0 .read true false end8 = true ∧
    passes atEnd (own 131068) 4 0 .readWord true false (keysFrom (keyOf 320 131068) 4) = true ∧
    passes atEnd (own 131064) 8 0 .readWord true false end8 = true ∧
    passes atEnd (own 131071) 1 15 .write false true (keysFrom (keyOf 320 131071) 1) = true ∧
    passes atEnd (own 131070) 2 0 .write false true (keysFrom (keyOf 320 131070) 2) = true ∧
    passes atEnd (own 131068) 4 0 .write false true (keysFrom (keyOf 320 131068) 4) = true ∧
    passes atEnd (own 131064) 8 0 .write false true end8 = true ∧ atEnd.storesBefore 0xFFFF = false ∧
    passes atEnd (own 131068) 4 0 .writeWord false true (keysFrom (keyOf 320 131068) 4) = true ∧
    passes atEnd (own 131064) 8 0 .writeWord false true end8 = true := by decide +kernel
theorem wit_AtomicsActOnce : passes atEnd (atEnd.ra 1) 8 0 .atomic true true end8 = true ∧
    passes atEnd (atEnd.ra 1) 4 0 .atomic true true (end8.take 4) = true ∧
    ofBytes (end8.map (memGet atEnd.mem)) ≠ (atEnd.rs 1).toNat % 2 ^ 64 ∧
    ofBytes (end8.map (memGet (atEnd (2 ^ 64 - 128)).mem)) = ((atEnd (2 ^ 64 - 128)).rs 1).toNat % 2 ^ 64 := by decide +kernel
theorem wit_AccessFaults : (dev).storesBefore (2 ^ 15) = false ∧
    ([(1, .read), (8, .write), (8, .writeWord), (4, .atomic), (8, .atomic), (8, .readWord)] : List (Nat × Acc)).all (fun p =>
      fails (translate dev reqr (addrAdd ((dev).ra 1) 0) p.1 p.2) ⟨0x09, 0, 0⟩) = true := by decide +kernel
theorem test_access_fault : (after (exec (.ld64 1 1 0 0) dev)).cx.trap.tcause = 9 ∧
    (after (exec (.flwaitNe 1 1 0 0) dev)).cx.trap.tcause = 9 ∧ (after (exec (.amoAdd 2 1 1 0 0 0) dev)).cx.trap.tcause = 9 ∧
    (after (exec (.ld64 1 1 0 0) { dev with slot := 2 })).status = .trapped { origin := 1, cond := 9, slot := some 2 } := by decide +kernel

/-- A device whose stream has a paired store of class 3 still to write. -/
def pairing : State :=
  let c : RowCmd := { count := 1, cls := 3, keys := [keysFrom (keyOf 320 0) 256] }
  { devOf { cx0 with eng := { stCmds := [c], stData := [{ entry := 0, full := true, data := 7 }] } } with cycle := 1 }
/-- The same in a handler, before the row of the store has come from the replay buffer. -/
def replaying : State :=
  let x := pairing.cx
  pairing.setCtx 0 { x with eng := { x.eng with stData := [{ entry := 0 }] }, trap := { handler := true, replay := [{ due := 1, dest := .stq 0, data := 7 }] } }
theorem wit_HandlerStores : (∀ d ∈ (replaying).cx.eng.stData, (replaying).cx.canWrite d = false) ∧
    (∀ d ∈ pairing.cx.eng.stData, pairing.cx.canWrite d = true) ∧ (replaying).storesBefore 8 = false := by decide +kernel
theorem wit_FencesAndFlags : pairing.storesBefore 8 = true ∧ pairing.storesBefore 7 = false ∧
    passes (atEnd 1) ((atEnd 1).ra 1) 8 0 .atomic true true end8 = true ∧ (atEnd 1).storesBefore 0xFFFF = false ∧
    passes (atEnd 1) ((atEnd 1).ra 1) 8 0 .readWord true false end8 = true ∧ (atEnd 1).stream.met = false ∧
    ((atEnd 1).rs 1).toNat ≤ ofBytes (end8.map (memGet (atEnd 1).mem)) ∧
    ¬(ofBytes (end8.map (memGet (atEnd 1).mem)) = ((atEnd 1).rs 1).toNat) ∧
    (3, 0) ∈ pairing.cx.pairedStores.map (·.1) ∧ (0 : Nat) < pairing.cycle ∧ pairing.storesBefore (2 ^ 0) = false ∧
    pairing.storesBefore 0xFFFF = true ∧
    passes { pairing with ctxs := [(0, { pairing.cx with regs := { a := [(1, own 131064)] } })] } (own 131064) 8 0 .atomic true true end8 = true := by
  decide +kernel
theorem test_flags : endAfter (.flset 1 1 0 0) (atEnd 5) = 5 ∧ endAfter (.flsetAdd 2 1 0 0) atEnd = 0 ∧
    nextIs (exec (.flwaitGe 1 1 0 0) (atEnd 5)) (atEnd 5) = true ∧
    (after (exec (.flwaitEq 1 1 0 0) (atEnd 5))).status = .held (.flag (own 131064) 1 5) ∧
    nextIs (exec (.flwaitNe 1 1 0 0) (atEnd 5)) (atEnd 5) = true ∧ (after (exec (.fence 7 0) pairing)).fenced 8 = false ∧
    (after (exec (.fence 9 0) pairing)).fenced 1 = true ∧ (after (exec (.fence 9 0) pairing)).status = .running := by decide +kernel
/-- A stream that waits for the flag at the end of the share to hold at least 5. -/
def flagged : State := devOf { cx0 with streams := [{ wait := some ⟨.flag (own 131064) 0 5, 0, 0, 0⟩ }] }
theorem wit_FlagWritesAreSeen : (0, flagged.cx) ∈ flagged.ctxs ∧ flagged.cx.bound = true ∧
    flagged.cx.streams[0]?.bind (·.wait) = some ⟨.flag (own 131064) 0 5, 0, 0, 0⟩ ∧
    yields (translate flagged reqr (own 131064) 8 .read) (keyOf 320 131064 :: keysFrom (keyOf 320 131065) 7) = true ∧
    keyOf 320 131064 ∈ end8 ∧ keysReady flagged end8 = true ∧
    flagged.ctx 0 = flagged.cx ∧ flagged.cx.streams[0]?.map (·.met) = some false ∧
    flagMet 0 (ofBytes (memGetAll (memPutAll flagged.mem end8 (toBytes 8 5)) end8)) (5 : Word).toNat = true ∧
    yields (readNum (withOwn flagged 131064 (toBytes 8 5)) reqr (own 131064) 8 .readWord) 5 = true ∧ flagMet 0 5 (5 : Word).toNat = true := by
  decide +kernel
theorem test_flag_setter : ((storeKeys flagged (streamAgent 3 1) reqr (own 131064) end8 (toBytes 8 5)).cx.streams.map fun t => (t.met, t.wait.map (·.setter))) =
    [(true, some (streamAgent 3 1).id)] := by decide +kernel
theorem test_flag_writes : (storeKeys flagged flagged.agent reqr (own 131064) end8 (toBytes 8 5)).agenda = [.flagReevaluation 0 0] ∧
    (after (exec (.flagReevaluation 0 0) (withOwn flagged 131064 (toBytes 8 5)))).stream.met = true := by decide +kernel

/-- LDQ of the share's last row, its neighbour beyond, and a start that is no multiple of 64. -/
theorem wit_LoadQueue : (dev [] [(1, own 130816)]).storesBefore (2 ^ 3) = false ∧ (dev).cx.eng.ldCmds.length < 32 ∧
    bufOff (addrAdd (own 130816) (256 * (0 : Int))) % 64 = 0 ∧ (readMem dev reqr (own 130816) 256).isOk = true ∧
    fails (readMem dev reqr (own 131072) 256) ⟨0x0C, own 131072, 0⟩ = true ∧ bufOff (own 32) % 64 ≠ 0 := by decide +kernel
theorem wit_QueuesFull : (devOf { cx0 with eng := { ldCmds := List.replicate 32 {} } }).storesBefore 1 = false ∧
    32 ≤ (devOf { cx0 with eng := { ldCmds := List.replicate 32 {} } }).cx.eng.ldCmds.length ∧
    64 ≤ (devOf { cx0 with eng := { ldCmds := [{ count := 1 }], ldRows := List.replicate 64 {} } }).cx.eng.ldRows.length ∧
    (devOf { cx0 with eng := { ldCmds := [{ count := 2 }], ldRows := List.replicate 63 {} } }).cx.eng.ldRows.length < 64 := by decide +kernel
theorem test_ldq : let t := after (exec (.ldq 1 1 0 1) (dev [] [(1, own 130816)]))
    (t.cx.eng.ldCmds.map fun c => c.rows.map (·.tag)) = [[.fp32, .deferred]] ∧
    (after (exec (.ldqRowArrival 0) t)).cx.eng.ldRows.length = 1 := by decide +kernel
theorem wit_StoreQueue : (dev).cx.eng.stCmds.length < 32 ∧ [keysFrom (keyOf 320 130816) 256].length = (0 : BitVec 6).toNat + 1 ∧
    yields (translate dev reqr (own 130816) 256 .write) (keysFrom (keyOf 320 130816) 256) = true ∧
    yields (ownWatch dev (own 130816) 256 false true) () = true ∧ bufOff (own 130816) % 64 = 0 ∧ bufOff (own 63) % 64 ≠ 0 ∧
    pairing.cx.eng.stCmds.length = 1 ∧ pairing.cx.eng.stData = [{ entry := 0, full := true, data := 7 }] := by decide +kernel
theorem test_stqa : (after (exec (.stqa 0 1 0 1) (dev [] [(1, own 130816)]))).cx.eng.stCmds.length = 1 ∧
    (after (exec (.stqa 0 1 0 1) (dev [] [(1, own 63)]))).status = .trapped { origin := 0, cond := 0x0E, addr := own 63, slot := some 0 } ∧
    memGet (after (exec (.pairedStoreWrite 0) pairing)).mem (keyOf 320 0) = 7 := by decide +kernel

/-! Control flow. -/

/-- A stream at 0x100 of buffer 0, with open loops. -/
def streaming (ls : List LoopLevel) (pc : Word := 0x100) : State :=
  { devOf { cx0 with streams := [{ pc := pc, loops := ls }] } with npc := pcAdd pc 1 }
/-- A level over the bundle at an address, with a count. -/
def level (a : Word) (n : Word) : LoopLevel := ⟨a, a, n, 5, 3, [0x8FF0000000000000], pcAdd a 1⟩

theorem test_transfers : (after (exec (.br (BitVec.ofInt 31 (-1))) (streaming []))).npc = 0xF8 ∧
    (after (exec (.call 3 2) (streaming []))).npc = 0x110 ∧ put1 (.call 3 2) (streaming []) = some 0x108 ∧
    (after (exec (.ret 1) (two 0x2000 0))).npc = 0x2000 ∧ (after (exec (.brInd 1) (two 0x2000 0))).jumped = true ∧
    put1 (.callInd 3 1) { two 0x2000 0 with npc := 0x18 } = some 0x18 ∧
    (after (exec (.ret 1) (two 4 0))).status = .trapped { origin := 0, cond := 7, slot := some 0 } := by decide +kernel
/-- R281: predicates 1 to 3 hold 0, 1, 1. -/
theorem test_brp : let s := dev [] [] 0xC
    (after (exec (.brpAny 1 1 1) s)).jumped = true ∧ (after (exec (.brpAll 1 2 1) s)).jumped = false ∧
    (after (exec (.brpAll 2 1 1) s)).jumped = true ∧ (after (exec (.brpNone 1 0 1) s)).jumped = true ∧
    (after (exec (.brpNone 1 1 1) s)).jumped = false := by decide +kernel
theorem wit_Transfers : ((two 8 0).rs 1).toNat % 8 = 0 ∧ ((two 4 0).rs 1).toNat % 8 ≠ 0 ∧
    true ∈ (List.range 2).map (fun i => (dev [] [] 0xC).cx.p (1 + i)) ∧ false ∈ (List.range 2).map (fun i => (dev [] [] 0xC).cx.p (1 + i)) ∧
    true ∉ (List.range 1).map (fun i => (dev [] [] 0xC).cx.p (1 + i)) ∧ false ∉ (List.range 2).map (fun i => (dev [] [] 0xC).cx.p (2 + i)) := by
  decide +kernel
theorem wit_BundleEnds : (streaming []).grp < (streaming []).cx.streams.length ∧ (streaming []).jumped = false ∧
    ({ streaming [] with jumped := true } : State).jumped = true ∧ (streaming []).stream.loops = [] ∧
    (streaming [level 0x100 2]).stream.loops.getLast? = some (level 0x100 2) ∧ (level 0x100 2).last = (streaming [level 0x100 2]).stream.pc ∧
    1 < (level 0x100 2).count.toNat ∧ (level 0x100 1).count.toNat ≤ 1 ∧ (level 0x108 1).last ≠ (streaming [level 0x108 1]).stream.pc := by
  decide +kernel
theorem test_bundle_ends : (streaming [level 0x100 2]).advance.stream.loops = [level 0x100 1] ∧
    (streaming [level 0x100 2]).advance.stream.pc = 0x100 ∧ (streaming [level 0x100 1]).advance.stream.loops = [] ∧
    (streaming [level 0x100 1]).advance.stream.pc = 0x108 ∧
    ({ streaming [level 0x100 2] with npc := 0x900, jumped := true } : State).advance.stream.loops = [] := by decide +kernel
/-- A context whose level 0 updates a3 by −8 and RRB by 2. -/
def updating : Ctx := { cx0 with regs := { lupd := [(3, 2 ^ 32 - 8)], lrot := [(0, 2)], rotSize := 3, a := [(3, 16)] },
                                 pend := [{ due := 1, dest := .addr 3, data := 32 }] }
theorem wit_LoopBackUpdates : updating.forked = false ∧ updating.delta 0 3 ≠ 0 ∧ updating.regs.rotSize ≠ 0 ∧
    updating.pend.length = 1 ∧ updating.delta 0 15 = 0 ∧
    (streaming [level 0x100 2]).jumped = false ∧ (streaming [level 0x100 2]).stream.loops.getLast? = some (level 0x100 2) ∧
    ({ updating with streams := [{}, {}], ports := some (List.replicate 256 0) } : Ctx).forked = true ∧
    portBit (List.replicate 256 0) 0 14 3 = false ∧ portBit (List.replicate 256 0xFFFF) 0 14 3 = true := by decide +kernel
theorem test_loop_back : (updating.loopBack 0 0 0).pend.map (fun e => (e.dest, e.data)) =
    [(.addr 3, 24), (.special 0x012, 2)] := by decide +kernel
/-- LOOP over the bundle at 0x4008 of a placed device. -/
def looping (ls : List LoopLevel) (n : Word) : State :=
  let s := { (place (.loopReg 0 1 3)).onCtx 0 (fun x => { x with regs := { x.regs with s := [(1, n)] }, streams := [{ pc := placePc, loops := ls }] }) with npc := pcAdd placePc 1 }
  { s with mem := memPutAll s.mem (keysFrom 0x4008 8) (toBytes 8 0x8FF0000000000000) }
theorem wit_Loops : (match walkBody (looping [] 2) (looping [] 2).who [] 1 (pcAdd placePc 1) with
      | .ok (ws, l) => ws == [0x8FF0000000000000] && l == pcAdd placePc 1
      | .error _ => false) = true ∧ nests [] (pcAdd placePc 1) (pcAdd placePc 1) = true ∧
    nests [level 0x100 1] (pcAdd placePc 1) (pcAdd placePc 1) = false ∧
    (looping (List.replicate 4 (level placePc 1)) 2).stream.loops.length = 4 ∧
    ((looping (List.replicate 4 (level placePc 1)) 2).rs 1).toNat ≠ 0 ∧ (looping [] 2).stream.loops = [] ∧
    (looping [level 0x100 1] 2).stream.loops.getLast? = some (level 0x100 1) ∧
    ((looping [] 0).rs 1).toNat = 0 ∧ ((looping [] 2).rs 1).toNat ≠ 0 ∧ ({ level 0x100 1 with body := [] } : LoopLevel).body = [] ∧
    yields (fetchBundle (looping [] 2) (looping [] 2).who [] (pcAdd placePc 1)) [0x8FF0000000000000] = true ∧
    (level 0x100 1).body ≠ [] := by decide +kernel
theorem test_loop : (after (exec (.loopReg 0 1 3) (looping [] 2))).stream.loops.map (fun l => (l.start, l.last, l.count, l.id)) =
      [(pcAdd placePc 1, pcAdd placePc 1, 2, 3)] ∧ (after (exec (.loopReg 0 1 3) (looping [] 0))).npc = pcAdd placePc 2 ∧
    (after (exec (.loopImm 0 3 5) (looping [level 0x100 1] 0))).status = .trapped { origin := 0, cond := 0x1D, slot := some 0 } ∧
    (after (exec .lbrk (looping [level 0x100 1] 0))).npc = 0x108 := by decide +kernel

/-- Ports of groups 0 and 1 that do not overlap, and a forked strand of two. -/
def forkable : Ctx := { cx0 with ports := some (List.replicate 256 0) }
def forked2 (j : Bool) : State := devOf { forkable with streams := [{}, { joined := j }], map := 0x0504 }
theorem wit_ForkSplits : (devOf forkable).cx.trap.handler = false ∧ (devOf forkable).cx.forked = false ∧ mapGroups 0 = 1 ∧
    mapGroups 0x0504 ≠ 1 ∧ forkPorts cx0 2 = false ∧ forkPorts forkable 2 = true ∧ (forked2 false).cx.forked = true ∧
    (devOf { cx0 with trap := { handler := true } }).cx.trap.handler = true := by decide +kernel
theorem test_fork : (after (exec (.fork 0x0504 9 0 0) (devOf forkable))).cx.streams.map (·.pc) = [0, 72] ∧
    (after (exec (.fork 0x0504 9 0 0) dev)).status = .trapped { origin := 0, cond := 6, slot := some 0 } := by decide +kernel
theorem wit_JoinGathers : (devOf { cx0 with trap := { handler := true } }).cx.trap.handler = true ∧ (forked2 false).cx.trap.handler = false ∧ (forked2 false).cx.forked = true ∧ (dev).cx.forked = false ∧
    (1 : BitVec 4).toNat ≠ 2 ^ (forked2 false).cx.streams.length - 1 ∧ (3 : BitVec 4).toNat = 2 ^ (forked2 false).cx.streams.length - 1 ∧
    (forked2 false).grp < (forked2 false).cx.streams.length ∧ ((forked2 false).cx.streams.getD 1 {}).joined = false ∧
    ((forked2 true).cx.streams.getD 1 {}).joined = true := by decide +kernel
theorem test_join : (after (exec (.join 3) (forked2 false))).cx.streams.map (·.joined) = [true, false] ∧
    (after (exec (.join 3) (forked2 true))).cx.streams.length = 1 ∧
    (after (exec (.join 1) (forked2 true))).status = .trapped { origin := 0, cond := 0x1F, slot := some 0 } := by decide +kernel

/-- R164, R165: group 1 and group 0 both granted p0; a pad bit of the masks; groups 0 and 2. -/
def ported (byte : Nat) (v : Byte) (g h : Nat) : Ctx :=
  { cx0 with ports := some (((List.replicate 256 0).set (64 * g + byte) v).set (64 * h + byte) v) }
theorem wit_ForkPortCheck : cx0.ports = none ∧ forkable.ports.isSome = true := by decide +kernel
theorem test_fork_ports : forkPorts (ported 8 1 0 1) 2 = false ∧ forkPorts (ported 16 1 0 1) 2 = true ∧
    forkPorts (ported 24 0x80 0 2) 2 = true ∧ forkPorts (ported 24 0x80 0 2) 3 = false ∧ forkPorts (ported 12 1 0 1) 2 = true := by
  decide +kernel

/-- Gate 15 set. -/
def gated : State := devOf { cx0 with regs := { g := 0x8000 } }
theorem wit_Gates : pairing.cx.g (0 : GReg).toNat = false ∧ pairing.storesBefore 0xFFFF = true ∧ gated.cx.g (15 : GReg).toNat = true ∧ (dev).cx.g (0 : GReg).toNat = false ∧ (dev).storesBefore 0xFFFF = false := by
  decide +kernel
theorem test_gates : (after (exec (.gpost 0) gated)).cx.regs.g = 0x8001 ∧ (after (exec (.gpost 15) gated)).status = .held (.gate 2 15) ∧
    (after (exec (.gtake 15) gated)).cx.regs.g = 0 ∧ (after (exec (.gtake 0) gated)).status = .held (.gate 1 0) ∧
    nextIs (exec (.gwait 15) gated) gated = true ∧ (after (exec (.gwait 0) gated)).status = .held (.gate 0 0) ∧
    (after (exec (.gclr 15) gated)).cx.regs.g = 0 := by decide +kernel
/-- Timelines 0 and 4 with three issued and two completed. -/
def timed (n : Nat := 2) : State :=
  let t : Timeline := { issued := 3, completed := n }
  devOf { cx0 with regs := { s := [(1, 3)] }, eng := { time := [t, {}, {}, {}, t, {}, {}] } }
theorem wit_TimelineWaits : (2 : BitVec 31).toNat ≤ ((timed).cx.timeline 0).completed ∧ ((timed).cx.timeline 0).completed < (3 : BitVec 31).toNat ∧
    ((timed).cx.timeline 0).completed < ((timed).rs 1).toNat ∧ ((timed 3).rs 1).toNat ≤ ((timed 3).cx.timeline 0).completed ∧
    ((timed 3).cx.timeline 4).issued ≤ ((timed 3).cx.timeline 4).completed ∧
    ((timed).cx.timeline 4).completed < ((timed).cx.timeline 4).issued := by decide +kernel
theorem test_timelines : (after (exec (.tlwaitImm 0 3) (timed))).status = .held (.timeline 0 3) ∧
    nextIs (exec (.tlwaitReg 0 1) (timed 3)) (timed 3) = true ∧ promised (.tlget 2 0) (timed) = some 2 ∧
    (after (exec .mwait (timed))).status = .held (.steps 3) ∧ nextIs (exec .nop dev) dev = true := by decide +kernel

theorem wit_HaltAndYield : (dev).cx.trap.handler = false ∧ (dev).cx.forked = false ∧ (dev).cx.stRows = (dev).cx.eng.stData.length ∧
    (devOf { cx0 with eng := { stData := [{}] } }).cx.stRows ≠ 1 ∧ (dev).cx.eng.ldCmds = [] ∧
    ¬((devOf { cx0 with eng := { ldRows := [{}] } }).cx.eng.ldRows = []) := by decide +kernel
theorem test_halt : (after (exec .halt dev)).stream.leave = some .halt ∧ (after (exec .yield dev)).stream.leave = some .yield ∧
    (after (exec .yield (devOf { cx0 with eng := { ldRows := [{}] } }))).status = .trapped { origin := 0, cond := 0x1C, slot := some 0 } ∧
    (after (exec .halt (forked2 false))).status = .trapped { origin := 0, cond := 0x1E, slot := some 0 } := by decide +kernel
/-- A strand at HALT, of a card with two records of which n are dealt. -/
def halted (n : Nat) : State :=
  let k := toBytes 128 (setBits (setBits (setBits 0 383 352 2) 335 320 1) 319 304 1)
  { devOf { cx0 with streams := [{ leave := some .halt }] } with
    turn := [.stream 0 0], runs := [{ queue := 0, pos := 0, card := k, team := 0, peer := 0, who := reqr, dealt := n, strands := [1] }] }
/-- The same strand, whose request waits to be served. -/
def asking (n : Nat) : State := { (halted n).onCtx 0 (fun x => { x with asks := true }) with turn := [.chunk 0] }
theorem wit_HaltTakesNextChunk : (halted 1).fw = [] ∧ (halted 1).agenda = [] ∧ (halted 1).turn = [.stream 0 0] ∧
    (halted 1).cx.idle 0 ((halted 1).cx.streams.getD 0 {}) = false ∧ ((halted 1).cx.streams.getD 0 {}).leave = some .halt ∧
    (halted 1).cx.drained = true ∧ (halted 1).cx.eng.crews = [] ∧ (asking 1).fw = [] ∧ (asking 1).agenda = [] ∧
    (asking 1).turn = [.chunk 0] ∧ (asking 1).cx.bound = true ∧ (asking 1).cx.asks = true ∧
    bitOf (BitVec.ofNat 1024 (2 ^ 637)).toNat 637 = true ∧ bitsOf (BitVec.ofNat 1024 (2 ^ 637)).toNat 639 638 = 0 ∧
    Turn.request (.chunk 1) = some 1 ∧ Turn.request (.stream 0 0) = none ∧
    ([Turn.chunk 0, .event (.bindNew 2 0)].filterMap Turn.request) = [0, 2] ∧
    (match (asking 1).run? 0 0 with | some r => r.recs == [] && decide (r.dealt < cardCount (cardNum r.card)) | none => false) = true ∧
    (match (asking 2).run? 0 0 with | some r => decide (cardCount (cardNum r.card) ≤ r.dealt) | none => false) = true := by decide +kernel
theorem test_chunk : (after (step (halted 1))).cx.asks = true ∧ (after (step (halted 1))).turn = [.chunk 0] ∧
    askTurn 1 (.chunk 1) [.stream 0 0, .chunk 0, .event (.bindNew 2 0)] = [.stream 0 0, .chunk 0, .chunk 1, .event (.bindNew 2 0)] ∧
   
    ((after (step (asking 1))).ctx 0).regs.cursor = 2 ^ 32 + 1 ∧ ((after (step (asking 2))).ctx 0).bound = false := by
  decide +kernel
/-- A strand at a YIELD, asked to save or not, with a save area, engines and results in flight. -/
def yielding (ask : Bool) (area : Word := addrOf 0 0x8000) (eng : Engines := {}) (pend : List Pend := []) : State :=
  (place .yield).onCtx 0 fun x => { x with
    bind := { x.bind with save := area }, eng := eng, pend := pend, yieldAsk := ask,
    streams := [{ pc := placePc, leave := some .yield }] }
/-- Such a strand, whose save a CTXSAVE of context 1 asks for. -/
def yieldingTo (area : Word) : State :=
  let s := (yielding true).onCtx 0 fun x => { x with yieldTo := some (1, area) }
  s.setCtx 1 { s.cx with streams := [{ wait := some ⟨.save 0 0 area, 0, 0, 0⟩ }], yieldAsk := false, yieldTo := none }
/-- The save of such a strand. -/
def yieldSave (s : State) : Except MFault State :=
  ((s.popTurn []).looking 0 0).saveYield 0 (pcAdd placePc 1) (dispatchAgent 0) s.cx.bind.who s.cx.bind.save
/-- The save that the CTXSAVE asks for. -/
def yieldAsked (area : Word) : Except MFault State :=
  let v := ((yieldingTo area).popTurn []).looking 0 0
  v.saveYield 0 (pcAdd placePc 1) (streamAgent 1 0) (v.ctx 1).bind.who area
theorem wit_LeavesAndChunks : (yielding false).fw = [] ∧ (yielding false).agenda = [] ∧ (yielding false).turn = [.stream 0 0] ∧
    (yielding false).cx.idle 0 ((yielding false).cx.streams.getD 0 {}) = false ∧
    ((yielding false).cx.streams.getD 0 {}).leave = some .yield ∧ (yielding false).cx.drained = true ∧
    yields (fetchBundle (yielding false) (yielding false).cx.bind.who [] placePc) [0x8850080000000000] = true ∧
    (yielding false).cx.yieldAsk = false ∧ (yielding true (pend := [{ due := 9, dest := .scalar 1, data := 0 }])).cx.inFlight = true ∧
    (yielding true).cx.inFlight = false ∧ (yielding true).cx.yieldTo = none ∧ (yielding true).cx.eng.crews = [] ∧
    ((yielding true).cx.timeline 6).completed = ((yielding true).cx.timeline 6).issued ∧
    (yieldSave (yielding true)).isOk = true ∧ (match yieldSave (yielding true (addrOf 3 0)) with | .error e => e.cond != 0x11 | .ok _ => false) = true ∧
    (match yieldSave { yielding true with poison := [0x8000 / 64, 0x8100 / 64] } with | .error e => e.cond == 0x11 | .ok _ => false) = true ∧
    (yieldingTo (addrOf 0 0x8000)).cx.yieldTo = some (1, addrOf 0 0x8000) ∧ (yieldingTo (addrOf 0 0x8000)).fw = [] ∧
    (yieldingTo (addrOf 0 0x8000)).agenda = [] ∧ (yieldingTo (addrOf 0 0x8000)).turn = [.stream 0 0] ∧
    (yieldingTo (addrOf 0 0x8000)).cx.idle 0 ((yieldingTo (addrOf 0 0x8000)).cx.streams.getD 0 {}) = false ∧
    (yieldAsked (addrOf 0 0x8000)).isOk = true ∧ (yieldAsked (addrOf 3 0)).isOk = false ∧
    ((yieldingTo (addrOf 0 0x8000)).ctx 1).streams[0]? = some { wait := some ⟨.save 0 0 (addrOf 0 0x8000), 0, 0, 0⟩ } := by
  decide +kernel
/-- HALT waits while a copy is in flight (R99). -/
theorem test_halt_waits : (let s := (halted 1).onCtx 0 fun x => { x with eng := { queues := [[{}], [], [], []] } }
    s.cx.drained = false ∧ (after (step s)).cx = s.cx) := by decide +kernel
/-- R287, R310: a strand in a crew at HALT; a strand at YIELD asked to save, in a crew, and with an area that is not mapped. -/
theorem test_leaves : (let t := after (step ((halted 1).onCtx 0 fun x => { x with eng := { x.eng with crews := [{ crew := 5, rank := 0 }] } }))
      t.cx.eng.crews = [] ∧ t.cx.asks = true) ∧
    ((after (step (yielding true))).ctx 0).bound = false ∧
    ((after (step (yielding true (eng := { crews := [{ crew := 5, rank := 0 }] })))).ctx 0).streams.map (fun u => (u.pc, u.leave)) =
      [(pcAdd placePc 1, none)] ∧
    ((after (step (yielding true (addrOf 3 0)))).ctx 0).streams.map (·.pc) = [pcAdd placePc 1] ∧
    (let t := after (step (yieldingTo (addrOf 0 0x8000)))
     (t.ctx 0).bound = false ∧ (t.ctx 1).streams.map (·.saved) = [true]) ∧
    (let t := after (step (yieldingTo (addrOf 3 0)))
     (t.ctx 0).bound = true ∧ (t.ctx 0).yieldTo = none ∧ (t.ctx 1).streams.map (·.saved) = [false]) := by decide +kernel

/-! Traps. -/

/-- A context with a vector, enabled or not, and a result that lands in cycle 5. -/
def vectored (v : Word) : State :=
  { devOf { cx0 with trap := { tvec := v }, pend := [{ due := 5, dest := .scalar 9, data := 4 }] } with cycle := 2 }
/-- A plain trap. -/
def aTrap : Trap := { origin := 1, cond := 0x0C, addr := 7, info := 9 }
theorem wit_TrapEntry : (vectored 0x801).cx.trap.handler = false ∧
    (let q := ((vectored 0x801).note 0 1 (aTrap.cause * 4)).quiesce 0
     let x := q.trapped 0 0 aTrap
     (saveMem q q.agent x.bind.who (x.saveAt 0x200) (x.frame x.mode x.streams)).isOk &&
     (q.ctx 0).trap.tvec.toNat % 2 == 1) = true ∧
    ((((vectored 0x800).note 0 1 (aTrap.cause * 4)).quiesce 0).ctx 0).trap.tvec.toNat % 2 = 0 ∧
    (∀ e ∈ (vectored 0x801).cx.pend, (vectored 0x801).cycle < e.due ∧ e.dest.isType = false ∧ e.internal = false) := by decide +kernel
/-- R322, R323, R329: TCAUSE, the frame's first word, the handler at TVEC, three cycles left of five. -/
theorem test_trap_entry : let t := (vectored 0x801).takeTrap aTrap
    t.cx.trap.tcause = 0x4C ∧ t.cx.trap.taddr = 7 ∧ t.cx.trap.tinfo = 9 ∧ t.cx.trap.handler = true ∧ t.cx.priv = true ∧
    t.cx.streams.map (·.pc) = [0x800] ∧ t.cx.trap.replay.map (·.due) = [3] ∧
    ofBytes (memGetAll t.mem (keysFrom (keyOf 320 0x10200) 8)) = 0x4C ∧ ofBytes (memGetAll t.mem (keysFrom (keyOf 320 0x102A8) 8)) = 2 ∧ ((vectored 0x800).takeTrap aTrap).cx.trap.stopped = true := by
  decide +kernel
/-- A context in its handler, with a frame of zeros. -/
def handling : State := devOf { cx0 with trap := {
    handler := true, tpc := [0x40, 0, 0, 0], kept := [(57, 3)], replay := [{ due := 2, dest := .scalar 5, data := 8 }] } }
/-- A context whose trap frame cannot be written. -/
def frameless : State := devOf { cx0 with bind := { cx0.bind with save := addrOf 3 0 } }
theorem wit_DoubleFault : handling.cx.trap.handler = true ∧ frameless.cx.trap.handler = false ∧
    (let q := (frameless.note 0 1 (aTrap.cause * 4)).quiesce 0
     let x := q.trapped 0 0 aTrap
     (saveMem q q.agent x.bind.who (x.saveAt 0x200) (x.frame x.mode x.streams)).isOk) = false := by decide +kernel
/-- R329: word 4 of the record has origin V0 with 0x2E, bit 10, and the cause of the trap in the handler. -/
theorem test_double_fault : (let t := handling.takeTrap aTrap
      t.cx.bound = false ∧ ofBytes (memGetAll t.mem (keysFrom (keyOf 320 0x10020) 8)) = 0x4C46E) ∧
    (frameless.takeTrap aTrap).cx.bound = false ∧ .saveFailed 0 [0x4C82C, 0, 0, 0] ∈ (frameless.takeTrap aTrap).told := by decide +kernel
/-- A strand of a card with a command, a route and an operation under way, a card queued in this cycle, and its run. -/
def working : State :=
  { devOf { cx0 with
      eng := { queues := [[{}, {}], [], [], [{}]], ops := [{}], routes := [{}, { done := true }], posted := [(0, 4, 7), (0, 3, 6)] },
      pend := [{ due := 9, dest := .scalar 9, data := 4 }], regs := { g := 3 } } with
    cycle := 7, jobqs := [(0, { tail := 5 })],
    runs := [{ queue := 0, pos := 0, card := toBytes 128 0, team := 0, peer := 0, who := reqr, dealt := 1, strands := [1, 2] }] }
theorem wit_TeardownRecord : (let x := working.cx
     let u := (working.unpost x).abandon 0
     (saveMem u (dispatchAgent 0) x.bind.who (x.saveAt 32) ([0, 3, 2 ^ 32 + 1, 1].flatMap (toBytes 8))).isOk) = true ∧
    (let x := frameless.cx
     let u := (frameless.unpost x).abandon 0
     (saveMem u (dispatchAgent 0) x.bind.who (x.saveAt 32) ([0, 0, 0, 0].flatMap (toBytes 8))).isOk) = false ∧
    (working.run? 0 0).isSome = true ∧ (({ tail := 5 } : JobQ).tail = 4 + 1) ∧ ({ tail := 5 } : JobQ).tail ≠ 3 + 1 := by decide +kernel
theorem test_teardown_record : (let t := working.tearDown 0 0
      (t.ctx 0).bound = false ∧ (List.range 4).map (fun i => ofBytes (memGetAll t.mem (keysFrom (keyOf 320 (0x10020 + 8 * i)) 8))) =
        [0, 3, 2 ^ 32 + 1, 1] ∧ (Tab.get ({} : JobQ) t.jobqs 0).tail = 4 ∧ t.runs.map (fun r => (r.strands, r.torn)) = [([2], true)]) ∧
    (((working.unpost working.cx).abandon 0).ctx 0).s 9 = 4 := by decide +kernel
theorem test_svc : let t := after (exec (.svc 0x2A) { vectored 0x801 with npc := 0x48 })
    t.cx.trap.tinfo = 0x2A ∧ t.cx.trap.tcause = 0x26 ∧ t.cx.trap.tpc.head? = some 0x48 := by decide +kernel
theorem wit_TrapReturn : handling.cx.priv = true ∧ (readFrame handling handling.cx).isOk = true ∧ (dev).cx.priv = false ∧
    (devOf { cx0 with bind := { cx0.bind with priv := true } }).cx.priv = true ∧
    (devOf { cx0 with bind := { cx0.bind with priv := true } }).cx.trap.handler = false ∧
    (∀ p ∈ handling.cx.trap.kept, p.1 ≠ 56 + 0) := by decide +kernel
theorem test_trapret : let t := after (exec .trapret handling)
    t.cx.streams.map (·.pc) = [0x40] ∧ t.cx.s 57 = 3 ∧ t.cx.s 56 = 0 ∧ t.cx.trap.handler = false ∧ t.cx.priv = false ∧
    t.cx.pend.map (·.due) = [3] := by decide +kernel
theorem wit_PrivilegedInUserMode : (dev).cx.bind.priv = false ∧ (dev).cx.trap.handler = false ∧
    Instr.trapret ∈ [Instr.trapret, .ctxsave 0 0 0, .ctxload 0 0 0, .tinv 0 0 0] := by decide
/-- The device's context in privileged mode, with scalar 1 and address register 1. -/
def privs (v : Word) (a : Word := 0) (x : Ctx := cx0) : State :=
  devOf { x with bind := { x.bind with priv := true }, regs := { s := [(1, v)], a := [(1, a)] } }
theorem wit_Invalidations : (privs 0x50001).cx.priv = true ∧ ((privs 0x50001).rs 1).toNat < 2 ^ 32 ∧
    ((privs 0x5FDFF).rs 1).toNat % 2 ^ 16 < 0xFE00 ∧
    ((privs 0).invalidate 0).marks.all (fun m => decide (m.team = 0) && ((privs 0).invalidate 0).passed m) = true := by decide +kernel
theorem test_tinv : (after (exec (.tinv 1 2 0) (privs 0x50001))).inv = [(5, 1)] ∧
    (after (exec (.firmwareInvalidation 0x50001 0 0) dev)).drained 5 = 1 ∧
    (after (exec (.tinv 1 2 0) dev)).status = .trapped { origin := 0, cond := 3, slot := some 0 } := by decide +kernel

/-- A context with notices 3 and 15 pending, 15 enabled; a watch hit pending; a stream at a gate. -/
def noticed (e : BitVec 16) : State := devOf { cx0 with
  trap := { enable := e, pending := 0x8008 }, probe := { watch := [{}, { pending := true, hitAddr := 5, origin := 2 }, {}, {}] } }
def stuck : State := devOf { cx0 with streams := [{ wait := some ⟨.gate 1 0, 0, 0, 0⟩ }] }
/-- A copy and an operation that have stopped with traps to take. -/
def broken : State := devOf { cx0 with eng := {
    queues := [[], [{ stopped := true, trap := some { origin := 2, cond := 9, engine := true } }], [], []],
    ops := [{ stopped := true, trap := some { origin := 4, cond := 0x13, engine := true } }] } }
theorem wit_AsynchronousTraps : (noticed 0x8000).cx.bound = true ∧ (noticed 0x8000).cx.mayTrap = true ∧
    ((noticed 0x8000).cx.trap.enable &&& (noticed 0x8000).cx.trap.pending).getLsbD 15 = true ∧
    (∀ i, i < 15 → ((noticed 0x8000).cx.trap.enable &&& (noticed 0x8000).cx.trap.pending).getLsbD i = false) ∧
    handling.cx.mayTrap = false ∧ (noticed 0).cx.probe.watch[1]?.map (·.pending) = some true ∧
    (noticed 0).cx.probe.watch[0]?.map (·.pending) = some false ∧
    stuck.cx.bound = true ∧ stuck.cx.trap.stopped = false ∧ stuck.cx.freeze = false ∧ stuck.cx.eng.exits = 0 ∧
    stuck.cx.streams.map (·.wait) = [some ⟨.gate 1 0, 0, 0, 0⟩] ∧ stuck.cx.g 0 = false ∧ stuck.cx.streams[0]?.map (·.joined) = some false ∧
    broken.cx.mayTrap = true ∧ broken.cx.engineTrap?.map (·.1.cond) = some 9 := by decide +kernel
/-- A strand whose exit record is being posted; told to take a trap, or with exits none more on their way. -/
def answering (exits : Nat) (t : Option (Nat × Trap) := none) (turn : List Turn := []) : State :=
  { devOf { cx0 with eng := { exits := exits }, trapping := t, trap := { enable := 0x8000, pending := 0x8008 } } with turn := turn }
theorem wit_TrapsWait : (answering 1).cx.answerDue = true ∧ (answering 0).cx.answerDue = false ∧
    (answering 1).cx.mayTrap = true ∧ (answering 1 (some (0, aTrap))).cx.mayTrap = false ∧
    ((answering 1 (some (0, aTrap)) [.scan 0]).ctx 0).trapping = some (0, aTrap) ∧
    ((answering 0 (some (0, aTrap)) [.scan 0]).ctx 0).answerDue = false ∧ (answering 0 none [.service 0 0 aTrap]).fw = [] ∧
    (answering 0 (some (0, aTrap)) [.scan 0]).agenda = [] ∧ (answering 0 (some (0, aTrap)) [.scan 0]).turn = [.scan 0] := by decide +kernel
theorem test_trap_waits : (let t := (after (exec (.noticeTrap 0) (answering 1))).cx
      t.trapping.map (·.2.cond) = some 0x3F ∧ t.trap.tcause = 0 ∧ t.trap.handler = false) ∧
    (after (step (answering 1 (some (0, aTrap)) [.scan 0]))).cx.trap.tcause = 0 ∧
    (after (step (answering 0 (some (0, aTrap)) [.scan 0]))).cx.trap.stopped = true ∧
    (after (step (answering 0 none [.service 0 0 aTrap]))).cx.trap.stopped = true := by decide +kernel
theorem test_asynchronous : (after (exec (.noticeTrap 0) (noticed 0x8000))).cx.trap.tcause = 0x1003F ∧
    (after (exec (.noticePost 0 2) dev)).cx.trap.pending = 4 ∧
    (after (exec (.agentWatchTrap 0) (noticed 0))).cx.trap.tcause = 0x100A8 ∧
    (after (exec (.streamDeadlock 0) stuck)).cx.trap.tcause = 0x10020 ∧
    (after (exec (.engineTrap 0) broken)).cx.trap.tcause = 0x20089 := by decide +kernel

/-- R338's example: loop 5 of 16 passes, LCNT 14 after pass 2, p12 and p13 true; the stream's turn. -/
def pausing : State :=
  let s := devOf { cx0 with regs := { p := 0x3000 }, probe := { dbgctl := 0x00000003158C0001 },
                            streams := [{ checkStop := true, loops := [⟨0x100, 0x100, 14, 16, 5, [], 0x108⟩] }] }
  { s with turn := [.stream 0 0] }
/-- Watch 1 on writes and agents: 16 bytes from offset 0x100 of the unit scratchpad, of which agents may have written. -/
def watchW (pending : Bool := false) : Watch := { base := own 0x100, length := 15, write := true, agent := true, pending := pending, hits := 255 }
def watched (exempt : Bool := false) : State :=
  dev |>.onCtx 0 fun x => { x with probe := { x.probe with watch := [{}, watchW, watchW, {}] }, streams := [{ exempt := exempt }] }
/-- A stall at gate 2 of 9 cycles from cycle 3 on, and a log of 16 records at 0x4000 with 17 written. -/
def stall1 : Wait := ⟨.gate 1 2, 7, 3, 5⟩
def waitLog (threshold : Nat) (base : Word := own 0x4000) (on : Bool := true) : State :=
  let s := devOf { cx0 with probe := { wlbase := base, wlThreshold := threshold, wlEnable := on, wlpos := 17 }, streams := [{ pc := 0x80, wait := some stall1 }] }
  { s with cycle := 12 }
theorem wit_WatchesAndStops : (pausing).fw = [] ∧ (pausing).agenda = [] ∧ (pausing).turn = [.stream 0 0] ∧ (pausing).cx.idle 0 (pausing).stream = false ∧
    (pausing).stream.leave = none ∧ (pausing).stream.barrier = none ∧ (pausing).cx.answerDue = false ∧ (pausing).cx.forked = false ∧
    (pausing).stream.checkStop = true ∧ (debugStop (pausing).cx (pausing).stream).isSome = true ∧ (watchW).agent = true ∧ (watchW true).pending = true ∧ (watchW).pending = false ∧
    (watchHit watchW reqr 0 0 (own 0xF9) 8).isSome = true ∧ (watchHit watchW reqr 0 0 (own 0xF8) 8).isNone = true ∧ (watched).stream.exempt = false ∧ (watched true).stream.exempt = true ∧
    (watched).cx.probe.watch = [({} : Watch)] ++ watchW :: [watchW, {}] ∧ (watched).cx.bound = true ∧ stall1.hold.logged = some (1, 2) ∧
    (waitLog 9).cx.probe.wlThreshold ≤ 12 - stall1.cycle ∧ 12 - stall1.cycle < (waitLog 10).cx.probe.wlThreshold ∧ (dev).stream.wait = none ∧
    (waitLog 9 (own 0x4000) false).cx.probe.wlEnable = false ∧ (9 : Nat) < 16 ∧ (4095 : Nat) < 4096 ∧ (3 : Nat) < 4 := by decide +kernel
theorem test_debug_stop : (match step pausing with | .next t => some (t.cx.trap.tinfo, t.cx.probe.dbgctl, t.cx.trap.tcause) | _ => none) =
    some (0x00000003140C0000, 0x00000003158C0000, 0x29) := by decide +kernel
theorem test_watches : watchHit watchW reqr 0 0 (own 0xF9) 8 = some (own 0x100) ∧ watchHit watchW reqr 0 0 (own 0x10F) 8 = some (own 0x10F) ∧
    watchHit watchW reqr 0 0 (own 0x110) 8 = none ∧ watchHit watchW reqr 0 0 (addrOf 0xFE00 0x108) 1 = some (own 0x108) ∧ watchHit watchW reqr 0 1 (own 0x108) 1 = none ∧
    fails (ownWatch watched (own 0x104) 8 false true) (watched.fault 0x27 (own 0x104) 1) = true ∧ yields (ownWatch watched (own 0x104) 8 true false) () = true ∧
    yields (ownWatch (watched true) (own 0x104) 8 false true) () = true ∧ (watchW true).see (streamAgent 1 0) reqr 0 0 (own 0x108) 1 = watchW true ∧
    ((noteWatches watched (streamAgent 1 0) 0 0 (own 0x108) 1).cx.probe.watch.map (·.pending)) = [false, true, true, false] ∧
    ((noteWatches watched (streamAgent 0 0) 0 0 (own 0x108) 1).cx.probe.watch.map (·.pending)) = [false, false, false, false] := by decide +kernel
theorem test_wait_log : ((waitLog 9).logWait 0 0 stall1 0).cx.probe.wlpos = 18 ∧ (waitLog 10).logWait 0 0 stall1 0 = waitLog 10 ∧
    memGetAll ((waitLog 9).logWait 0 0 stall1 0).mem (keysFrom (keyOf 320 0x4040) 41) =
      toBytes 8 7 ++ toBytes 4 9 ++ [1, 0, 0, 0] ++ toBytes 8 2 ++ toBytes 8 5 ++ toBytes 8 0x80 ++ [0] ∧
    ((waitLog 9 (addrOf 1 0)).logWait 0 0 stall1 0).cx.probe.wlError = true ∧ (agentId 2 3 1 (2 ^ 44 + 7)).toNat = 2 * 2 ^ 60 + 3 * 2 ^ 48 + 2 ^ 46 + 2 ^ 44 + 7 := by
  decide +kernel

/-! Scheduling. -/

/-- A bind record for slot 1: save area, NVER, card position 0 of queue 0. -/
def rec1 (nver : Nat := 3) (q : Nat := 0) : BitVec 1024 :=
  BitVec.ofNat 1024 (q * 2 ^ 1000 + (own 0x30000).toNat * 2 ^ 888 + nver * 2 ^ 642 + 5 * 2 ^ 632)
/-- A card with 3 records, chunks of 2, its kernel header and entry in slot 1's share. -/
def card3 : List Byte := toBytes 128 (setBits (setBits (setBits (setBits 0 383 352 3) 335 320 2) 319 304 2) 575 512 (own 0x20000).toNat)
/-- A device with a card's run, of which some records are dealt, and slot 1 free. -/
def carded (card : List Byte) (dealt : Nat := 0) : State :=
  { dev with runs := [{ queue := 0, pos := 0, card := card, team := 0, peer := 0, who := reqr, dealt := dealt }] }
def dispatching : State := carded card3
/-- That device with a kernel header or a port record in which a reserved field is set, and without a header to be read. -/
def badHeader : State := withOwn dispatching 0x20001 [0x10]
def badPorts : State := { dispatching with portRecs := [((cardHeader (cardNum card3)).toNat, List.replicate 256 1)] }
def noHeader : State := carded (toBytes 128 (setBits (cardNum card3) 575 512 (addrOf 5 0).toNat))
theorem wit_SlotRefusals : bitsOf (1 : BitVec 1024).toNat 631 0 ≠ 0 ∧ bitsOf (BitVec.ofNat 1024 (2 ^ 1010)).toNat 1023 1010 ≠ 0 ∧
    bitsOf (rec1).toNat 631 0 = 0 ∧ bitsOf (rec1).toNat 1023 1010 = 0 ∧ bitsOf (rec1).toNat 1009 1000 < 0x10E ∧
    State.reset.readyT.getLsbD (1 / 16) = false ∧ (dispatching).readyT.getLsbD (1 / 16) = true ∧
    poolSlots (({ dev with pool := [(0, 1)] } : State).poolOf 0) ≤ 5 % 16 ∧ 1 % 16 < poolSlots ((dispatching).poolOf (1 / 16)) ∧
    (dispatching.ctx 0).bound = true ∧ (dispatching.ctx 1).bound = false ∧ bitsOf (rec1 0).toNat 643 642 = 0 ∧
    ¬(bitsOf (rec1 3 0x10E).toNat 1009 1000 < 0x10E ∨ bitsOf (rec1 3 0x10E).toNat 1009 1000 = 0x1FF) ∧
    bitsOf (rec1 3 0x1FF).toNat 1009 1000 = 0x1FF ∧ dispatching.trip = false ∧
    (dispatching.findRun 1 (dieOf 0) 0).isSome = false ∧ cardCount (cardNum card3) ≤ 3 ∧
    reservedField (cardNum card3) cardReserved = none ∧ (reservedField (setBits (cardNum card3) 1023 1023 1) cardReserved).isSome = true ∧
    (readNum noHeader (recordWho noHeader 1 (rec1).toNat) (addrOf 5 0) 64).isOk = false ∧
    (match readNum badHeader (recordWho badHeader 1 (rec1).toNat) (cardHeader (cardNum card3)) 64 with
      | .ok h => (reservedField h headerReserved).isSome
      | .error _ => false) = true ∧
    ((badPorts.portRecord (cardHeader (cardNum card3)) 0).map portsReserved).getD false = true := by decide +kernel
theorem test_slot_refusals : slotStatus (after (exec (.bindNew 1 1) dispatching)) 1 = 8 ∧
    slotStatus (after (exec (.bindNew 1 (rec1)) State.reset)) 1 = 9 ∧ slotStatus (after (exec (.bindNew 5 (rec1)) { dev with pool := [(0, 1)] })) 5 = 2 ∧
    slotStatus (after (exec (.bindNew 0 (rec1)) dispatching)) 0 = 3 ∧ slotStatus (after (exec (.bindNew 1 (rec1 0)) dispatching)) 1 = 4 ∧
    slotStatus (after (exec (.swapOut 1 (rec1)) dispatching)) 1 = 7 ∧ slotStatus (after (exec (.tearDown 0 (rec1 3 0x10E)) dispatching)) 0 = 8 ∧
    slotStatus (after (exec (.bindNew 1 (rec1)) badHeader)) 1 = 8 ∧ slotStatus (after (exec (.bindNew 1 (rec1)) badPorts)) 1 = 8 ∧
    slotStatus (after (exec (.bindNew 1 (rec1)) noHeader)) 1 = 5 ∧
    slotStatus (after (exec (.bindNew 1 (rec1)) (carded (toBytes 128 (setBits (cardNum card3) 1023 1023 1))))) 1 = 8 ∧
    slotStatus (after (exec (.bindNew 1 (rec1)) (carded card3 3))) 1 = 6 := by decide +kernel
theorem wit_BindsAtFirst : slotRefusal dispatching 1 (rec1).toNat = none ∧ bitsOf (rec1).toNat 643 642 ≠ 0 ∧
    reservedField (cardNum card3) cardReserved = none ∧ reservedField 0 headerReserved = none ∧
    (dispatching.findRun (bitsOf (rec1).toNat 1009 1000) (dieOf 0) (bitsOf (rec1).toNat 999 952)).isSome = true ∧
    0 < cardCount (cardNum card3) ∧ yields (readNum dispatching (recordWho dispatching 1 (rec1).toNat) (cardHeader (cardNum card3)) 64) 0 = true ∧
    yields (readNum dispatching (recordWho dispatching 1 (rec1).toNat) (own 0x30000) 8) 0 = true ∧
    ((dispatching.portRecord (cardHeader (cardNum card3)) 0).map portsReserved).getD false = false := by decide +kernel
theorem test_bind : let t := after (exec (.bindNew 1 (rec1)) dispatching)
    slotStatus t 1 = 1 ∧ (t.ctx 1).bound = true ∧ (t.ctx 1).regs.cursor = 2 ^ 33 ∧ (t.ctx 1).regs.nver = 3 := by decide +kernel
/-- A device where team 5 held slot 1's share last, with a byte in it. -/
def foreignShare : State := { withOwn dispatching 0x38000 [7] with holder := [(1, 5)] }
theorem wit_ForeignShare : 1 ∈ shareUnits (foreignShare.poolOf 0) 1 ∧ Tab.find? foreignShare.holder 1 = some 5 ∧
    bitsOf (rec1).toNat 791 776 = 0 ∧ Tab.find? dispatching.holder 1 = none := by decide +kernel
theorem test_foreign_share : memGet (after (exec (.bindNew 1 (rec1)) foreignShare)).mem (keyOf 320 0x38000) = 0 ∧
    memGet (after (exec (.bindNew 1 (rec1)) { foreignShare with holder := [(1, 0)] })).mem (keyOf 320 0x38000) = 7 := by decide +kernel

/-- A context that declares no rows and scratch, with a save area that holds a freeze save. -/
def savable (q : List Cmd := []) : State := devOf { cx0 with
  bind := { cx0.bind with who := { reqr with usSize := 2 ^ 21 }, rows := 0, scalars := 0 }, eng := { queues := [q, [], [], []] } }
/-- The device with a yield save at slot 1's save area. -/
def restorable : State :=
  withOwn dispatching 0x30008 (toBytes 8 0x101)
/-- The swappable context, asked to stop and stopped. -/
def frozen (q : List Cmd := []) (x : Ctx → Ctx := id) : State := (((savable q).onCtx 0 x).freezeStart 0 none).freezeNow 0
/-- A save area in the unit share's hole. -/
def astray (x : Ctx) : Ctx := { x with bind := { x.bind with save := addrOf 5 0 } }
/-- A save area in a buffer of which the table cannot be read without error: its stack is not ready. -/
def unready (x : Ctx) : Ctx := { x with bind := { x.bind with save := addrOf 0 0, who := { x.bind.who with btCount := 1 } } }
def lame : State := { (frozen [] unready) with readyM := 0 }
/-- A context whose stop stands next in the walk, with a result in flight. -/
def stopping : State := { (((savable).onCtx 0 fun x => { x with pend := [{ due := 5, dest := .scalar 9, data := 4 }] }).freezeStart 0 none)
  with turn := [.freeze 0] }
theorem wit_SlotActions : (savable).trip = false ∧ bitsOf (rec1).toNat 1009 1000 < 0x10E ∧ bitsOf (rec1).toNat 1023 1010 = 0 ∧
    ({ dev with trip := true } : State).trip = true ∧ ((savable).ctx 3).bound = false ∧
    stopping.fw = [] ∧ stopping.agenda = [] ∧ stopping.turn = [.freeze 0] ∧ (stopping.ctx 0).bound = true ∧
    (stopping.ctx 0).freezeAsk = true ∧ (stopping.ctx 0).pend = [{ due := 5, dest := .scalar 9, data := 4 }] ∧ stopping.cycle < 5 ∧
    ((frozen).ctx 0).freeze = true ∧ ((frozen).ctx 0).settled = true ∧ ((savable).ctx 0).freeze = false ∧
    (match (frozen [] astray).saveFreeze 0 (dispatchAgent 0) reqr (addrOf 5 0) with | .ok _ => 0 | .error f => f.cond) = 0x08 ∧
    (match lame.saveFreeze 0 (dispatchAgent 0) (lame.ctx 0).bind.who (addrOf 0 0) with | .ok _ => 0 | .error f => f.cond) = 0x11 ∧
    bitsOf (rec1).toNat 631 0 = 0 ∧ ((savable).ctx 0).bound = true ∧ ((frozen [{}]).ctx 0).settled = false ∧
    ((frozen).saveFreeze 0 (dispatchAgent 0) (savable).who (own 0x10000)).isOk = true ∧
    slotRefusal dispatching 1 (rec1).toNat = none ∧
    (dispatching.restoreTo 1 (recordBind dispatching 1 (rec1).toNat 0 0) (own 0x30000)
      (recordWho dispatching 1 (rec1).toNat) 3 false).isOk = false ∧ slotRefusal restorable 1 (rec1).toNat = none ∧
    (restorable.restoreTo 1 (recordBind restorable 1 (rec1).toNat 0 0) (own 0x30000)
      (recordWho restorable 1 (rec1).toNat) 3 false).isOk = true := by decide +kernel
theorem test_slot_actions : (after (exec (.swapOut 0 (rec1)) (savable [{}]))).again.length = 1 ∧
    slotStatus (after (exec (.tearDown 0 (rec1)) dev)) 0 = 1 ∧ ((after (exec (.hang 0) dev)).ctx 0).bound = false ∧
    ((after (exec (.freezeRequest 0) (savable))).ctx 0).freezeAsk = true ∧ ((after (exec (.swapOut 0 (rec1)) (frozen))).ctx 0).bound = false ∧
    ((after (step stopping)).ctx 0).freeze = true ∧ ((after (step stopping)).ctx 0).trap.replay.map (·.due) = [5] ∧
    ((after (exec (.swapOut 0 (rec1)) lame)).ctx 0).bound = false ∧ ((after (exec (.swapOut 0 (rec1)) (frozen [] astray))).ctx 0).bound = true ∧
    slotStatus (after (exec (.restore 1 (rec1)) dispatching)) 1 = 5 ∧ slotStatus (after (exec (.restore 1 (rec1)) restorable)) 1 = 1 := by decide +kernel

/-- A slot 1 that stands frozen, or trap-stopped, beside a privileged context 0. -/
def beside (f t : Bool) (v : Word) (a : Word) (usize : Nat := 2 ^ 21) : State :=
  let s := privs v a { cx0 with bind := { cx0.bind with who := { reqr with usSize := usize } } }
  let y := ((savable).ctx 0)
  { s with ctxs := s.ctxs ++ [(1, { y with freeze := f, trap := { stopped := t } })] }
/-- A frozen context with registers, and the sections of its save. -/
def fullSave : State := ((frozen).onCtx 0 fun x => { x with
    regs := { x.regs with s := [(9, 0x99)], rows := [(3, ⟨.bf16, 5⟩)] }, bind := { x.bind with rows := 16, scalars := 8 },
    trap := { x.trap with replay := [{ due := 3, dest := .row 7, data := 6, group := 2, slot := 5, latch := true, ind := 9, tag := .fp32 }] } })
def savedFull : List (Nat × List Byte) :=
  let x := fullSave.cx.declared
  freezeParts x (x.frame x.mode x.streams) [] ++ [(8, headerWords x 0 2 24)]
/-- A number in a section. -/
def savedAt (sect i n : Nat) : Nat := ofBytes ((((savedFull.lookup sect).getD []).drop i).take n)
theorem wit_SavesAreWritten : (fullSave.saveFreeze 0 (dispatchAgent 0) fullSave.who (own 0x20000)).isOk = true ∧
    ((savable).saveYield 0 0x88 (dispatchAgent 0) (savable).who (own 0x10000)).isOk = true ∧
    (saveMem (savable) (dispatchAgent 0) (savable).who (own 0) [1]).isOk = true ∧
    fails (translate (savable) (savable).who (addrOf 3 0) 1 .write) ⟨0x08, addrOf 3 0, 0⟩ = true := by decide +kernel
/-- R326, R328, R329: header words 1 and 2, s9, the replay entry's header, o0's tag, the tag of row 3, row 3. -/
theorem test_save_layout : savedAt 8 0 8 = 0x102 ∧ savedAt 8 8 8 = 0 ∧ savedAt 0x600 72 8 = 0x99 ∧
    savedAt 0x10900 0 16 = 4 * 2 ^ 60 + 3 * 2 ^ 55 + 2 * 2 ^ 53 + 5 * 2 ^ 50 + 2 ^ 49 + 9 * 2 ^ 44 + 1 * 2 ^ 40 + 7 ∧
    savedAt 0x10900 16 1 = 6 ∧ savedAt 0x22D00 1 1 = 0x30 ∧ savedAt 0x23100 768 2 = 5 := by decide +kernel

theorem wit_ContextSave : (beside true false 1 (own 0)).cx.priv = true ∧ (beside true false 1 (own 0)).stream.saved = false ∧
    2 ^ 12 ≤ ((beside true false 4096 0).rs 1).toNat ∧ ((beside true false 1 0).rs 1).toNat < 2 ^ 12 ∧ 1 ≠ (dev).me ∧
    ((beside true false 1 0).ctx 1).bound = true ∧ ((beside true false 1 0).ctx 2).bound = false ∧ (own 128).toNat % 256 ≠ 0 ∧
    (own 256).toNat % 256 = 0 ∧ (checkRange (beside true false 1 0 131072) (beside true false 1 0 131072).who (own 256) 0x63100 .write).isOk = false ∧
    yields (checkRange (beside true false 1 0) (beside true false 1 0).who (own 256) 0x63100 .write) () = true ∧
    (readMem (beside true false 1 0) (beside true false 1 0).who (own 256) 0x180 .write).isOk = true ∧
    ((beside true false 1 0).ctx 1).trap.stopped = false ∧
    (((beside true false 1 0).ctx 1).freeze && ((beside true false 1 0).ctx 1).settled) = true ∧
    (((beside false false 1 0).ctx 1).freeze && ((beside false false 1 0).ctx 1).settled) = false ∧
    fails (writeParts (beside true false 1 0) (dispatchAgent 0) reqr (own 256) [(0x1FF00, [1])]) ⟨0x0C, own 0x20000, 0⟩ = true := by
  decide +kernel
theorem test_ctxsave :
    (after (exec (.ctxsave 1 1 0) (beside true false 1 (own 256)))).status = .held (.save 1 0 (own 256)) ∧
    (after (exec (.ctxsave 1 1 2) (beside true false 1 (own 256)))).status = .trapped { origin := 0, cond := 0x2B, slot := some 0 } := by decide +kernel
/-- A privileged context, a free slot, and the image of a yield save whose block is zeros. -/
def reloaded : State :=
  let s := privs 1 (own 256)
  withOwn { s with yields := [cx0] } 264 (toBytes 8 0x101)
theorem wit_ContextLoad : reloaded.cx.priv = true ∧ (reloaded.ctx 1).bound = false ∧ 1 % 16 < poolSlots (reloaded.poolOf 0) ∧
    (match readMem reloaded reloaded.who (own 256) 32 with
      | .ok h => bitsOf (wordAt h 1) 15 8 == 1 && wordAt h 1 % 4 == (0 : BitVec 2).toNat + 1
      | .error _ => false) = true ∧
    (match readMem reloaded reloaded.who (own 256) 32 with
      | .ok h => (match reloaded.savedAt reloaded.who 1 (own 256) h with
        | .ok (some old) => old.bind.pool == reloaded.poolOf 0
        | _ => false)
      | .error _ => false) = true ∧
    (match readMem reloaded reloaded.who (own 256) 32 with
      | .ok h => (match ({ reloaded with yields := [] } : State).savedAt reloaded.who 1 (own 256) h with
        | .ok (some _) => true
        | _ => false)
      | .error _ => false) = true ∧
    yields (reloaded.savedAt reloaded.who 1 (own 0) (List.replicate 32 0)) none = true ∧
    (readMem reloaded reloaded.who (own 256) 128).isOk = true ∧ (readMem reloaded reloaded.who (addrOf 3 0) 32).isOk = false ∧
    (reloaded.savedAt reloaded.who 1 (own 0x1FF80) (wordsBytes [0, 0x101])).isOk = false ∧
    (reloaded.restoreTo 1 cx0.bind (own 256) reloaded.who 3 false).isOk = true ∧
    fails (reloaded.restoreTo 1 cx0.bind (own 0x1FF80) reloaded.who 3 false) ⟨0x2D, own 0x1FF80, 0⟩ = true ∧
    fails (reloaded.restoreTo 1 cx0.bind (addrOf 3 0) reloaded.who 3 false) ⟨0x08, addrOf 3 0, 0⟩ = true := by decide +kernel
theorem test_ctxload : ((after (exec (.ctxload 1 1 0) reloaded)).ctx 1).bound = true ∧
    (after (exec (.ctxload 1 1 2) reloaded)).status = .trapped { origin := 0, cond := 0x2D, addr := own 256, slot := some 0 } := by decide +kernel
/-- A strand saved at its YIELD, its program counter after it. -/
def yielded : State := match (savable).saveYield 0 0x88 (dispatchAgent 0) (savable).who (own 0x10000) with | .ok t => t | .error _ => dev
theorem wit_RestoreGivesBack : yields (translate yielded yielded.who (own 0x10000) 1 .read) [keyOf 320 0x10000] = true ∧
    ({ dev with weights := [(5, 7)] } : State).weights = [(5, 7)] ∧ (match readMem yielded (yielded).who (own 0x10000) 32 with
      | .ok h => wordAt h 1 % 4 == 1 && bitsOf (wordAt h 1) 15 8 == 1
      | .error _ => false) = true ∧
    (match readMem yielded yielded.who (own 0x10000) 32, readMem yielded yielded.who (own 0x10100) 128 with
      | .ok h, .ok y => ((yielded.yieldAt h y).map (·.bind.pool)) == some (yielded.ctx 0).bind.pool
      | _, _ => false) = true ∧
    (match yielded.restoreTo 1 (yielded.ctx 0).bind (own 0x10000) yielded.who 3 false with
      | .ok t => (t.ctx 1).streams == [{ pc := 0x88 }]
      | .error _ => false) = true := by decide +kernel
/-- R317, R330: three beats of the own unit's scratchpad at 7 pJ each. -/
theorem test_restore_energy : (({ yielded with weights := [(5, 7)] } : State).chargeSave 0 yielded.who (own 0x10000) yieldParts).ctxs.map
    (fun p => (p.1, p.2.regs.enCount)) = [(0, 21)] := by decide +kernel

/-- Job queue 0 with period 100, one card of two waiting, at tick 100; switched in or out. -/
def cadenced (inn : Bool) (ready : Nat) : State :=
  let d := 100 * 2 ^ 192 + (if inn then 2 ^ 100 else 0) + 2 * 2 ^ 104 + 1 * 2 ^ 224
  { dev with time := 100, jobqs := [(0, { desc := BitVec.ofNat 512 d, tail := 1, ready := ready, released := 1 })] }
theorem wit_CadenceReleases : let j := Tab.get ({} : JobQ) (cadenced true 0).jobqs 0
    bitsOf j.desc.toNat 223 192 ≠ 0 ∧ bitsOf j.desc.toNat 191 128 + j.released * bitsOf j.desc.toNat 223 192 ≤ (cadenced true 0).time ∧
    bitOf j.desc.toNat 100 = true ∧ j.ready < j.tail - j.head ∧ (dev).time < bitsOf j.desc.toNat 191 128 + 1 * 100 ∧
    bitOf (Tab.get ({} : JobQ) (cadenced false 0).jobqs 0).desc.toNat 100 = false ∧
    1 - 0 ≤ (Tab.get ({} : JobQ) (cadenced true 1).jobqs 0).ready ∧
    bitsOf j.desc.toNat 239 224 ≤ ((cadenced true 0).ctxs.filter fun p => p.2.bound && p.2.bind.queue == 0).length ∧
    ((cadenced true 0).ctxs.filter fun p => p.2.bound && p.2.bind.queue == 3).length < bitsOf j.desc.toNat 239 224 := by decide +kernel
theorem test_cadence : (Tab.get ({} : JobQ) (after (exec (.cadenceRelease 0) (cadenced true 0))).jobqs 0).ready = 1 ∧
    bitsOf (Tab.get ({} : JobQ) (after (exec (.cadenceRelease 0) (cadenced true 1))).jobqs 0).desc.toNat 319 288 = 1 ∧
    (after (exec (.cadenceRelease 0) (cadenced true 0))).told = [.release 0] := by decide +kernel
theorem wit_QueueSwitches : let j := Tab.get ({} : JobQ) (cadenced false 0).jobqs 0
    bitsOf j.desc.toNat 103 101 = 0 ∧ bitsOf j.desc.toNat 511 320 = 0 ∧ bitsOf (BitVec.ofNat 512 (2 ^ 101)).toNat 103 101 ≠ 0 ∧
    bitsOf (BitVec.ofNat 512 (2 ^ 320)).toNat 511 320 ≠ 0 ∧ bitOf j.desc.toNat 100 = false ∧ ({ j with shadow := some 4 } : JobQ).shadow = some 4 ∧ 2 ^ 2 - (j.tail - j.head) = 3 ∧ 0 < 256 := by
  decide +kernel
theorem test_queue_switch :
    (Tab.get ({} : JobQ) (after (exec (.queueSwitchOut 0) (cadenced true 0))).jobqs 0).isIn = false ∧
    (Tab.get ({} : JobQ) (after (exec (.queueSwitchIn 0 (BitVec.ofNat 512 (2 * 2 ^ 104))) (cadenced false 0))).jobqs 0).isIn = true ∧
    (after (exec (.queueSwitchIn 0 (BitVec.ofNat 512 (2 ^ 101))) (cadenced false 0))).told = [.reserved 0 101] ∧
    ((Tab.get ({} : JobQ) (cadenced true 0).jobqs 0).writeTail 4 9).tail = 4 ∧
    ((Tab.get ({} : JobQ) (cadenced true 0).jobqs 0).writeTail 5 9).error = true := by decide +kernel
/-- The cadence queue after an ageing period of 50 ticks, and a launch queue of level 2 in which a card has waited as long. -/
def ageing : State := { cadenced true 0 with time := 60, agePeriod := 50, launch := [(2, { cards := [{ pos := 7, card := [], team := 0, peer := 0 }] })] }
theorem wit_AgeingAndQuanta : let j := Tab.get ({} : JobQ) ageing.jobqs 0
    j.head ≤ 0 ∧ 0 < j.tail ∧ 0 ∉ j.void ∧ Tab.get 0 j.since 0 + ageing.agePeriod < ageing.ticks ∧
    bitsOf j.desc.toNat 111 108 + Tab.get 0 j.ages 0 < 13 ∧ ¬(Tab.get 0 [(0, 20)] 0 + ageing.agePeriod < ageing.ticks) ∧
    13 ≤ 12 + Tab.get 0 [(0, 1)] 0 ∧ (Tab.get ({} : JobQ) (dev).jobqs 0).tail ≤ (Tab.get ({} : JobQ) (dev).jobqs 0).head ∧ 255 < 256 ∧
    ((Tab.get ({} : LaunchQ) ageing.launch (0 * 16 + 2)).cards.map (·.pos)).Nodup := by decide +kernel
/-- Contexts 0 and 1 of teams 0 and t, once context 0 has run out its quantum. -/
def pair (t : Nat) : State :=
  let s := devOf cx0
  { s with time := 100, quantum := 90, ctxs := [(0, cx0), (1, { cx0 with bind := { cx0.bind with who := { reqr with team := t }, uid := 2 }, since := 60 })] }
/-- Cards 0 and 1 of launch queues of levels 2 and 3, of a kernel in the own scratchpad's zeros. -/
def offering : State :=
  let card := toBytes 128 (setBits 0 575 512 (own 0x1000).toNat)
  { dev with teams := [(0, { who := reqr })], launch := [(2, { cards := [{ pos := 0, card := card, team := 0, peer := 0 }] }), (3, { cards := [{ pos := 0, card := card, team := 0, peer := 0 }] })] }
/-- A strand's record whose firmware command is fw, valid. -/
def firmRec (fw : Nat) : BitVec 1024 := BitVec.ofNat 1024 (2 ^ 637 + fw * 2 ^ 638)
theorem wit_Quanta : (0, (pair 0).ctx 0) ∈ (pair 0).bound ∧ (1, (pair 0).ctx 1) ∈ (pair 0).bound ∧
    ((pair 0).ctx 0).bind.who.team = ((pair 0).ctx 1).bind.who.team ∧ swapsWith ((pair 5).ctx 0) ((pair 5).ctx 1) = false ∧
    ((pair 5).ctx 0).since + (pair 5).quantum ≤ (pair 5).ticks ∧ (pair 5).ticks < ((pair 5).ctx 1).since + (pair 5).quantum ∧
    (offering.nextToBind 0).map (·.level) = some 3 ∧ (Tab.find? ({ dev with images := [(0, cx0)] } : State).images 0).isSome = true ∧
    (pair 0).grouped ((pair 0).ctx 0) ((pair 0).ctx 1) = true ∧ (pair 5).grouped ((pair 5).ctx 0) ((pair 5).ctx 1) = false ∧
    ((pair 0).ctx 0) ∈ (pair 0).strandsHeld ∧ (pair 0).swapsOut 1 = false ∧
    bitOf (firmRec 2).toNat 637 = true ∧ bitsOf (firmRec 2).toNat 639 638 = 2 ∧ bitsOf (firmRec 1).toNat 639 638 = 1 ∧
    (dev).restoresNext 0 = false ∧ ({ dev with images := [(0, cx0), (1, cx0)] } : State).restoresNext 1 = true ∧
    ({ dev with images := [(0, cx0), (1, cx0)] } : State).grouped cx0 cx0 = true ∧ cx0.bound = true ∧ ({ dev with images := [(0, cx0), (1, cx0)] } : State).restores 1 = false := by decide +kernel
/-- Those cards, the first a level older, after a queue of level 3 was served. -/
def sameLevel (last : Nat) : State :=
  { offering with launch := offering.launch.map (fun p => if p.1 = 2 then (2, { p.2 with ages := [(0, 1)] }) else p), served := [(3, last)] }
theorem test_round_robin : ((sameLevel 0x102).nextToBind 0).map (·.queue) = some 0x103 ∧
    ((sameLevel 0x103).nextToBind 0).map (·.queue) = some 0x102 := by decide +kernel
theorem test_ageing : (Tab.get ({} : JobQ) (after (exec (.cardAgeing 0) ageing)).jobqs 0).ages = [(0, 1)] ∧
    (Tab.get ({} : LaunchQ) (after (exec (.cardAgeing 0x102) ageing)).launch 2).ages = [(7, 1)] ∧
    nextIs (exec (.quantumExpiry [0]) (pair 0)) (pair 0) = true ∧ (after (exec (.quantumExpiry [0]) (pair 5))).agenda.length = 1 ∧
    nextIs (exec (.quantumExpiry [1]) (pair 5)) (pair 5) = true := by decide +kernel
/-- A card without records at the head of queue 0, in the own scratchpad, that resolves the future at 0x800. -/
def emptyCard : State :=
  let k := 2 ^ 288 + (own 0x800).toNat * 2 ^ 576
  let j : JobQ := { desc := BitVec.ofNat 512 ((own 0x400).toNat + 2 ^ 100 + 2 * 2 ^ 104), tail := 1 }
  withOwn { dev with jobqs := [(0, j)], teams := [(0, { who := reqr })] } 0x400 (toBytes 128 k)
theorem wit_EmptyCardCompletes : (emptyCard.takeCard 0 0 0).isSome = true ∧
    (match emptyCard.takeCard 0 0 0 with
      | some (t, r) => cardCount (cardNum r.card) == 0 && r.dealt == 0 && t.runs == [] && r.strands == [] &&
          cardFuture (cardNum r.card) == some (own 0x800) && !r.torn && yields (readFuture t r.who (own 0x800)) 0 &&
          yields (translate t r.who (own 0x800) 8 .atomic) (keysFrom (keyOf 320 0x800) 8)
      | none => false) = true ∧ futState 0 < 2 := by decide +kernel
theorem test_empty_card : ofBytes (memGetAll (after (exec (.cardCountZeroDispatch 0) emptyCard)).mem (keysFrom (keyOf 320 0x800) 8)) = 2 ^ 63 := by
  decide +kernel
theorem wit_StaticEnergy : (pair 0).ctxs.Pairwise (fun p q => p.1 < q.1) ∧ 127 < 128 ∧ (0, (pair 0).ctx 0) ∈ (pair 0).bound ∧
    ((State.reset).ctx 3).bound = false := by decide +kernel
theorem test_static_energy : let t := after (exec (.staticEnergyCharge 0) { pair 0 with weights := [(8, 7)] })
    (t.ctx 0).regs.enCount = 4 ∧ (t.ctx 1).regs.enCount = 3 := by decide +kernel


/-! Copies. -/

/-- The condition of the trap that an instruction takes. -/
def cause (i : Instr) (s : State) : Option Nat := match (after (exec i s)).status with | .trapped e => some e.cond | _ => none
/-- The conditions of `Usable`, `Placed` and `Reaching`. -/
def usable (s : State) (a : Word) (n : Nat) (acc : Acc) : Bool :=
  yields (checkRange s s.who a n acc) () && yields (ownWatch s a n (decide (acc ≠ .write)) (decide (acc ≠ .read))) ()
theorem usable_iff (s : State) (a : Word) (n : Nat) (acc : Acc) : usable s a n acc = true ↔ Usable s a n acc := by
  simp [usable, Usable, yields_iff]
def placed (s : State) (q cls token : Nat) : Bool :=
  decide ((s.cx.eng.queues.getD q []).length < 64) && decide (s.tileCommands s.tile < 512) && !s.storesBefore (2 ^ cls) &&
  (token == 0 || mayWrite s.cx s.grp [.scalar token])
theorem placed_iff (s : State) (q cls token : Nat) : placed s q cls token = true ↔ Placed s q cls token := by
  simp [placed, Placed, and_assoc]
def reaching (s : State) (a : Word) (n ch : Nat) : Bool := yields (s.destRange a n) ch && yields (ownWatch s a n false true) ()
theorem reaching_iff (s : State) (a : Word) (n ch : Nat) : reaching s a n ch = true ↔ Reaching s a n ch := by
  simp [reaching, Reaching, yields_iff]

/-- s1 holds a count, s5 the last doubleword of the share; a1 names a source, a2 a destination; tile 1 holds a context. -/
def copying (n : Nat) (a b : Word) : State :=
  let s := dev [(1, word n), (5, own 131064)] [(1, a), (2, b)]
  { s with ctxs := s.ctxs ++ [(16, { cx0 with bind := { cx0.bind with uid := 2 } })] }
/-- An address of the unit scratchpad of tile 1. -/
def tile1 (off : Nat) : Word := addrOf 0xFE01 off
/-- Buffer 0 in the fast tier and buffer 1 in the capacity tier. -/
def tiers : State :=
  let s := mapped
  let x := { s.cx with bind := { s.cx.bind with who := { s.cx.bind.who with btCount := 2 } },
                       regs := { s := [(1, 8), (5, own 131064)], a := [(1, addrOf 1 0), (2, addrOf 0 8), (3, addrOf 0 0), (4, addrOf 1 8)] } }
  { s with ctxs := [(0, x)], mem := memPutAll s.mem (keysFrom 64 64) (toBytes 64 (placeEntry + 2 ^ 96)) }
/-- A queue with 64 commands. -/
def crowded : State := devOf { cx0 with eng := { queues := [List.replicate 64 {}, [], [], []] } }
/-- The kinds and numbers of the commands of queue 0. -/
def queued (o : Host.Outcome State Fault Refusal) : List (CopyKind × Nat) := ((after o).cx.eng.queues.getD 0 []).map fun k => (k.kind, k.num)

theorem wit_CopyCommandsIssue : (0 : Queue).toNat < (dev).cx.eng.time.length ∧ placed (copying 64 (own 0) (own 131008)) 0 15 55 = true ∧
    usable (copying 64 (own 0) (own 131008)) (own 0) 64 .read = true ∧ reaching (copying 64 (own 0) (own 131008)) (own 131008) 64 0 = true ∧
    usable (copying 64 (own 0) (own 131008)) (own 131064) 8 .atomic = true ∧ usable (copying 0 0 0) 0 0 .read = true ∧
    usable (copying 256 (own 0) (tile1 256)) (tile1 256) 256 .write = true ∧
    scratchSpace 0 (bufIdx (tile1 256)) = some 321 ∧ scratchSpace 0 (bufIdx (own 0)) = some 320 ∧ spaceDieOf 321 = spaceDieOf 320 ∧
    bufOff (tile1 256) % 256 = 0 ∧ 256 % 256 = 0 ∧ 0xFE00 ≤ bufIdx (tile1 0) ∧ bufIdx (tile1 0) < 0xFE80 ∧ (131064 : Word).toNat < 2 ^ 48 ∧
    usable (copying 256 (own 0) (tile1 0)) (addrOf (bufIdx (tile1 0)) 131064) 8 .atomic = true ∧
    64 ≤ (crowded.cx.eng.queues.getD 0 []).length ∧ 0xFE80 ≤ bufIdx (own 0) ∧ bufIdx (addrOf 0xFDFF 0) < 0xFE00 := by decide +kernel
/-- The tier that an address's descriptor names. -/
def tierAt (a : Word) : Option Nat := match readEntry tiers tiers.mem tiers.who a with | .ok e => some (bitsOf e 96 96) | .error _ => none
theorem wit_Tiers : tierAt (addrOf 1 0) = some 1 ∧ tierAt (addrOf 0 8) = some 0 ∧ bufIdx (addrOf 1 0) < 0xFE00 ∧
    bufIdx (addrOf 1 0) < tiers.who.btCount ∧ ¬ bufIdx (addrOf 2 0) < tiers.who.btCount ∧
    scratchSpace tiers.tile (bufIdx (own 0)) ≠ none ∧ bufIdx (own 0) ≠ 0xFE80 ∧ scratchSpace 0 (bufIdx (addrOf 5 0)) = none ∧
    bufIdx (addrOf 5 0) ≠ 0xFE80 ∧ bufIdx (addrOf 5 0) < 0xFE00 ∧
    placed tiers 3 0 0 = true ∧ usable tiers (addrOf 1 0) 8 .read = true ∧ usable tiers (addrOf 0 8) 8 .write = true ∧
    usable tiers (addrOf 1 8) 8 .write = true ∧ usable tiers (own 131064) 8 .atomic = true := by decide +kernel
theorem test_copies_issue : queued (exec (.cpy 3 2 1 1 0 0 5) (copying 64 (own 0) (own 131008))) = [(.cpy, 1)] ∧
    queued (exec (.tmov 3 2 1 1 0 0 0) (copying 256 (own 0) (tile1 256))) = [(.tmov, 1)] ∧
    queued (exec (.rwr 3 2 1 1 0 0 0) (copying 8 (own 0) (tile1 8))) = [(.rwr, 1)] ∧
    queued (exec (.pref 3 2 1 1 0 0 5) tiers) = [(.pref, 1)] ∧ queued (exec (.evict 3 4 3 1 0 0 5) tiers) = [(.evict, 1)] ∧
    (after (exec (.cpy 3 2 1 1 0 0 0) crowded)).status = .held .full := by decide +kernel
theorem test_copies_refused : cause (.tmov 3 2 1 1 0 0 0) (copying 64 (own 0) (own 131008)) = some 0x16 ∧
    cause (.rwr 3 2 1 1 0 0 0) (copying 8 (own 0) (own 8)) = some 0x16 ∧
    cause (.evict 3 2 1 1 0 0 5) tiers = some 0x16 ∧ cause (.pref 3 4 3 1 0 0 5) tiers = some 0x16 ∧
    cause (.pref 3 2 1 1 0 0 5) (copying 8 (own 0) (own 8)) = some 0x16 ∧
    cause (.tmov 3 2 1 1 0 0 0) (copying 256 (addrOf 5 0) (tile1 0)) = some 0x16 ∧
    cause (.tmov 3 2 1 1 0 0 0) (copying 256 (addrOf 0xFE80 0) (tile1 0)) = some 0x0B ∧
    cause (.cpy 3 2 1 1 0 0 0) (copying 8 (addrOf 0xFE80 0) (own 8)) = some 0x0B := by
  decide +kernel

/-- A layout record in s8 to s19: a window of rows of 4 of a 4 by 4 tensor of INT32, rows 4 elements apart, origin (0, o). -/
def layouts (put : Bool) (res : Nat) (rank : Nat) (o : Nat) : State :=
  let w0 := res + (if put then 2 ^ 29 else 0) + rank * 2 ^ 33 + 2 * 2 ^ 36 + 5 * 2 ^ 40 + 55 * 2 ^ 50
  dev [(8, word w0), (11, word (4 * 2 ^ 48 + 4)), (12, word (2 * 2 ^ 48 + o * 2 ^ 24 + 4)), (17, word (1 + 4 * 2 ^ 32)), (5, own 131064)]
    [(1, own 0), (2, own 4096)]
def layoutOf (s : State) : List Word := (List.range 12).map fun i => s.cx.s (8 + i)
/-- The word 0 of a layout record of INT32: rank 2, policy, direction, plane; rows of w of a tensor of 2 by 2. -/
def record (w o policy put plane : Nat) (tag : Nat := 2) (bank : Nat := 0) : List Word :=
  [word (plane * 2 ^ 30 + put * 2 ^ 29 + policy * 2 ^ 31 + 2 * 2 ^ 33 + tag * 2 ^ 36), 0x55, word (bank * 2 ^ 38 + 2 ^ 32),
   word (w * 2 ^ 48 + 2), word (2 * 2 ^ 48 + o * 2 ^ 24 + 2), 0, 0, 0, 0, word (1 + 2 * 2 ^ 32), 0, 0]
theorem wit_LayoutCopies : placed (layouts false 0 2 2) 0 0 55 = true ∧ Tag.ofCode 2 = .int32 ∧
    layoutReserved (layoutOf (layouts false (2 ^ 28) 2 0)) = some 0 ∧ layoutReserved (layoutOf (layouts false 0 2 2)) = none ∧
    (Layout.of (layoutOf (layouts false 0 0 2))).invalid 2 0xFFFF 0xFFFF = true ∧
    (Layout.of (layoutOf (layouts false 0 7 2))).invalid 2 0xFFFF 0xFFFF = true ∧
    (Layout.of (layoutOf (layouts false 0 2 2))).invalid 2 0xFFFF 0xFFFF = false ∧
    (Layout.of (layoutOf (layouts false 0 2 2))).invalid 0 0xFFFF 0xFFFF = true ∧ (Layout.of (layoutOf (layouts false 0 2 2))).invalid 8 0xFFFF 0xFFFF = true ∧
    (List.map (fun p : List Word × Nat × Nat => (Layout.of p.1).invalid p.2.1 p.2.2 0xFFFF)
      [(record 2 0 3 0 0, 2, 0xFFFF), (record 2 0 0 0 0 2 2, 2, 0xFFFF), ((record 2 0 0 0 0).set 2 (word (6 * 2 ^ 32)), 2, 0xFFFF),
       ((record 2 0 0 0 0).set 2 7, 2, 0xFFFF), (record 2 0 0 0 0 2 1, 2, 0xFDFF), (record 2 0 0 0 0 2 1, 2, 0xFE80), (record 2 0 0 0 1, 2, 0xFFFF),
       (record 2 0 0 1 1 7, 7, 0xFFFF), (record 2 0 0 0 1 7 1, 7, 0xFFFF)]) = List.replicate 9 true ∧
    (List.map (fun p : List Word × Nat × Nat => (Layout.of p.1).invalid p.2.1 p.2.2 0xFFFF)
      [((record 2 0 0 0 0).set 2 8, 2, 0), (record 2 0 0 0 0 2 1, 2, 0xFE00), (record 2 0 0 0 1 7, 7, 0), ((record 2 0 0 0 0).set 2 (word (5 * 2 ^ 32)), 2, 0)]) =
      List.replicate 4 false ∧
    (Layout.of (layoutOf (layouts false 0 2 2))).tensorRange = some (32, 32) ∧
    (Layout.of (layoutOf (layouts true 0 2 2))).put = true ∧
    (Layout.of (layoutOf (layouts false 0 2 2))).denseRange (own 4096) = (own 4096, 32) ∧
    usable (layouts false 0 2 2) (addrAdd (own 0) 32) 32 .read = true ∧ reaching (layouts false 0 2 2) (own 4096) 32 0 = true ∧
    usable (layouts true 0 2 2) (own 0) 32 .read = true ∧ reaching (layouts true 0 2 2) (addrAdd (own 4096) 32) 32 0 = true ∧
    usable (layouts false 0 2 2) (own 131064) 8 .atomic = true := by decide +kernel
theorem test_cpyl : queued (exec (.cpyl 2 1 8 0) (layouts false 0 2 2)) = [(.cpyl, 1)] ∧
    (cause (.cpyl 2 1 8 0) (layouts false (2 ^ 28) 2 2) = some 5 ∧
      (after (exec (.cpyl 2 1 8 0) (layouts false (2 ^ 28) 2 2))).cx.trap.taddr = 8) ∧
    cause (.cpyl 2 1 8 0) (layouts false 0 0 2) = some 0x17 ∧
    (List.range 8).map (Layout.of (layoutOf (layouts false 0 2 3))).cell =
      [Cell.at_ 12, .at_ 13, .at_ 14, .at_ 15, .fill, .fill, .fill, .fill] := by
  decide +kernel

/-- n indices in row 0, the last of them skipped; a1 and a2 name source and destination. -/
def indexed (n : Nat) (is : List Nat) (tag : Tag := .int32) : State :=
  devOf { cx0 with regs := { s := [(1, word (n * 2 ^ 16))], a := [(1, own 0), (2, own 4096)],
                             rows := [(0, { tag := tag, data := BitVec.ofNat 2048 (ofLanes 32 is) })] } }
theorem wit_IndexedCopies : placed (indexed 3 [5, 0, 0xFFFFFFFF]) 0 0 3 = true ∧ bitsOf (word (3 * 2 ^ 16)).toNat 31 16 = 3 ∧ 3 ≤ 1024 ∧
    (List.range 3).all (fun j => let x := (indexed 3 [5, 0, 0xFFFFFFFF]).cx
      decide (256 * x.regs.rowwin + (0 + j / 64) < x.rowCount) && (x.row 0).tag == .int32 &&
      ([5, 0, 0xFFFFFFFF] : List Nat).getD j 0 == laneOf .int32 (x.row 0).data.toNat (j % 64)) = true ∧
    usable (indexed 3 [5, 0, 0xFFFFFFFF]) (own 0) 24 .read = true ∧ usable (indexed 3 [5, 0, 0xFFFFFFFF]) (own 4096) 12 .write = true ∧
    usable (indexed 3 [5, 0, 0xFFFFFFFF]) (own 0) 12 .read = true ∧ usable (indexed 3 [5, 0, 0xFFFFFFFF]) (own 4096) 24 .write = true ∧
    (0 : Nat) < 256 ∧ (1025 : Nat) > 1024 := by decide +kernel
theorem test_indexed : ((after (exec (.gath 3 2 1 1 0 0 2) (indexed 3 [5, 0, 0xFFFFFFFF]))).cx.eng.queues.getD 0 []).map (·.index) = [[5, 0, 0xFFFFFFFF]] ∧
    queued (exec (.scat 3 2 1 1 0 0 2) (indexed 3 [5, 0, 0xFFFFFFFF])) = [(.scat, 1)] ∧
    cause (.scat 3 2 1 1 0 0 2) (indexed 1025 []) = some 0x16 ∧
    cause (.gath 3 2 1 1 0 0 2) (indexed 3 [5] .fp32) = some 0x13 := by decide +kernel

/-- A member of crew 5 of the device, of rank 1. -/
def crewed (n : Nat) : State :=
  devOf { cx0 with regs := { s := [(1, word n), (2, 5)], a := [(1, own 0), (2, own 4096)] }, eng := { crews := [{ crew := 5, rank := 1 }] } }
theorem wit_Creds : placed (crewed 3) 1 0 3 = true ∧ 3 ≤ 2 ^ 24 ∧ crewInvalid 5 = false ∧ crewInvalid (2 ^ 56) = false ∧
    crewInvalid (2 ^ 57) = true ∧ (crewed 3).cx.member? 5 = some { crew := 5, rank := 1 } ∧ usable (crewed 3) (own 0) 12 .read = true ∧
    usable (crewed 3) (own 4096) 12 .write = true ∧ usable (crewed 3) (own 0) 6 .read = true := by decide +kernel
theorem test_creds : queued (exec (.credSum 3 2 1 1 0 0 2 2) (crewed 3)) = [(.cred, 1)] ∧
    (after (exec (.credMax 3 2 1 1 0 0 2 1) (crewed 3))).cx.eng.crews = [{ crew := 5, rank := 1, creds := 1 }] ∧
    queued (exec (.credSmerge 3 2 1 1 0 0 2 0) (crewed 3)) = [(.cred, 1)] ∧
    cause (.credSmerge 3 2 1 1 0 0 2 0) (crewed 2) = some 0x16 ∧
    cause (.credSmerge 3 2 1 1 0 0 2 2) (crewed 3) = some 0x16 ∧
    cause (.credSum 3 2 1 1 0 0 1 2) (crewed 3) = some 0x22 := by decide +kernel

theorem wit_CopyFaults : placed (copying 8 (own 131072) (own 0)) 0 0 3 = true ∧
    fails (checkRange (copying 8 (own 131072) (own 0)) reqr (own 131072) 8 .read) ⟨0x0C, own 131072, 0⟩ = true ∧
    yields (checkRange (copying 8 (own 0) (own 131072)) reqr (own 0) 8 .read) () = true ∧
    fails (checkRange (copying 8 (own 0) (own 131072)) reqr (own 131072) 8 .write) ⟨0x0C, own 131072, 0⟩ = true ∧
    yields (checkRange (copying 8 (own 0) (own 8)) reqr (own 8) 8 .write) () = true ∧
    (checkRange (copying 8 (own 0) (own 8)) reqr (own 4) 8 .atomic).isOk = false ∧
    bufIdx (addrOf 0xFE80 0) = 0xFE80 ∧ 2 ^ 48 < bufOff (addrOf 0xFE80 (2 ^ 48 - 1)) + 8 ∧
    (copying 8 (own 0) 0).apertureChannel 0 = none ∧ bitsOf (word (1025 * 2 ^ 16)).toNat 31 16 > 1024 ∧
    (cx0).rowCount ≤ 256 * 15 ∧ 0 < (cx0).rowCount ∧
    ({ cx0 with pend := [{ due := 9, dest := .row 0, data := 0 }] } : Ctx).pend.any (fun p => p.dest == .row 0) = true ∧
    2 ^ 24 < (2 ^ 24 + 1 : Word).toNat ∧ crewInvalid (2 ^ 57) = true ∧ crewInvalid 6 = false ∧ (crewed 3).cx.member? 6 = none := by
  decide +kernel
/-- A forked strand whose groups may write what their port records say: nothing. -/
def closed : State := devOf { cx0 with streams := [{}, {}], ports := some (List.replicate 256 0) }
theorem test_copy_faults : cause (.cpy 3 2 1 1 0 0 0) (copying 8 (own 131072) (own 0)) = some 0x0C ∧
    (mayWrite closed.cx 0 [.scalar 20] = false ∧ cause (.cpy 20 2 1 1 0 0 0) closed = some 6) ∧
    cause (.cpy 3 2 1 1 0 0 0) (copying 8 (own 0) (own 131072)) = some 0x0C ∧
    cause (.cpy 3 2 1 1 0 0 0) (copying 8 (own 0) (addrOf 0xFE80 (2 ^ 48 - 1))) = some 0x0C ∧
    cause (.cpy 3 2 1 1 0 0 0) (copying 8 (own 0) (addrOf 0xFE80 0)) = some 0x0A ∧
    cause (.credMax 3 2 1 1 0 0 5 0) (copying 8 (own 0) (own 8)) = some 0x21 := by decide +kernel

/-- A block table at 0x1000 of the own unit scratchpad: two pages, one identifier a list, one layer, one head group; the
free list at 0x1800, data at 0x4000, headers at 0x2000. The page identifier, page 0's header and the free count. -/
def pagedNum : Nat :=
  (own 0x2000).toNat + (own 0x4000).toNat * 2 ^ 64 + (own 0x1800).toNat * 2 ^ 128 + 2 ^ 192 + 2 ^ 208 + 2 ^ 224 + 2 * 2 ^ 256
def paged (p l : Nat) (id h : Nat) : State :=
  let s := dev [(1, word p), (2, word l)] [(1, own 0x1000), (2, own 0x800)]
  let s := withOwn (withOwn s 0x1000 (toBytes 64 pagedNum)) 0x1040 (toBytes 4 id)
  withOwn (withOwn s 0x1800 (toBytes 8 1)) 0x2000 (toBytes 64 h)
def table2 : BlockTable := BlockTable.of (own 0x1000) pagedNum
theorem wit_PagedIssue : placed (paged (2 ^ 32) 0 0 1) 0 0 3 = true ∧ yields (readTable (paged (2 ^ 32) 0 0 1) (own 0x1000) 0x16) table2 = true ∧
    bitsOf (word 0).toNat 31 16 < table2.layers ∧ bitsOf (word 0).toNat 15 0 < table2.heads ∧ 15 + 1 ≤ 16 * table2.perList ∧
    usable (paged (2 ^ 32) 0 0 1) (own 0x800) 257 .write = true ∧ 15 < 16 * table2.perList ∧ bufOff (own 0x800) % 64 = 0 ∧
    usable (paged 15 0 0 1) (own 0x800) 512 .read = true ∧
    usable (paged 15 0 0 1) (addrAdd table2.at_ (64 + 4 * ((0 * table2.heads + 0) * table2.perList + 15 / 16) : Nat)) 4 .atomic = true ∧
    usable (paged 15 0 0 1) table2.free 8 .atomic = true ∧ bitsOf (word (1025 * 2 ^ 32)).toNat 47 32 > 1024 ∧ bufOff (own 0x820) % 64 ≠ 0 := by
  decide +kernel
theorem test_paged_issue : queued (exec (.kvgath 3 2 1 1 0 0 2 0 0) (paged (2 ^ 32 + 15) 0 0 1)) = [(.kvgath, 1)] ∧
    cause (.kvgath 3 2 1 1 0 0 2 0 0) (paged (2 ^ 32 + 16) 0 0 1) = some 0x16 ∧
    queued (exec (.kvapp 3 1 2 1 0 0 2 0) (paged 15 0 0 1)) = [(.kvapp, 1)] ∧
    cause (.kvapp 3 1 2 1 0 0 2 0) (paged 16 0 0 1) = some 0x16 := by decide +kernel

/-- A context with one command at the head of queue 0, issued as its first, and 64 bytes of 7 in its share. -/
def headed (k : Cmd) (bytes : List Byte := List.replicate 8 7) : State :=
  withOwn (devOf { cx0 with eng := { queues := [[k], [], [], []], time := List.replicate 7 { issued := 1 } },
                            board := if k.token = 0 then [] else [{ dest := .scalar k.token }] }) 0 bytes
/-- A plain copy from the start of the share to its last doubleword, whose translation uses the tables as they stand. -/
def plain (kind : CopyKind) : Cmd := { kind := kind, num := 1, token := 3, src := own 0, dst := own 131064, count := 8 }
def ended (kind : CopyKind) (aux : Word := 0) : Cmd := { plain kind with ended := true, pos := 8, aux := aux }
/-- The source's granule, or a page-table node, is uncorrectable. -/
def spoilt : State := { headed (plain .cpy) with poison := [keyOf 320 0 / 64] }
def lost : State := { mapped with poison := [0x2000 / 64] }
theorem wit_CopiesMove : [CopyKind.cpy, .tmov, .rwr, .pref, .evict].all (fun kind =>
      let s := headed (plain kind)
      (s.ctx 0).bound && (s.ctx 0).eng.queues.getD 0 [] == [plain kind] && !(plain kind).stopped && !(plain kind).ended) = true ∧
    beatSize (plain .cpy) = 8 ∧ bufIdx (own 131064) ≠ 0xFE80 ∧
    yields (translateWith (headed (plain .cpy)) [] reqr (own 0) 8 .read) (keysFrom (keyOf 320 0) 8) = true ∧
    yields (translateWith (headed (plain .cpy)) [] reqr (own 131064) 8 .write) end8 = true ∧
    fails (translateWith (headed { plain .cpy with src := own 131072 }) [] reqr (own 131072) 8 .read) ⟨0x0C, own 131072, 0⟩ = true ∧
    Tab.find? ({ plain .cpy with orig := [(keyOf 320 0, 9)] } : Cmd).orig (keyOf 320 0) = some 9 ∧ Tab.find? (plain .cpy).orig 0 = none ∧
    (keysFrom (keyOf 320 0) 8).any (keyBad (headed (plain .cpy))) = false ∧ keysReady (headed (plain .cpy)) end8 = true ∧
    yields (translateWith spoilt [] spoilt.who (own 0) 8 .read) (keysFrom (keyOf 320 0) 8) = true ∧
    (keysFrom (keyOf 320 0) 8).all (keyBad spoilt) = true ∧ spoilt.cx.eng.queues.getD 0 [] = [plain .cpy] ∧
    (match translateWith lost lost.mem lost.who (addrOf 0 0) 8 .read with | .ok _ => 0 | .error f => f.cond) = 0x11 ∧
    ((headed (plain .cpy)).ctx 3).bound = false ∧ (headed { plain .cpy with stopped := true }).cx.eng.queues.getD 0 [] ≠ [] := by decide +kernel
theorem wit_CopiesComplete : [ended .cpy, ended .cpyl, ended .tmov, ended .rwr].all (fun k =>
      (headed k).cx.eng.queues.getD 0 [] == [k] && k.ended && !k.stopped && k.sent == 0 && k.future.isNone && k.aux == 0) = true ∧
    [ended .rwr (own 0), ended .pref (own 0), ended .evict (own 0)].all (fun k => k.ended && !k.unbound && k.aux != 0 &&
      yields (translateWith (headed k) k.tables ((headed k).ctx 0).bind.who k.aux 8 .atomic) (keysFrom (keyOf 320 0) 8)) = true ∧
    (keysFrom (keyOf 320 0) 8).any (keyBad (headed (ended .pref (own 0)))) = false ∧
    1 = ({} : Timeline).completed + 1 ∧ ({} : Timeline).ahead = [] := by decide +kernel
theorem test_spoilt_copy : (after (exec (.copyBeat 0 0) spoilt)).mem = spoilt.mem ∧
    ((after (exec (.copyBeat 0 0) spoilt)).cx.eng.queues.getD 0 []).map (fun k => (k.pos, k.status, k.stopped)) = [(8, 1, false)] := by
  decide +kernel
theorem test_copy_beats : endAfter (.copyBeat 0 0) (headed (plain .cpy)) = 0x0707070707070707 ∧
    (after (exec (.copyBeat 0 0) (headed { plain .cpy with src := own 131072 }))).mem = (headed (plain .cpy)).mem ∧
    (after (exec (.copyBeat 0 0) (headed { ended .cpy with status := 2 }))).cx.board.map (·.value) = [some (2 * 2 ^ 58 + 1)] ∧
    memGet (after (exec (.copyBeat 0 0) (headed (ended .rwr (own 0))))).mem (keyOf 320 0) = 8 ∧
    (after (exec (.engineTrap 0) (after (exec (.copyBeat 0 0) (headed { plain .cpy with src := own 131072 }))))).cx.trap.tinfo = 1 := by
  decide +kernel

/-- GATH and SCAT of two elements of 4 bytes at the head of queue 0, from the start of the share to 4,096. -/
def picking (kind : CopyKind) (is : List Nat) (pos : Nat := 0) : Cmd :=
  { kind := kind, num := 1, src := own 0, dst := own 4096, count := 2, esz := 4, index := is, pos := pos }
theorem wit_IndexBeats : [picking .gath [1, 0], picking .scat [1, 0], picking .gath [0xFFFFFFFF, 0], picking .scat [0xFFFFFFFF, 0]].all (fun k =>
      let s := headed k (toBytes 8 0x0807060504030201)
      (s.ctx 0).bound && s.cx.eng.queues.getD 0 [] == [k] && !k.stopped && !k.ended && decide (k.pos < k.count) && decide (k.sub < k.esz) &&
      yields (translateWith s k.tables reqr (own 4) 4 .read) (keysFrom (keyOf 320 4) 4) &&
      yields (translateWith s k.tables reqr (own 4096) 4 .write) (keysFrom (keyOf 320 4096) 4)) = true ∧
    bufIdx (own 4096) ≠ 0xFE80 := by decide +kernel
/-- The four bytes at an offset of the share after a beat. -/
def four (k : Cmd) (off : Nat) : Nat :=
  ofBytes (memGetAll (after (exec (.copyBeat 0 0) (headed k (toBytes 8 0x0807060504030201)))).mem (keysFrom (keyOf 320 off) 4))
theorem test_index_beats : four (picking .gath [1, 0]) 4096 = 0x08070605 ∧ four (picking .scat [1, 0]) 4100 = 0x04030201 ∧
    four (picking .gath [0xFFFFFFFF, 0]) 4096 = 0 ∧ four (picking .scat [0xFFFFFFFF, 0]) 4096 = 0 := by decide +kernel

def striding (ws : List Word) (pos : Nat) : Cmd :=
  { kind := .cpyl, num := 1, src := own 0, dst := own 4096, layout := ws, pos := pos }
theorem wit_StridedBeats : (List.map (fun p : List Word × Nat => (Layout.of p.1).cell p.2)
      [(record 2 0 0 0 0, 3), (record 2 1 0 0 0, 2), (record 2 1 2 0 0, 2), (record 2 1 1 0 0, 2), (record 2 1 1 1 0, 2)]) =
      [.at_ 3, .fill, .skip, .at_ 2, .skip] ∧
    0 ∉ (Layout.of (record 2 0 0 0 0)).size ∧ 0 ∉ ([2, 3] : List Nat) ∧ (Layout.of (record 2 0 0 0 0)).bank ≠ 1 ∧
    (Layout.of (record 2 0 0 0 0 2 1)).bank = 1 ∧ (Layout.of (record 2 0 0 0 0)).plane = false ∧
    (Layout.of [word (2 * 2 ^ 33 + 2 ^ 31), 0, 0, word (2 ^ 48), word (2 ^ 48)]).size = [0, 0, 1, 1, 1, 1] ∧
    0 < (Layout.of (record 2 0 0 0 0)).runs * (Layout.of (record 2 0 0 0 0)).w0 ∧ 0 < (Layout.of (record 2 0 0 0 0)).eb ∧
    (let k := striding (record 2 0 0 0 0) 1
     let s := headed k (toBytes 8 0x0807060504030201)
     yields (translateWith s k.tables reqr (own 4) 4 .read) (keysFrom (keyOf 320 4) 4) = true ∧
     yields (translateWith s k.tables reqr (own 4100) 4 .write) (keysFrom (keyOf 320 4100) 4) = true) := by decide +kernel
theorem test_strided_beats : four (striding (record 2 0 0 0 0) 1) 4100 = 0x08070605 ∧ four (striding (record 2 0 0 1 0) 1) 4100 = 0x08070605 ∧
    four (striding (record 2 1 0 0 0) 2) 4104 = 0x55 ∧ four (striding (record 2 1 2 0 0) 2) 4104 = 0 ∧
    ((Layout.of (record 2 0 0 0 0 2 1)).dense (own 4096) 2) = own (4096 + 8 + 64) := by decide +kernel
/-- A plane-layout copy of INT8 of which a group has been read, of one row of two bytes 3 and -128. -/
def planing (read : Bool) : Cmd :=
  { striding ((record 2 0 0 0 1 7).set 4 (word (2 ^ 48 + 2))) 0 with
    data := if read = true then 3 :: 0x80 :: List.replicate 2046 0 else [] }
theorem wit_PlaneBeats : (Layout.of (planing true).layout).plane = true ∧ (Layout.of (planing true).layout).tag = .int8 ∧
    (planing true).data.length = 2048 * (Layout.of (planing true).layout).eb ∧ planeCell (planing false) (Layout.of (planing false).layout) = .at_ 0 ∧
    planeCell { planing false with data := [0, 0] } (Layout.of (planing false).layout) = .skip ∧
    planeCell { planing false with data := [0], layout := record 2 0 0 0 1 7 } (Layout.of ((record 2 2 0 0 1 7).set 4 (word (2 ^ 48 + 2 * 2 ^ 24 + 2)))) = .fill ∧
    yields (translateWith (headed (planing false)) [] reqr (own 0) 1 .read) [keyOf 320 0] = true ∧
    yields (translateWith (headed (planing true)) [] reqr (own 4096) 64 .write) (keysFrom (keyOf 320 4096) 64) = true := by decide +kernel
theorem test_plane_beats : ((after (exec (.copyBeat 0 0) (headed (planing false)))).cx.eng.queues.getD 0 []).map (·.data) = [[7]] ∧
    ([0, 256, 256 * 6, 256 * 7].map fun i => (groupBytes .int8 [splitElem .int8 3 0, splitElem .int8 0x80 0] []).getD i 0) = [2, 0, 1, 1] := by
  decide +kernel

/-- A copy that has moved its bytes and resolves the future at offset 0, which holds a word. -/
def resolving (status old : Nat) : State := headed { ended .cpy with future := some (own 0), status := status } (toBytes 8 old)
theorem wit_CopiesResolve : [0, 2 ^ 62, 2 ^ 63].all (fun old => let s := resolving 0 old
      let k := (s.cx.eng.queues.getD 0 []).headD {}
      k.ended && !k.stopped && k.sent == 0 && k.kind == .cpy && k.future == some (own 0) &&
      yields (translateWith s k.tables (s.ctx 0).bind.who (own 0) 8 .atomic) (keysFrom (keyOf 320 0) 8) &&
      !(keysFrom (keyOf 320 0) 8).any (keyBad s) && (futReserved old).isNone) = true ∧
    (futReserved 1).isSome = true ∧ (keysFrom (keyOf 320 0) 8).any (keyBad { resolving 0 0 with poison := [keyOf 320 0 / 64] }) = true ∧
    fails (translateWith (resolving 0 0) [] reqr (own 131072) 8 .atomic) ⟨0x0C, own 131072, 0⟩ = true := by decide +kernel
/-- The future's word and the token's status after the completion. -/
def resolved (s : State) : Nat × List (Option Nat) :=
  let t := after (exec (.copyBeat 0 0) s)
  (ofBytes (memGetAll t.mem (keysFrom (keyOf 320 0) 8)), t.cx.board.map fun b => b.value.map (· / 2 ^ 58))
theorem test_copies_resolve : resolved (resolving 0 0) = (2 ^ 63 + 1, [some 0]) ∧ resolved (resolving 3 0) = (3 * 2 ^ 62 + 3, [some 3]) ∧
    resolved (resolving 0 (2 ^ 63 + 9)) = (2 ^ 63 + 9, [some 5]) ∧ resolved (resolving 0 1) = (1, [some 7]) ∧
    (after (exec (.copyBeat 0 0) (resolving 0 (2 ^ 62)))).credits.length = 1 := by decide +kernel

/-- A gather at position 15 of page 0, that waits, and its page header. -/
def gathering (h : Nat) (esz : Nat := 1) : State :=
  let k : Cmd := { kind := .kvgath, num := 1, dst := own 0x8000, src := own 0x1000, count := 1, esz := esz, index := [15], stage := 1, layout := table2.words }
  { paged 0 0 0 h with ctxs := [(0, { cx0 with eng := { queues := [[k], [], [], []] } })] }
def pageHdr (fill st slot : Nat) (refs : Nat := 1) : Nat := refs + fill * 2 ^ 32 + st * 2 ^ (64 + 2 * slot)
theorem wit_PagedCopies : ((gathering (pageHdr 16 2 15)).cx.eng.queues.getD 0 []).map (fun k => (k.kind, k.stage, k.pos, k.stopped, k.ended)) = [(.kvgath, 1, 0, false, false)] ∧
    BlockTable.ofWords table2.words = table2 ∧ bufIdx (own 0x8000) ≠ 0xFE80 ∧
    yields (readUnit (gathering (pageHdr 16 2 15)) [] reqr (table2.idAt 0 0 0) 4) (some (toBytes 4 0)) = true ∧ 0 < table2.pages ∧
    yields (readUnit (gathering (pageHdr 16 2 15)) [] reqr (table2.hdrAt 0) 64) (some (toBytes 64 (pageHdr 16 2 15))) = true ∧
    pageInvalid (pageHdr 16 2 15) = false ∧ slotState (pageHdr 16 2 15) 15 = 2 ∧ slotState (pageHdr 16 1 15) 15 = 1 ∧
    yields (translateWith (gathering (pageHdr 16 2 15)) [] reqr (table2.rowAt 0 15) 256 .read) (keysFrom (keyOf 320 (0x4000 + 7680)) 256) = true ∧
    yields (translateWith (gathering (pageHdr 16 2 15)) [] reqr (own 0x8000) 256 .write) (keysFrom (keyOf 320 0x8000) 256) = true ∧
    (keysFrom (keyOf 320 (0x4000 + 7680)) 256).any (keyBad (gathering (pageHdr 16 2 15))) = false ∧
    keysReady (gathering (pageHdr 16 2 15)) (keysFrom (keyOf 320 0x8000) 256) = true ∧ slotState (pageHdr 16 0 15) 15 = 0 ∧
    yields (readUnit { gathering (pageHdr 16 2 15) with poison := [keyOf 320 0x2000 / 64] } [] reqr (table2.hdrAt 0) 64) none = true ∧
    0 % 4 ≠ 1 ∧ 1 % 4 = 1 ∧ 3 % 4 = 3 := by decide +kernel
theorem test_gather_wake :
    ((after (exec (.kvgathSlotWake 0 0) (gathering (pageHdr 16 2 15)))).cx.eng.queues.getD 0 []).map (fun k => (k.pos, k.map)) = [(1, [2])] ∧
    ((after (exec (.kvgathSlotWake 0 0) (gathering (pageHdr 16 1 15)))).cx.eng.queues.getD 0 []).map (·.stage) = [1] ∧
    ((after (exec (.kvgathSlotWake 0 0) (gathering (pageHdr 16 0 15)))).cx.eng.queues.getD 0 []).map (·.map) = [[0x80]] ∧
    ((after (exec (.kvgathSlotWake 0 0) { gathering (pageHdr 16 2 15) with poison := [keyOf 320 0x2000 / 64] })).cx.eng.queues.getD 0 []).map
      (·.map) = [[0x90]] := by decide +kernel
/-- That gather before its position, of a policy; the identifier of its page. -/
def arriving (h : Nat) (policy : Nat) (id : Nat := 0) : State :=
  let s := withOwn (gathering h) 0x1040 (toBytes 4 id)
  let k := (s.cx.eng.queues.getD 0 []).headD {}
  { s with ctxs := [(0, { cx0 with eng := { queues := [[{ k with stage := 0, esz := policy, tables := s.mem }], [], [], []] } })] }
/-- The head's state bytes, position, stage and status after a beat. -/
def gathered (s : State) : List (List Nat × Nat × Nat × Nat) :=
  ((after (exec (.copyBeat 0 0) s)).cx.eng.queues.getD 0 []).map fun k => (k.map, k.pos, k.stage, k.status)
theorem wit_GatherBeats : [arriving (pageHdr 16 2 15) 0, arriving (pageHdr 16 1 15) 2, arriving (pageHdr 16 1 15) 1, arriving (pageHdr 16 0 15) 0,
      arriving (pageHdr 17 0 0) 0].all (fun s => let k := (s.cx.eng.queues.getD 0 []).headD {}
      (s.ctx 0).bound && k.kind == .kvgath && k.stage == 0 && decide (k.pos < k.count) && !k.stopped && !k.ended &&
      yields (readId s k.tables reqr (table2.idAt 0 0 0)) (some 0) && (readUnit s k.tables reqr (table2.hdrAt 0) 64).isOk) = true ∧
    yields (readId (arriving 0 0 0xFFFFFFFF) (arriving 0 0 0xFFFFFFFF).mem reqr (table2.idAt 0 0 0)) (some 0xFFFFFFFF) = true ∧
    yields (readId (arriving 0 0 2) (arriving 0 0 2).mem reqr (table2.idAt 0 0 0)) (some 2) = true ∧
    yields (readId { arriving 0 0 with poison := [keyOf 320 0x1040 / 64] } [] reqr (table2.idAt 0 0 0)) none = true ∧
    (keysFrom (keyOf 320 (0x4000 + 7680)) 256).all (keyBad { arriving (pageHdr 16 2 15) 0 with
      poison := [keyOf 320 (0x4000 + 7680) / 64, keyOf 320 (0x4000 + 7744) / 64, keyOf 320 (0x4000 + 7808) / 64, keyOf 320 (0x4000 + 7872) / 64] }) = true ∧
    (1 : Nat) ≤ 1 ∧ 0 < ([2] : List Nat).length ∧
    yields (translateWith (arriving (pageHdr 16 2 15) 0) [] reqr (own 0x8100) 1 .write) [keyOf 320 0x8100] = true := by decide +kernel
theorem test_gather_beats : (List.map gathered [arriving (pageHdr 16 2 15) 0, arriving (pageHdr 16 1 15) 0, arriving (pageHdr 16 1 15) 2,
      arriving (pageHdr 16 1 15) 1, arriving (pageHdr 16 0 15) 0, arriving (pageHdr 17 0 0) 0, arriving 0 0 0xFFFFFFFF, arriving 0 0 2]) =
      [[([2], 1, 0, 0)], [([1], 1, 0, 0)], [([0x81], 1, 0, 0)], [([], 0, 1, 0)], [([0x80], 1, 0, 0)], [([0xA0], 1, 0, 0)],
       [([0xC0], 1, 0, 0)], [([0xA0], 1, 0, 0)]] ∧
    [gatherStatus 0 [1, 2, 2, 1, 0xC0], gatherStatus 0 [0x81, 2, 2, 0x81, 0xC0], gatherStatus 0 [2, 2, 2, 2, 0xC0]] = [0x13, 0x12, 0x12] := by
  decide +kernel
/-- KVAPP of position p, provisional or final, with its page's identifier and header. -/
def appending (p id h : Nat) (esz : Nat := 0) : State :=
  let k : Cmd := { kind := .kvapp, num := 1, dst := own 0x1000, src := own 0x800, count := 1, esz := esz, index := [p], layout := table2.words }
  { paged 0 0 id h with ctxs := [(0, { cx0 with eng := { queues := [[k], [], [], []] } })] }
/-- The status with which an append ends, once its rows are zeros. -/
def appendStatus (p id h : Nat) (final : Bool := false) : Option Nat :=
  match appendAct (appending p id h) (appendAgent 0 0) [] reqr table2 ⟨0, 0, p, final, List.replicate 512 0⟩ with
  | .ok (_, v) => some v
  | .error (.status _ v) => some v
  | .error (.fault _ _) => none
/-- An append of a final row to slot 0 of a new page, with n pages free, of which the next is page v. -/
def popping (n v : Nat) : State := withOwn (withOwn (appending 0 0xFFFFFFFF 0 1) 0x1800 (toBytes 8 n)) 0x1808 (toBytes 4 v)
/-- An append to a page with two references, slots 0 and 1 of which are written. -/
def shared2 : State := withOwn (appending 2 0 (pageHdr 2 2 0 2 + 2 * 2 ^ 66)) 0x1808 (toBytes 4 1)
theorem wit_Appends : yields (readUnit (popping 1 1) [] reqr table2.free 8 .atomic) (some (toBytes 8 1)) = true ∧
    yields (readUnit (popping 0 1) [] reqr table2.free 8 .atomic) (some (toBytes 8 0)) = true ∧
    yields (readUnit (popping 1 1) [] reqr (addrAdd table2.free 8) 4) (some (toBytes 4 1)) = true ∧ 1 < table2.pages ∧ ¬ 2 < table2.pages ∧
    (writeUnit (popping 1 1) (appendAgent 0 0) [] reqr [(table2.free, toBytes 8 0)]).isOk = true ∧
    (match allocPage (popping 1 1) (appendAgent 0 0) [] reqr table2 with
      | .ok (u, n) => n == 1 && (writeUnit (u.renewId [] reqr (table2.idAt 0 0 0) 1) (appendAgent 0 0) [] reqr
          [(table2.rowAt 1 0, [0]), (table2.idAt 0 0 0, toBytes 4 1), (table2.hdrAt 1, toBytes 64 1)]).isOk
      | .error _ => false) = true ∧
    yields (readUnit shared2 [] reqr (table2.hdrAt 0) 64) (some (toBytes 64 (pageHdr 2 2 0 2 + 2 * 2 ^ 66))) = true ∧
    slotState (pageHdr 2 2 0 2 + 2 * 2 ^ 66) 2 = 0 ∧ pageFill (pageHdr 2 2 0 2 + 2 * 2 ^ 66) = 2 ∧ 2 ≤ pageRefs (pageHdr 2 2 0 2 + 2 * 2 ^ 66) ∧
    pageInvalid (pageHdr 2 2 0 2 + 2 * 2 ^ 66) = false ∧
    (match allocPage shared2 (appendAgent 0 0) [] reqr table2 with
      | .ok (u, n) => n == 1 && yields (readUnit u [] reqr (table2.rowAt 0 0) 1024) (some (List.replicate 1024 0)) &&
          (writeUnit (u.renewId [] reqr (table2.idAt 0 0 0) 1) (appendAgent 0 0) [] reqr
            [(table2.rowAt 1 2, [0]), (table2.rowAt 1 0, [0]), (table2.idAt 0 0 0, toBytes 4 1), (table2.hdrAt 0, toBytes 4 1),
             (table2.hdrAt 1, toBytes 64 1)]).isOk
      | .error _ => false) = true ∧
    (keysFrom (keyOf 320 0x800) 512).any (keyBad (appending 15 0 1)) = false ∧
    (List.map (fun p => yields (readUnit (appending 0 p.1 1) [] reqr (table2.idAt 0 0 0) 4 .atomic) (some (toBytes 4 p.1)))
      [(0xFFFFFFFF, 0), (2, 0), (1, 0), (0, 0)]).all (· == true) = true ∧ 1 % 16 ≠ 0 ∧ table2.pages ≤ 2 ∧ 0 < table2.pages ∧
    pageInvalid (pageHdr 0 0 0 0) = true ∧ pageInvalid (pageHdr 17 0 0) = true ∧ pageInvalid (pageHdr 15 0 15) = false ∧
    slotState (pageHdr 15 0 15) 15 = 0 ∧ pageFill (pageHdr 15 0 15) = 15 ∧ pageRefs (pageHdr 15 0 15) = 1 ∧ slotState (pageHdr 16 1 15) 15 = 1 ∧
    yields (translateWith (appending 15 0 1) [] reqr (own 0x800) 512 .read) (keysFrom (keyOf 320 0x800) 512) = true := by decide +kernel
theorem test_appends : appendStatus 1 0xFFFFFFFF 0 = some 0x16 ∧ appendStatus 15 2 1 = some 0x17 ∧ appendStatus 15 0 (pageHdr 17 0 0) = some 0x17 ∧
    appendStatus 15 0 (pageHdr 14 0 0) = some 0x16 ∧ appendStatus 15 0 (pageHdr 16 2 15) true = some 0x15 ∧
    appendStatus 15 0 (pageHdr 16 1 15) = some 0x15 ∧ appendStatus 15 0 (pageHdr 16 1 15) true = some 0 ∧
    appendStatus 15 0 (pageHdr 15 0 15) = some 0 := by decide +kernel
theorem test_append_command : ((after (exec (.appendAction 0 0) (appending 15 0 (pageHdr 15 0 15)))).cx.eng.queues.getD 0 []).map (fun k => (k.status, k.ended)) = [(0, true)] ∧
    memGet (after (exec (.appendAction 0 0) (appending 15 0 (pageHdr 15 0 15)))).mem (keyOf 320 0x2004) = 16 ∧
    ((after (exec (.appendAction 0 0) (appending 1 0xFFFFFFFF 0))).cx.eng.queues.getD 0 []).map (·.status) = [0x16] ∧
    ((after (exec (.appendAction 0 0) (popping 1 1))).cx.eng.queues.getD 0 []).map (·.status) = [0] ∧
    memGetAll (after (exec (.appendAction 0 0) (popping 1 1))).mem (keysFrom (keyOf 320 0x2040) 12) = toBytes 12 (1 + 2 ^ 32 + 2 * 2 ^ 64) ∧
    memGetAll (after (exec (.appendAction 0 0) (popping 1 1))).mem (keysFrom (keyOf 320 0x1040) 4) = toBytes 4 1 ∧
    ((after (exec (.appendAction 0 0) (popping 0 1))).cx.eng.queues.getD 0 []).map (·.status) = [0x14] ∧
    ((after (exec (.appendAction 0 0) (popping 1 2))).cx.eng.queues.getD 0 []).map (·.status) = [0x17] ∧
    memGet (after (exec (.appendAction 0 0) (popping 1 2))).mem (keyOf 320 0x1800) = 0 ∧
    ((after (exec (.appendAction 0 0) shared2)).cx.eng.queues.getD 0 []).map (·.status) = [0x18] ∧
    memGet (after (exec (.appendAction 0 0) shared2)).mem (keyOf 320 0x2000) = 1 ∧
    memGetAll (after (exec (.appendAction 0 0) shared2)).mem (keysFrom (keyOf 320 0x2040) 12) = toBytes 12 (1 + 3 * 2 ^ 32 + 0x1A * 2 ^ 64) := by
  decide +kernel

/-- A round of crew 5 with two contributions of one INT32, the second's operator given. -/
def rounds (op2 : Nat) (left dead : Bool) : Crew :=
  let k (r op v : Nat) : Contrib := { rank := r, op := op, ty := 2, nver := 3, count := 1, data := toBytes 4 v }
  { id := 5, team := 0, peer := 0, members := [(0, 1), (1, 2)],
    rounds := [{ index := 1, members := [(0, 1), (1, 2)], contribs := [k 1 op2 3, k 0 0 (2 ^ 32 - 1)], left := left, dead := dead }], begun := 1 }
/-- The same round with a member of a device that no peer entry names. -/
def away : Crew := { rounds 0 false false with rounds := [{ index := 1, members := [(0, 1), (1, 2 ^ 64 + 5)] }] }
theorem wit_RoundsComplete : [rounds 0 false false, rounds 1 false false, rounds 0 true false, rounds 0 false true].all (fun c =>
      ({ dev with crews := [c] } : State).crew? 5 == some c && (c.rounds.find? (fun r => r.ready || ({ dev with crews := [c] } : State).roundDead r)).isSome) = true ∧
    ({ dev with crews := [away] } : State).roundDead (away.rounds.headD { index := 0, members := [] }) = true ∧
    ((rounds 1 false false).rounds.map fun r => r.contribs.map (·.op)) = [[1, 0]] ∧ (dev).crew? 5 = none ∧
    2 ^ 32 - 1 < 2 ^ 32 := by decide +kernel
theorem test_rounds : ((rounds 0 false false).rounds.map (·.outcome)) = [(0, toBytes 4 2)] ∧
    ((rounds 1 false false).rounds.map (·.outcome)) = [(2, [])] ∧ ((rounds 0 true false).rounds.map (·.outcome.1)) = [3] ∧
    ((rounds 0 false true).rounds.map (·.outcome)) = [(4, [])] ∧ maxElem 2 (2 ^ 32 - 1) 3 = 3 ∧
    ((after (exec (.credRoundCompletion 5) { dev with crews := [rounds 0 false false] })).crews.map (·.rounds)) = [[]] := by decide +kernel

/-- CRED of one INT32 at the head of queue 0, in a stage, with what has been read. -/
def crediting (stage : Nat) (data : List Byte) (rank : Nat := 0) : State :=
  let k : Cmd := { kind := .cred, num := 1, src := own 0, dst := own 4096, count := 1, esz := 2, aux := 5, layout := [0], index := [0], stage := stage, data := data }
  { headed k with crews := [{ id := 5, team := 0, peer := 0, members := [(0, 1), (1, 2)] }],
                  ctxs := [(0, { (headed k).cx with eng := { (headed k).cx.eng with crews := [{ crew := 5, rank := rank }] } })] }
theorem wit_CredBeats : [crediting 0 [], crediting 0 (toBytes 4 9), crediting 1 [], crediting 2 (toBytes 4 9)].all (fun s =>
      (s.ctx 0).bound && (s.cx.eng.queues.getD 0 []).all (fun k => k.kind == .cred && !k.stopped && !k.ended && k.map == []) && s.crewLocal 5 &&
      (s.crew? 5).isSome && s.cx.member? 5 == some { crew := 5, rank := 0 }) = true ∧ (dev).cx.member? 5 = none ∧
    yields (translateWith (crediting 0 []) [] reqr (own 0) 4 .read) (keysFrom (keyOf 320 0) 4) = true ∧
    yields (translateWith (crediting 2 (toBytes 4 9)) [] reqr (own 4096) 4 .write) (keysFrom (keyOf 320 4096) 4) = true ∧
    ((rounds 0 false false).rounds.map (·.index)).Nodup ∧ (rounds 0 false false).rounds.all (fun r => r.contribs.all (·.whole)) = true := by
  decide +kernel
theorem test_cred_beats : ((after (exec (.copyBeat 0 0) (crediting 0 []))).cx.eng.queues.getD 0 []).map (·.data) = [[7, 7, 7, 7]] ∧
    (after (exec (.copyBeat 0 0) (crediting 0 (toBytes 4 9)))).crews.map (fun c => c.rounds.map fun r => r.contribs.map (·.data)) = [[[toBytes 4 9]]] ∧
    memGet (after (exec (.copyBeat 0 0) (crediting 2 (toBytes 4 9)))).mem (keyOf 320 4096) = 9 ∧
    ((rounds 0 false false).contribute { rank := 0, op := 0, ty := 2, nver := 3, count := 0, data := [] }).rounds.map (·.contribs.length) = [2, 1] := by
  decide +kernel
theorem test_reductions : sumElem 3 0 [0x3F800000, 0x40000000, 0x3F800000] = 0x40800000 ∧ sumElem 3 1 [0x3F80, 0x3F80] = 0x4000 ∧
    maxElem 0 0x3F800000 0x7F800001 = 0x7FC00000 ∧ maxElem 0 0x3F800000 0xC0000000 = 0x3F800000 ∧
    mergePartials 3 [0, 0x3F800000] [0, 0x3F800000] = [0, 0x40000000] := by decide +kernel

/-! Vectors. -/

/-- Rows of tile 0 by tag and lanes, under a tile type; s1 and s2 too. -/
def vecs (type : Tag) (rs : List (Tag × List Nat)) (s : List (Nat × Word) := []) : State :=
  let rows := rs.zipIdx.map fun (r, i) => (i, ({ tag := r.1, data := BitVec.ofNat 2048 (ofLanes (if r.1 = .deferred then 64 else r.1.laneBits) r.2) } : Row))
  devOf { cx0 with regs := { rows := rows, types := [(0, type)], s := s, m := [(1, 6), (2, 12)] } }
/-- Whether a source reads a value and leaves the machine as it was. -/
def reads (s : State) (f : VField) (v : Src) : Bool := match readSource s f with | .ok (w, t) => decide (w = v) && decide (t = s) | .error _ => false
/-- The first n lanes of the row result that an instruction puts in flight. -/
def outs (i : Instr) (s : State) (n w : Nat) : Option (List Nat) := (put1 i s).map fun v => lanesOf n w v
def row0 (s : State) : Row := s.cx.row 0
/-- Fields: operand-file entry, latch, scalar, constant. -/
def oper (i : Nat) : VField := BitVec.ofNat 10 (0x100 + i)
def scal (i : Nat) : VField := BitVec.ofNat 10 (0x340 + i)
/-- A load-data queue with rows, or a matrix operation that takes it. -/
def loaded (n : Nat) (ops : List MatOp := []) : State := devOf { cx0 with eng := { ldRows := List.replicate n { tag := .int32, data := 5 }, ops := ops } }

/-- A matrix operation that takes the load-data queue's rows. -/
def taking : MatOp := { nest := { Nest.reset with fields := [0, 0, 0, 0, 3, 3, 0, 64, 64, 32, 64, 64, 32, 2] } }
theorem wit_VectorSources : reads (vecs .int32 [(.int32, [0, 7, 0, 9])]) 0 (.row (row0 (vecs .int32 [(.int32, [0, 7, 0, 9])]))) = true ∧
    (row0 (vecs .int32 [(.int32, [0, 7])])).tag = .int32 ∧ (0 : VField).level = 0 ∧ rowOf (dev).cx 63 = some 63 ∧ rowOf (dev).cx 64 = none ∧
    (oper 15).level = 1 ∧ (0x201 : VField).level = 2 ∧ (0x201 : VField).index = 1 ∧ (0x300 : VField).isLdq = true ∧ 2 < (0x300 : VField).level ∧
    (∃ o ∈ (loaded 1 [taking]).cx.eng.ops, o.kind = .mgo ∧ bitOf (o.nest.fields.getD 13 0).toNat 1 = true) ∧
    (0x380 : VField).isScalar = false ∧ (0x380 : VField).isRnd = false ∧ (0x380 : VField).isLdq = false ∧ 2 < (0x380 : VField).level ∧
    (loaded 0).cx.eng.ops = [] ∧ (loaded 0).cx.eng.ldRows = [] ∧ (loaded 2).cx.eng.ldRows = [{ tag := .int32, data := 5 }, { tag := .int32, data := 5 }] ∧
    (0x301 : VField).isRnd = true ∧ (0x301 : VField).isLdq = false ∧ (scal 63).isScalar = true ∧ (scal 63).isRnd = false ∧ (scal 63).isLdq = false ∧
    (dev).cx.rnd.rows + ((dev).cycle - (dev).cx.rnd.upto) = 0 ∧ 0 < (dev).cx.rnd.rows + (({ dev with cycle := 1 } : State).cycle - (dev).cx.rnd.upto) := by
  decide +kernel
theorem test_masks : let s := vecs .fp32 [(.fp32, [0, 2 ^ 31, 1, 0x7F800000])]
    put1 (.vmaskAnd 3 1 2) s = some 4 ∧ put1 (.vmaskOr 3 1 2) s = some 14 ∧ put1 (.vmaskAndn 3 1 2) s = some 2 ∧
    put1 (.vmaskCount (scal 5) 1) s = some 2 ∧ put1 (.vmaskFrom 3 0) s = some 12 := by decide +kernel
/-- Philox4x32-10 of counter 0 and key 0, as its authors publish it. -/
theorem test_random_row : (philoxRow 0 0).toNat % 2 ^ 128 = 0x9B00DBD8BC57AC4CE169C58D6627E8D5 := by decide +kernel
/-- R149: a row a cycle; a second pop of the cycle waits for the next. -/
theorem test_rnd : (after (exec (.vmov 0 0x301 0) dev)).status = .held .rnd ∧
    (match readSource { dev with cycle := 1 } 0x301 with
      | .ok (_, t) => t.cx.regs.rngC == 16 && (readSource t 0x301 matches .error (.hold .rnd)) && (readSource { t with cycle := 2 } 0x301).isOk
      | .error _ => false) = true := by decide +kernel
theorem test_pop : (match readSource (loaded 2) 0x300 with | .ok (_, t) => t.cx.eng.ldRows.length | .error _ => 9) = 1 ∧
    (after (exec (.vmov 0 0x300 0) (loaded 0))).status = .held .ldq ∧ (after (exec (.vmov 0 0x300 0) (loaded 1 [taking]))).status = .held .owned := by
  decide +kernel
/-- Rows of INT32, empty, deferred and BF16, under a tile type of FP32. -/
def mixed : State := vecs .fp32 [(.int32, [1]), (.empty, []), (.deferred, [0x77, 9]), (.bf16, [0x3F80])] [(7, 2 ^ 32 + 8)]
theorem wit_SourceValues : [0, 1, 2, 3].all (fun i => reads mixed (BitVec.ofNat 10 i) (.row (mixed.cx.row i))) = true ∧ (mixed.cx.row 2).tag = .deferred ∧
    (mixed.cx.row 1).tag = .empty ∧ opFormat mixed.cx 9 [.row (mixed.cx.row 0)] .fp32 = .fp32 ∧ Tag.bf16.laneBytes ≠ Tag.fp32.laneBytes ∧
    Tag.int32.laneBytes = Tag.fp32.laneBytes ∧ opFormat mixed.cx 0x105 [.row { tag := .nq4 }] .fp32 = .nq4 ∧ 63 < Tag.fp32.lanes ∧ Tag.int8.isInt = true := by
  decide +kernel
theorem test_source_faults : [Instr.vmaskFrom 1 1, .vext (scal 5) 1 0, .vtag 9 1 0 1, .vcvt 9 1 0 0 1, .vbcast 9 1 0 0, .vredAdd 9 1 0].map (cause · mixed) =
      List.replicate 6 (some 0x14) ∧
    [Instr.vmaskFrom 1 2, .vext (scal 5) 2 0, .vins 9 2 (scal 7) 0 0, .vscanOr 9 2 0].map (cause · mixed) = List.replicate 4 (some 9) ∧
    [Instr.vbcast 9 3 0 0, .vbcast 9 0 0 0].map (cause · mixed) = [some 0x15, some 0x13] := by decide +kernel
theorem test_constants : ((Src.const 0x3DCCCCCD).lanes .bf16 false).headD 0 = 0x3DCD ∧ ((Src.const 0x7F7FFFFF).lanes .int8 false).headD 0 = 127 ∧
    ((Src.scalar 0x123456789).lanes .int8 false).headD 0 = 0x89 ∧ constEntry (dev).cx 35 = 0x40400000 := by decide +kernel

/-- Lanes 0, 1, 2, … of a row of INT32. -/
def iota : State := vecs .int32 [(.int32, List.range 64), (.int32, (List.range 64).map (100 + ·)), (.nq4, [5]), (.deferred, [0x77, 9])] [(7, 2 ^ 32 + 8)]
theorem wit_RowsMove : reads iota 0 (.row (row0 iota)) = true ∧ reads iota 2 (.row (iota.cx.row 2)) = true ∧ reads iota 3 (.row (iota.cx.row 3)) = true ∧
    (iota.cx.row 3).tag = .deferred ∧ (0x302 : VField).isStq = true ∧ (rowOf iota.cx 63).isSome = true ∧ iota.cx.eng.stData.length < 32 ∧
    (iota.cx.row 5).tag = .empty ∧ reads iota 5 (.row (iota.cx.row 5)) = true ∧ (0 : VField).level = 0 ∧ 1 < (0x302 : VField).level := by decide +kernel
theorem test_moves : (outs (.vmov 9 2 0) iota 1 8 = some [5] ∧ outs (.vch 0 0 0 0 9 0 0 0 0) iota 3 32 = some [0, 1, 2]) ∧
    (after (exec (.vmov 0x302 3 0) iota)).cx.trap.tcause = 2 ^ 18 + 9 ∧ (after (exec (.vtag 9 0 0 1) iota)).cx.pend.map (·.tag) = [.fp32] ∧
    cause (.vtag 9 5 0 1) iota = some 0x14 := by decide +kernel
theorem wit_LanesMove : reads iota 1 (.row (iota.cx.row 1)) = true ∧ opFormat iota.cx 9 [.row (row0 iota)] .fp32 = .int32 ∧
    opFormat iota.cx 9 [.row (row0 iota), .row (iota.cx.row 1)] .fp32 = .int32 ∧ yields (laneCheck iota (.row (row0 iota)) .int32) () = true ∧
    yields (laneCheck iota (.row (iota.cx.row 1)) .int32) () = true ∧ yields (tagPresent iota (.row (iota.cx.row 1))) () = true ∧
    (rowOf iota.cx 9).isSome = true ∧ (row0 iota).tag ≠ .empty ∧ (row0 iota).tag ≠ .deferred ∧ Tag.int32.lanes = 64 ∧
    (0 : Nat) % 2 = 0 ∧ 2 * 31 < 64 ∧ ¬ 2 * 32 < 64 ∧ ¬ 1 + 63 < 64 ∧ 63 % 64 = 63 := by decide +kernel
theorem test_lanes : outs (.vbcast 9 0 0 65) iota 2 32 = some [1, 1] ∧ outs (.vins 9 0 (scal 7) 0 1) iota 3 32 = some [0, 8, 2] ∧
    put1 (.vext (scal 5) 1 66) iota = some 102 ∧ outs (.vperm 9 1 0 0) iota 2 32 = some [100, 101] := by decide +kernel
theorem test_shuffles : outs (.vshuf 9 0 1 0 0 0) iota 4 32 = some [0, 100, 1, 101] ∧ outs (.vshuf 9 0 1 0 1 0) iota 3 32 = some [32, 132, 33] ∧
    (outs (.vshuf 9 0 1 0 2 0) iota 33 32).map (·.drop 31) = some [62, 100] ∧ (outs (.vshuf 9 0 1 0 3 0) iota 33 32).map (·.drop 31) = some [63, 101] ∧
    (outs (.vshuf 9 0 1 0 4 63) iota 2 32) = some [63, 100] ∧ outs (.vshuf 9 0 1 0 5 0) iota 2 32 = some [63, 62] := by decide +kernel

/-- Rows of BF16 with 3.0 and ∞, with 0.5 and 0, and with 2^127 in lanes 0 and 1. -/
def halves (type : Tag := .bf16) : State := vecs type [(.bf16, [0x4040, 0x7F80]), (.bf16, [0x3F00, 0]), (.bf16, [0x7F00, 0x7F00])]
theorem wit_Chains : ¬((4 : BitVec 5) = 0 ∧ (1 : BitVec 5) = 0 ∧ (0 : BitVec 5) = 0) ∧ vchReadsY 4 0 = true ∧ vchReadsZ 1 = true ∧ vchReadsY 8 0 = false ∧
    (match readSources (halves) [0, 1, 2] with
      | .ok (vs, t) => decide (vs = [.row ((halves).cx.row 0), .row ((halves).cx.row 1), .row ((halves).cx.row 2)]) && decide (t = halves) &&
          decide (opFormat t.cx 9 vs .fp32 = .bf16) && yields (tagChecks t vs .bf16) ()
      | .error _ => false) = true ∧
    (match readSources (halves) [0] with | .ok (vs, t) => decide (vs = [.row ((halves).cx.row 0)]) && decide (t = halves) | .error _ => false) = true ∧
    Tag.bf16.isFloat = true ∧ Tag.bf16.isInt = false ∧ (rowOf (halves).cx 9).isSome = true ∧ (2 : Nat) ^ 31 < 2 ^ 32 ∧ (255 : Nat) < 2 ^ 8 := by decide +kernel
/-- 3 · 0.5 + 2^127 rounds to 2^127; ∞ · 0 is NaN and invalid; only enabled lanes indicate. -/
theorem test_chain : outs (.vch 0 4 1 0 9 0 1 2 0) (halves) 2 16 = some [0x7F00, 0x7FC0] ∧ inds (.vch 0 4 1 0 9 0 1 2 0) (halves) = some 17 ∧
    inds (.vch 0 4 1 0 9 0 1 2 2) (halves) = some 0 ∧ cause (.vch 1 4 1 0 9 0 1 2 0) (halves) = some 0x13 := by decide +kernel
theorem test_integer_units : intUnit 1 false 32 (2 ^ 31 - 1) 1 = (2 ^ 31 - 1, 8) ∧ intUnit 2 true 8 3 5 = (0, 8) ∧ intUnit 3 false 8 3 5 = (2, 0) ∧
    intUnit 4 false 8 0x80 0x80 = (127, 8) ∧ intUnit 8 false 8 0x80 0 = (127, 8) ∧ intUnit 9 true 8 1 0 = (0, 8) ∧
    intUnit 5 false 8 0xFF 1 = (0xFF, 0) ∧ intUnit 6 true 8 0xFF 1 = (0xFF, 0) ∧ intUnit 15 false 8 3 9 = (6, 0) ∧
    intUnit 16 false 8 0x81 9 = (0x40, 0) ∧ intUnit 17 false 8 0x81 9 = (0xC0, 0) ∧ intUnit 19 false 8 0xFF 0 = (1, 0) := by decide +kernel
/-- The conversions that R145 tabulates: 1 + 2⁻⁸ and 500. -/
def fps : State := vecs .bf16 [(.fp32, [0x3F808000, 0x43FA0000])]
theorem wit_Conversions : reads (vecs .fp16 [(.bf16, [0x43FA])]) 0 (.row ((vecs .fp16 [(.bf16, [0x43FA])]).cx.row 0)) = true ∧
    Tag.ofCode 4 = .fp16 ∧ Tag.fp16.isFloat = true ∧ Tag.bf16.laneBytes = Tag.fp16.laneBytes ∧ runFits 255 1 = true ∧ runFits 9 1 = true ∧
    (9 : VField).level ≠ 2 ∧ rowOf (vecs .fp16 []).cx 9 = some 9 ∧ (vecs .fp16 []).cx.tileType (9 / 64) = .fp16 ∧
    (rowOf (vecs .fp16 []).cx 9).isSome = true ∧ (1 : VField) ≠ 0 := by decide +kernel
theorem test_conversions : [Tag.bf16, .fp16, .e4m3, .e5m2].map (fun t => ([0x3F808000, 0x43FA0000] : List Nat).map fun c => (roundFmt 3 (decodeFloat .fp32 c) t).1) =
      [[0x3F80, 0x43FA], [0x3C04, 0x5FD0], [0x38, 0x7E], [0x3C, 0x60]] ∧
    (outs (.vcvt 9 0 0 0 4) (vecs .fp16 [(.bf16, [0x43FA])]) 2 16) = some [0x5FD0, 0] ∧
    (after (exec (.vcvt 9 0 1 0 4) (vecs .fp16 [(.bf16, [0x43FA])]))).cx.trap.tcause = 0x2000 := by decide +kernel
/-- R191's example: two Newton steps after RCP, of 3.0, of -∞ and of 2⁻¹³⁰. -/
def newton (x : Nat) : List (Nat × Ind) :=
  let t1 := floatUnit 24 3 .fp32 x x
  let t2 := floatUnit 26 3 .fp32 t1.1 x
  [t1, t2, floatUnit 26 3 .fp32 t2.1 x]
theorem test_float_units : newton 0x40400000 = [(0x3EAAA000, 0), (0x3EAAAAAA, 0), (0x3EAAAAAB, 1)] ∧
    (newton 0xFF800000).map (·.1) = [0x80000000, 0x80000000, 0x80000000] ∧ newton 0x80000 = [(0x7F800000, 5), (0x7F800000, 0), (0x7F800000, 0)] ∧
    floatUnit 5 3 .fp32 0 0x80000000 = (0x80000000, 0) ∧ floatUnit 7 3 .bf16 0x8000 0 = (0, 0) ∧ floatUnit 0 1 .e4m3 0x81 0 = (0x80, 0) ∧
    (floatUnit 29 3 .fp32 0xBECCCCCD 0).1 = 0x80000000 ∧ (floatUnit 28 3 .fp32 0xBECCCCCD 0).1 = 0xBF800000 := by decide +kernel
theorem wit_FloatUnits : Tag.fp32.isFloat = true ∧ (0x40400000 : Nat) < 2 ^ Tag.fp32.laneBits ∧ decodeFloat .fp32 0x40400000 = .fin false 0xC00000 (-22) false ∧
    0xC00000 ≠ 2 ^ Nat.log2 0xC00000 ∧ decodeFloat .fp32 0x80000000 = .zero true ∧ decodeFloat .fp32 0xFF800000 = .inf true ∧
    (decodeFloat .e4m3 0x7F).isNan = true ∧ decodeFloat .fp32 0x80000 = .fin false 0x80000 (-149) false ∧
    Tag.fp32.maxSig * 0x80000 < 2 ^ 45 ∧ ((45 : Nat) : Int) = Tag.fp32.manBits - Tag.fp32.emax - (-149) := by decide +kernel
/-- R194's example: four rows of BF16, and a scale row of E2M1 and scale 2, in v44. -/
def packing : State :=
  let s := vecs .bf16 [(.bf16, [0x40A0, 0xC150, 0x3F1A, 0xBE80]), (.bf16, []), (.bf16, []), (.bf16, [])]
  { s with ctxs := [(0, { s.cx with regs := { s.cx.regs with rows := s.cx.regs.rows ++ [(44, { tag := .nq4s, data := 0x61 }), (48, { tag := .nq4, data := 0x01F4 })] } })] }
theorem wit_RowConversions : [0, 1, 2, 3].all (fun i => reads packing (BitVec.ofNat 10 i) (.row (packing.cx.row i)) && (packing.cx.row i).tag == .bf16) = true ∧
    reads packing 44 (.row (packing.cx.row 44)) = true ∧ (packing.cx.row 44).tag = .nq4s ∧ runFits 0 4 = true ∧ runFits 50 4 = true ∧ Tag.ofCode 8 = .nq4 ∧
    (rowOf packing.cx 50).isSome = true ∧ (packing.cx.tileType 0).laneBits = 16 ∧ packing.cx.tileType 0 ≠ .nq4 ∧ (0 : VField).level = 0 ∧
    (vecs .fp32 []).cx.tileType 0 ≠ .nq4 ∧ Tag.fp32.laneBits ≠ Tag.bf16.laneBits ∧ (0x200 : VField).level = 2 ∧ (0x105 : VField).level = 1 ∧ (0x105 : VField).index < 16 ∧
    Tag.bf16.laneBits < Tag.fp32.laneBits ∧ (0x300 : VField).level = 3 ∧ runFits 0 (Tag.bf16.laneBits / 4) = true := by decide +kernel
theorem test_row_conversions : outs (.vcvt 48 0 44 0 8) packing 4 4 = some [4, 15, 1, 0] ∧ inds (.vcvt 48 0 44 0 8) packing = some 9 ∧
    ((after (exec (.vcvt 50 48 44 0 3) packing)).cx.pend.head?.map fun e => lanesOf 4 16 e.data) = some [0x4080, 0xC140, 0x3F80, 0] ∧
    (after (exec (.vcvt 50 48 44 0 3) packing)).cx.pend.map (fun e => (e.dest, e.latch)) = [(.row 50, false), (.row 51, false), (.row 52, false), (.row 53, true)] ∧
    [Instr.vcvt 9 48 44 0 7, .vcvt 9 0 0x300 0 8, .vcvt 9 0 1 0 8, .vcvt 9 0 5 0 8].map (cause · packing) = [some 0x13, some 0x13, some 0x13, some 0x14] := by
  decide +kernel

/-- Lanes 5, −7, 2^31 − 1 and zeros of INT32. -/
def ints : State := vecs .int32 [(.int32, [5, 2 ^ 32 - 7, 2 ^ 31 - 1])]
theorem wit_Reductions : reads ints 0 (.row (row0 ints)) = true ∧ opFormat ints.cx 9 [.row (row0 ints)] .fp32 = .int32 ∧
    yields (tagCheck ints (.row (row0 ints)) .int32) () = true ∧ (rowOf ints.cx 9).isSome = true ∧ Tag.int32.isInt = true ∧
    (∀ l ∈ ([5, 2 ^ 32 - 7] : List Nat), l < 2 ^ Tag.int32.laneBits) ∧ 1 < ([5, 2 ^ 32 - 7] : List Nat).length := by decide +kernel
theorem test_row_reductions : outs (.vredAdd 9 0 0) ints 2 32 = some [2 ^ 31 - 3, 2 ^ 31 - 3] ∧ outs (.vredMax 9 0 0) ints 1 32 = some [2 ^ 31 - 1] ∧
    outs (.vredMin 9 0 0) ints 1 32 = some [2 ^ 32 - 7] ∧ outs (.vredAnd 9 0 0) ints 1 32 = some [0] ∧ outs (.vredOr 9 0 0) ints 1 32 = some [2 ^ 32 - 1] := by
  decide +kernel
theorem test_scans : outs (.vscanAdd 9 0 0) ints 3 32 = some [5, 2 ^ 32 - 2, 2 ^ 31 - 3] ∧ outs (.vscanMax 9 0 0) ints 3 32 = some [5, 5, 2 ^ 31 - 1] ∧
    outs (.vscanMin 9 0 0) ints 3 32 = some [5, 2 ^ 32 - 7, 2 ^ 32 - 7] ∧ outs (.vscanAnd 9 0 0) ints 3 32 = some [5, 1, 1] ∧
    outs (.vscanOr 9 0 0) ints 2 32 = some [5, 2 ^ 32 - 3] := by decide +kernel
theorem wit_FloatPrefixes : Tag.fp32.isFloat = true ∧ (∀ l ∈ ([0x7F800000, 0xFF800000] : List Nat), l < 2 ^ Tag.fp32.laneBits) ∧
    1 < ([0x7F800000, 0xFF800000] : List Nat).length ∧ decodeFloat .fp32 0x7F800000 = .inf false ∧ decodeFloat .fp32 0xFF800000 = .inf true ∧
    (decodeFloat .fp32 0x7F800001).isNan = true := by decide +kernel
/-- 1 + 2⁻²⁵ - 1 is exact; ∞ - ∞ is invalid; a NaN is quiet; -0 is below +0. -/
theorem test_float_prefixes : (prefixes .add 3 .fp32 [0x3F800000, 0x33000000, 0xBF800000]).map (·.1) = [0x3F800000, 0x3F800000, 0x33000000] ∧
    (prefixes .add 3 .fp32 [0x7F800000, 0xFF800000, 0x7F800001]) = [(0x7F800000, 0), (0x7FC00000, 16), (0x7FC00000, 0)] ∧
    (prefixes .min 3 .fp32 [0, 0x80000000, 0x7F800001]).map (·.1) = [0, 0x80000000, 0x7FC00000] ∧
    (prefixes .max 3 .bf16 [0x3F80, 0xC000]).map (·.1) = [0x3F80, 0x3F80] := by decide +kernel
/-- A scalar moved to a row of an FP32 tile: its low bits in every lane (R180, R181). -/
theorem wit_BareMoves : (match readSource iota (scal 7) with | .ok (v, t) => v.tag?.isNone && decide (t = iota) | .error _ => false) = true ∧
    (9 : VField).level = 0 ∧ (rowOf iota.cx 9).isSome = true ∧ outs (.vmov 9 (scal 7) 0) iota 2 32 = some [8, 8] ∧
    outs (.vch 0 0 0 0 9 (scal 7) 0 0 0) iota 2 32 = some [8, 8] := by decide +kernel

/-- R169's rotation: base 16, size 4 and RRB 1. -/
def rotating : Ctx := { cx0 with regs := { rotBase := 16, rotSize := 4, rrb := 1 } }
theorem test_rows_reached : [16, 19, 20, 15, 63, 64].map (rowOf rotating) = [some 17, some 16, some 20, some 15, some 63, none] ∧
    rowOf { rotating with regs := { rotating.regs with rowwin := 1 } } 0 = none ∧ cx0.bind.pool = 0 := by decide +kernel
/-- A product for s9 that issued in cycle 0 and lands in cycle 3 (R46's example), under XCHK and in two groups. -/
def windowed (xchk : Bool := true) (forked : Bool := false) : Ctx :=
  { cx0 with xchk := xchk, pend := [{ due := 3, dest := .scalar 9, data := 42 }],
             streams := if forked then [{}, {}] else [{}], map := 0x4000, ports := some (List.replicate 256 0) }
def trapOf (r : Except Stop Unit) : Option (Nat × Nat × Nat) := match r with
  | .error (.trap t) => some (t.cond, t.detail, t.origin)
  | _ => none
def adds (slot : Nat) (d a : SReg) (guard : BitVec 6 := 0) : Syl := ⟨slot, guard, .add d a 0⟩
theorem test_bundle_checks : trapOf (checkBundle (windowed false) 0 1 [adds 0 9 2, adds 1 10 9]) = some (0, 4, 0) ∧
    trapOf (checkBundle (windowed false) 0 1 [adds 0 9 2, adds 1 9 3]) = some (0, 5, 0) ∧
    [1, 2, 3].map (fun now => trapOf (checkBundle windowed 0 now [adds 0 10 9])) = [some (2, 0, 0), some (2, 0, 0), none] ∧
    trapOf (checkBundle (windowed false) 0 1 [adds 0 10 9]) = none ∧ trapOf (checkBundle windowed 0 1 [adds 0 9 2]) = some (2, 0, 0) ∧
    (match checkBundle { windowed false with board := [{ dest := .scalar 9 }] } 0 1 [adds 0 10 9 0x20] with | .error (.hold .scoreboard) => true | _ => false) = true := by
  decide +kernel
theorem test_forked_checks : [adds 0 10 2, adds 0 10 2 0x20, ⟨0, 0, .lbrk⟩, ⟨7, 0, .rstat 9 1 0⟩, ⟨0, 0, .gpost 3⟩].map (fun y => trapOf (checkBundle (windowed false true) 1 1 [y])) =
      [some (1, 0, 0), none, none, some (6, 0, 5), some (6, 0, 0)] ∧ trapOf (checkBundle (windowed false true) 0 1 [⟨7, 0, .rstat 9 1 0⟩]) = some (1, 0, 5) ∧
    trapOf (checkBundle (windowed false) 0 1 [⟨4, 0, .vmov 64 0 0⟩]) = some (0x12, 0, 3) ∧
    trapOf (checkBundle (windowed false) 0 1 [⟨4, 0, .vmov 1 0 0⟩, ⟨5, 0, .vmov 1 3 0⟩]) = some (0, 5, 3) := by decide +kernel
theorem wit_BundleChecks : conflict ([adds 0 9 2, adds 1 10 9].map fun y => (y, fixedReads y, fixedWrites y)) = some ⟨4, 1⟩ ∧
    conflict ([adds 0 9 2].map fun y => (y, fixedReads y, fixedWrites y)) = none ∧ (windowed).forked = false ∧ (windowed false true).forked = true ∧
    slotOutside (windowed false true) 1 [⟨7, 0, .rstat 9 1 0⟩] = none ∧ rowOutside windowed [adds 0 10 9] = none ∧
    conflict ([adds 0 10 9].map fun y => (y, readSet windowed y, writeSet windowed y)) = none ∧ (windowed).board = [] ∧ (windowed).eng.ops = [] ∧ (windowed).xchk = true ∧ (windowed false).xchk = false ∧
    Dest.scalar 9 ∈ readSet windowed (adds 0 10 9) ∧ Dest.scalar 9 ∈ writeSet windowed (adds 0 9 2) ∧ scoreboarded (adds 0 9 2).op = false ∧ latency (adds 0 9 2).op = 1 ∧
    guardTrue windowed 0 = true ∧ guardTrue windowed 0x20 = false ∧ unreadScale windowed (adds 0 9 2).op = false ∧ mapGroup (windowed).map 7 = 1 ∧ mapGroup (windowed).map 0 = 0 ∧
    portGrants (List.replicate 256 0) 1 (.scalar 9) = false ∧ portGate (List.replicate 256 0) 1 3 = false ∧ rowOf windowed 64 = none := by decide +kernel
/-- Words of R40's details: slots out of order, an unassigned major, a nonzero reserved bit, control in slot 1, FORK halves. -/
def forkWords (map : BitVec 16) (o : BitVec 14) (guard1 : Nat := 0) : List Nat := match encode 0 0 false (.fork map o 0 0) with
  | [a, b] => [a, b + guard1 * 2 ^ 46]
  | ws => ws
theorem test_refused : [[2 ^ 60, 0], [0xE0 * 2 ^ 52], [1], [2 ^ 60 + 0x85 * 2 ^ 52], [0x83 * 2 ^ 52 + 1], [0x83 * 2 ^ 52 + 4], forkWords 4 9 1].map (fun ws => match decodeBundle ws with
      | .error e => (e.detail, e.slot)
      | .ok _ => (9, 9)) = [(6, 0), (0, 0), (2, 0), (7, 1), (3, 0), (7, 0), (7, 1)] := by decide +kernel
theorem wit_RefusedBundles : wordSlot 0 ≤ wordSlot (2 ^ 60) ∧ wordSlot (2 ^ 60) = 1 ∧ (decodeHalf 0 1).isOk = false ∧ (match decodeHalf 1 (2 ^ 60 + 0x85 * 2 ^ 52) with | .ok (.whole i) => i.isControl | _ => false) = true ∧
    (match (forkWords 4 9).map fun w => decodeHalf (wordSlot w) w with | [.ok (.forkS0 m), .ok (.forkS1 a b c)] => forkOk m a b c && forkMapOk m | _ => false) = true ∧ forkMapOk 1 = false := by decide +kernel
/-- Values at the edges of R143: half the smallest subnormal, just above it, the largest finite value, and beyond; E4M3. -/
def ofE4m3 (mag : Nat) (exp : Int) : Nat × Ind := roundFmt 3 (.fin false mag exp false) .e4m3
theorem test_rounds_once : [ofE4m3 1 (-10), ofE4m3 3 (-11), ofE4m3 1 (-9), ofE4m3 448 0, ofE4m3 464 0, ofE4m3 465 0, ofE4m3 17 (-4), ofE4m3 19 (-4)] =
      [(0, 3), (1, 3), (1, 0), (0x7E, 0), (0x7E, 1), (0x7E, 9), (0x38, 1), (0x3A, 1)] ∧ roundFmt 2 (.fin true 1 (-130) false) .bf16 = (0x8000, 3) ∧
    roundFmt 2 (.fin true 255 (-134) false) .bf16 = (0x8080, 1) ∧ roundFmt 3 (.fin true 257 (-1) false) .int8 = (0x80, 1) ∧ roundFmt 3 (.fin true 259 (-1) false) .int8 = (0x80, 9) ∧
    roundFmt 3 (.fin false 5 (-1) false) .int8 = (2, 1) := by decide +kernel
theorem wit_RoundsOnce : (-6 : Int) = max (-10 + (Nat.log2 1 : Int)) (1 - Tag.e4m3.bias) ∧ 2 * 1 ≤ (2 * 0 + 1) * 2 ^ ((-6 - 3 : Int) - -10).toNat ∧ (-10 : Int) < -6 - Tag.e4m3.manBits ∧
    (8 : Int) = max (0 + (Nat.log2 448 : Int)) (1 - Tag.e4m3.bias) ∧ 448 = 14 * 2 ^ ((8 - 3 : Int) - 0).toNat ∧ 14 < 2 ^ (Tag.e4m3.manBits + 1) ∧ Tag.e4m3.isFloat = true ∧ (15 : Nat) < 2 ^ Tag.e4m3.expBits := by decide +kernel

/-! The matrix engine. -/

/-- The device with operations, numbered, the tile type of tile 0, and rows. -/
def engined (ops : List MatOp) (rows : List (Nat × Row) := []) (n : Nest := Nest.reset) : State :=
  devOf { cx0 with regs := { rows := rows, s := [(1, 2 ^ 32), (2, word (2 ^ 16 + 1)), (3, word (2 ^ 16 + 65))], a := [(1, own 0x4000), (2, own 0)] },
                   eng := { ops := ops, nest := n, time := List.replicate 7 { issued := ops.length } } }
def clearing (step : Nat := 0) : MatOp := { kind := .mclr, num := 1, steps := 1, step := step, tile := 0, tiles := [0] }
/-- A row of tile 0 in flight. -/
def rowComing : State := devOf { cx0 with pend := [{ due := 9, dest := .row 5, data := 0, group := 1 }] }
theorem wit_MatrixControl : (fieldRange 0).2 < ((engined []).rs 1).toInt ∧ ((engined []).rs 2).toInt ≤ (fieldRange 0).2 ∧
    (0x1FFF : BitVec 13).toInt = -1 ∧ (engined []).cx.tileCount = 1 ∧ (0 : TReg).toNat ∉ (engined []).cx.owned ∧
    (0 : TReg).toNat ∈ (engined [clearing]).cx.owned ∧ (engined []).cx.landingIn 0 0 [0] = false ∧ (1 : TReg).toNat ≥ (engined []).cx.tileCount ∧
    (7 : Nat) < 8 ∧ 8 ≤ 8 ∧ rowComing.cx.landingIn 0 0 [0] = true ∧ (0 : TReg).toNat ∉ rowComing.cx.owned := by decide +kernel
theorem wit_TileOperations : (0 : TReg).toNat < (engined []).cx.tileCount ∧ (engined []).cx.eng.ops.length < 4 ∧ 4 < (engined []).cx.eng.time.length ∧
    (engined [clearing]).cx.bound = true ∧ (engined [clearing]).cx.eng.ops = [clearing] ∧ clearing.stop = false ∧ clearing.trap = none ∧
    (engined []).cx.tileType 0 = (engined []).cx.tileType 0 ∧ (engined []).cx.pend = [] ∧ (engined []).cx.eng.ops = [] := by decide +kernel
theorem test_matrix_control : (after (exec (.msetI 5 3 (BitVec.ofInt 13 (-15))) (engined []))).cx.eng.nest.levels.getD 5 [] = [1, 0, 0, -15, 0] ∧
    cause (.mset 0 0 1) (engined []) = some 0x18 ∧ cause (.mset 0 17 2) (engined []) = some 0x18 ∧
    (after (exec (.mset 0 8 2) (engined []))).cx.eng.nest.fields.getD 0 0 = 65537 ∧ cause (.mcfg 1 2) (engined []) = some 0x12 ∧
    (after (exec (.mcfg 0 2) (engined [clearing]))).status = .held .owned ∧
    ((after (exec (.mcfg 0 2) (engined []))).cx.pend.map fun e => (e.dest, e.data)) = [(.tileType 0, 2)] := by decide +kernel
theorem test_tiles : ((after (exec (.mclr 0) (engined []))).cx.eng.ops.map (·.tiles)) = [[0]] ∧
    ((after (exec (.matrixStep 0) (engined [clearing] [(63, { tag := .int32, data := 9 })]))).cx.row 63) = { tag := .fp32, data := 0 } ∧
    ((after (exec (.matrixStep 0) (engined [clearing]))).cx.timeline 4).completed = 1 ∧
    ((after (exec (.mstop) (engined [clearing]))).cx.eng.ops.map (·.stop)) = [true] ∧
    ((after (exec (.msnap 0 0 9) (engined []))).cx.pend.map (·.due)).eraseDups = [12] ∧
    ((after (exec (.msnap 0 0 9) (engined []))).cx.pend.getLast?).map (·.data) = some (2 ^ 64 - 1) ∧
    (after (exec .mwait (engined [clearing]))).status = .held (.steps 1) := by decide +kernel

/-- INT8 by INT8, one step: A at 0x1000 in one plane, B at 0, a 1 by 1 cell of two products. -/
def nest8 (a0 fmtA : Int) : Nest := { levels := List.replicate 6 [1, 0, 0, 0, 0], fields := [a0, 0, 0, 0, fmtA, 7, 0, 1, 1, 2, 1, 1, 2, 0] }
/-- The device with that table, and tile 0 as INT32. -/
def multiplying (n : Nest) (ops : List MatOp := []) : State :=
  let s := engined ops [] n
  withOwn (withOwn { s with ctxs := [(0, { s.cx with regs := { s.cx.regs with types := [(0, .int32)] } })] } 0x1000 (toBytes 2 0x0302)) 0 (toBytes 1 5)
def mgo1 (steps : Nat) : MatOp := { kind := .mgo, num := 1, nest := nest8 0x1000 7, steps := steps, tiles := [0], ctype := 2 }
/-- The same with B from the load-data queue. -/
def fed : Nest := { nest8 0x1000 7 with fields := [0x1000, 0, 0, 0, 7, 7, 0, 1, 1, 2, 1, 1, 2, 2] }
theorem wit_MatrixIssue : (multiplying (nest8 0x1000 7)).cx.eng.ops.length < 4 ∧ (nest8 0x1000 7).tiles = [0] ∧ (nest8 0x1000 7).aTag = .int8 ∧
    (nest8 0x1000 7).bTag = .int8 ∧ (nest8 0x1000 3).aTag ≠ .int8 ∧ (multiplying (nest8 0 7)).cx.tileType 0 = .int32 ∧ (nest8 0 7).nat 14 ≤ planesOf .int8 ∧
    (nest8 0x1000 7).nat 8 % 256 = 0 ∧ (nest8 0x1001 8).nat 8 % 256 ≠ 0 ∧ (∀ l, l < 6 → (nest8 0x1000 7).level l 1 % 256 = 0) ∧
    yields ((multiplying (nest8 0x1000 7)).inShare ((nest8 0x1000 7).reach 1 0x1000).1 (((nest8 0x1000 7).reach 1 0x1000).2 + 256 * partsOf .int8)) () = true ∧
    (nest8 0x1000 7).fromQueue = false ∧ (nest8 0x1000 7).nat 9 % 64 = 0 ∧ (nest8 0x1000 7).nat 10 = 0 ∧
    yields ((multiplying (nest8 0x1000 7)).inShare 0 (0 + (31 * 64 + 64 : Nat))) () = true ∧ bitOf ((nest8 0x1000 7).nat 21) 0 = false ∧
    mayWrite (multiplying (nest8 0x1000 7)).cx 0 (([0] : List Nat).flatMap tileRows) = true ∧ (multiplying (nest8 0x1000 7)).storesBefore 1 = false ∧
    (nest8 0x1000 7).steps ≠ 0 ∧ rowComing.cx.eng.ops.length < 4 ∧ rowComing.cx.landingIn 0 0 [0] = true ∧ rowComing.cx.eng.nest.tiles = [0] ∧
    rowComing.cx.eng.nest.steps ≠ 0 ∧ fed.fromQueue = true ∧ fed.tiles = [0] ∧ fed.aTag = .int8 ∧ fed.steps ≠ 0 ∧ fed.nat 8 % 256 = 0 ∧
    (multiplying (nest8 0x1000 7)).storesBefore (2 ^ ((nest8 0x1000 7).nat 21 / 4)) = false ∧
    mayWrite (devOf { cx0 with streams := [{}, {}], ports := some (List.replicate 256 0) }).cx 0 (([0] : List Nat).flatMap tileRows) = false ∧
    (multiplying (nest8 0x1000 7)).cx.landingIn 0 0 [0] = false ∧ 4 ≤ (engined (List.replicate 4 clearing)).cx.eng.ops.length := by decide +kernel
theorem wit_PlaneIssue : bitsOf (word (2 ^ 16 + 65)).toNat 6 0 = 65 ∧ bitsOf (word (2 ^ 16 + 1)).toNat 6 0 = 1 ∧ bitsOf (word (2 ^ 16 + 1)).toNat 31 16 = 1 ∧
    bufIdx (own 0) = 0xFFFF ∧ bufOff (own 0x4000) % 256 = 0 ∧ Tag.ofCode 7 = .int8 ∧ yields ((engined []).inShare (0x4000 : Nat) (0x4000 + 256 * partsOf .int8 : Nat)) () = true ∧
    yields ((engined []).inShare (0 : Nat) (0 + 32 : Nat)) () = true ∧ (engined []).storesBefore 1 = false := by decide +kernel
theorem test_matrix_issue : ((after (exec .mgo (multiplying (nest8 0x1000 7)))).cx.eng.ops.map fun o => (o.steps, o.tiles, o.ctype)) = [(1, [0], 2)] ∧
    (after (exec .mgo (multiplying (nest8 0x1000 3)))).cx.trap.tcause = 0x13 ∧ (after (exec .mgo (multiplying (nest8 0x1001 7)))).cx.trap.tcause = 0x18 ∧
    (after (exec .mgo (engined (List.replicate 4 clearing)))).status = .held .full ∧
    ((after (exec (.mplane 1 2 2 7) (engined []))).cx.eng.ops.map fun o => (o.steps, o.rows)) = [(1, 1)] ∧
    cause (.mplane 1 2 3 7) (engined []) = some 0x18 := by decide +kernel
/-- The step that reads a granule in error. -/
def brokenStep : State := { multiplying (nest8 0x1000 7) [mgo1 1] with poison := [keyOf 320 0x1000 / 64] }
theorem wit_MatrixSteps : (multiplying (nest8 0x1000 7) [mgo1 2]).cx.eng.ops = [mgo1 2] ∧ (mgo1 2).trap = none ∧ (mgo1 2).step + 1 < (mgo1 2).steps ∧
    (match mgoStep (multiplying (nest8 0x1000 7) [mgo1 2]) 0 (mgo1 2) with | .done _ p => p.step | _ => 9) = 1 ∧
    (mgo1 0).steps ≤ (mgo1 0).step ∧ { mgo1 2 with stopped := true }.stopped = true ∧ { mgo1 2 with stop := true }.stop = true ∧ (engined []).cx.eng.ops = [] ∧
    ([[0]] : List (List Nat)).length = ([[.zero false]] : List (List Val)).length ∧ ([[0]] : List (List Nat))[0]? = some [0] := by decide +kernel
/-- An operation that waits for its own bundle's store. -/
def behindStore : State := (multiplying (nest8 0x1000 7) [{ mgo1 2 with after := 1 }]).onCtx 0 fun x => { x with eng := { x.eng with stData := [{ entry := 0 }] } }
theorem wit_MatrixWaits : (behindStore).cx.writtenTo 1 = false ∧ (multiplying (nest8 0x1000 7) [mgo1 2]).cx.writtenTo (mgo1 2).after = true ∧
    ({ cx0 with pend := [{ due := 9, dest := .row 5, data := 0 }] } : Ctx).landingIn 0 0 [0] = false := by decide +kernel
theorem test_matrix_waits : nextIs (exec (.matrixStep 0) behindStore) behindStore = true := by decide +kernel
theorem test_matrix_steps : (match mgoStep brokenStep 0 (mgo1 1) with | .stop t => some (t.cond, t.addr) | _ => none) = some (0x11, own 0x1000) ∧
    ((after (exec (.matrixStep 0) brokenStep)).cx.eng.ops.map fun o => (o.stopped, o.trap.map (·.info))) = [(true, some 0x10000000000)] ∧
    ((after (exec (.matrixStep 0) (multiplying (nest8 0x1000 7) [mgo1 2]))).cx.eng.ops.map (·.step)) = [1] ∧
    ((after (exec (.matrixStep 0) (multiplying (nest8 0x1000 7) [mgo1 1]))).cx.eng.ops) = [] ∧
    ((after (exec (.matrixStep 0) (multiplying (nest8 0x1000 7) [{ mgo1 2 with stop := true }]))).cx.eng.ops) = [] ∧
    cellStep true 3 (2 ^ 32 - 1) 0 [(0, Val.ofInt 2, Val.ofInt 3)] = (5, 0, none) ∧
    (after (exec (.mprov 5 0) { engined [] with ctxs := [(0, { cx0 with eng := { prov := [7] } })] })).cx.board.map (·.value) = [some 7] := by decide +kernel

/-! The nest, the sums and the steps. -/

/-- R213's example: 1.0, 1.5·2^−28, −1.0, 1.5·2^−26 times 2^20, 1.0, 2^20, 1.0. -/
def r213 : List (Val × Val) :=
  [(0x3F80, 0x4980), (0x31C0, 0x3F80), (0xBF80, 0x4980), (0x32C0, 0x3F80)].map fun p => (decodeFloat .bf16 p.1, decodeFloat .bf16 p.2)
theorem test_group_sum : groupSum 3 r213 = (0x32C00000, 1) ∧ addGroup 3 0x3F800000 0x32C00000 = (0x3F800000, 1, false) ∧
    groupSum 1 r213 = (0, 1) ∧ groupSum 3 [(.inf true, .zero false)] = (Tag.fp32.nan, 16) := by decide +kernel
theorem wit_StepSums : ((sumStep false 3 4 [r213.map (·.1)] (r213.map fun p => [p.2]) [[0x3F800000]]).1.getD 0 []).getD 0 0 = 0x3F800000 ∧
    (∃ v ∈ r213.map (fun p => (p.1.mul p.2).1), v.isZero = false) ∧ Val.nan.isNan = true ∧ Val.inf true ∈ ([.inf true, .inf false] : List Val) := by
  decide +kernel
/-- A nest of 3 by 2 steps over two tiles, from tile 1 down, with an M edge. -/
def walking : Nest := { levels := [[3, 256, 0, 0, 1], [2, 0, 64, -1, 2]] ++ List.replicate 4 [1, 0, 0, 0, 0], fields := [0, 0, 0, 1, 3, 3, 0, 64, 64, 32, 5, 64, 32, 0] }
theorem test_nest : walking.steps = 6 ∧ walking.indices 4 = [1, 1, 0, 0, 0, 0] ∧ walking.at_ [1, 1, 0, 0, 0, 0] 1 0 = 256 ∧ walking.tiles = [1, 0] ∧
    walking.edge [1, 1, 0, 0, 0, 0] 1 = true ∧ walking.initial [1, 1, 0, 0, 0, 0] = false ∧ walking.initial [0, 1, 0, 0, 0, 0] = true ∧
    walking.reach 1 7 = (7, 519) := by decide +kernel
/-- A step of BF16 by BF16, one by one by two, of groups without error. -/
def bf1 : Nest := { levels := List.replicate 6 [1, 0, 0, 0, 0], fields := [0x2000, 0, 0, 0, 3, 3, 0, 1, 1, 2, 1, 1, 2, 0] }
/-- Plane group at 0x2000 of 3.0 and −0.5 in row 0; B: 2.0 and 4.0 in column 0. -/
def bfStep : State :=
  let es := [0x4040, 0xBF00].map (splitElem .bf16 · 0)
  (List.range 17).foldl (fun s j => withOwn s (0x2000 + 256 * j) (toBytes 1 (ofLanes 1 (es.map (·.part .bf16 j)))))
    (withOwn (withOwn (engined [{ mgo1 1 with nest := bf1 }]) 0 (toBytes 2 0x4000)) 128 (toBytes 2 0x4080))
theorem wit_StepResults : bf1.nat 15 ≤ 64 ∧ bf1.bTag.laneBytes = 2 ∧ bf1.fromQueue = false ∧
    (List.range 17).all (fun j => !(keysFrom (keyOf 320 (0x2000 + 256 * j)) 256).any (keyBad bfStep)) = true ∧
    (List.range 32).all (fun k => !(keysFrom (keyOf 320 (k * bf1.pitch)) 128).any (keyBad bfStep)) = true ∧ fed.fromQueue = true ∧
    (loaded 8).cx.eng.ldRows.length = 8 := by decide +kernel
theorem test_step_results : ((match mgoStep bfStep 0 { mgo1 1 with nest := bf1 } with | .done t _ => some (t.cx.row 0) | _ => none).map fun (r : Row) => (r.tag, r.data.toNat % 2 ^ 64)) =
    some (.fp32, 0x40800000) := by decide +kernel
/-- MPLANE's step over one row of INT8: 32 bytes at 0 to the group at 0x4000, one group of two. -/
def planeStep0 : State := withOwn (engined [{ kind := .mplane, num := 1, steps := 2, fmt := 7, dst := own 0x4000, src := own 0, rows := 1 }]) 0 (toBytes 2 0x82FF)
theorem wit_PlaneSteps : planeStep0.cx.bound = true ∧ planeStep0.cx.eng.ops.length = 1 ∧ Tag.ofCode 7 = .int8 ∧
    (keysFrom (keyOf 320 0) 32).any (keyBad planeStep0) = false ∧ [Tag.bf16, .fp16, .e4m3, .e5m2, .int8].all (fun t => t.laneBytes * 8 == t.laneBits) = true ∧
    (match translate planeStep0 planeStep0.cx.bind.who (own 0x4000) 2048 .write with | .ok ks => keysReady planeStep0 ks | _ => false) = true := by decide +kernel
theorem test_plane_step : (after (exec (.matrixStep 0) planeStep0)).cx.eng.ops.map (·.step) = [1] ∧
    (List.range 8).map (fun j => ([0xFF, 0x82].map fun c => (splitElem .int8 c 0).part .int8 j)) = [[1, 1], [1, 0], [1, 0], [1, 0], [1, 0], [1, 0], [1, 1], [1, 0]] := by decide +kernel
theorem test_matrix_decode : [encode 6 0 true (.mset 6 0 1), encode 6 0 true (.mset 1 8 1), encode 6 0 true (.msetI 0 5 1),
    encode 6 0 true (.msetI 0 22 1), encode 6 0 false (.mset 6 0 1)].all (fun w => fails (decodeBundle w) ⟨3, 6⟩) = true := by decide +kernel

/-! Routes. -/

/-- Its memory with bytes in the unit scratchpad of tile 1. -/
def withNext (s : State) (off : Nat) (bs : List Byte) : State := { s with mem := memPutAll s.mem (keysFrom (keyOf 321 off) bs.length) bs }
/-- A record that names destination 0 twice; a table with one destination of capacity 1 at tile 1, queue 0x40. -/
def recNum : Nat := 0x3F800000 * 2 ^ 32 + 0x3F800000 * 2 ^ 96 + 0xFFFF * 2 ^ 128 + 0xFFFF * 2 ^ 192
def routeTable : List Byte := toBytes 64 (0x1000 + 1) ++ toBytes 32 (0x40 * 2 ^ 64 + 1 * 2 ^ 112 + 1 * 2 ^ 176 + 0xFFFF * 2 ^ 192)
/-- A context that can route, with routes of its own; s1 names the table, s2 a deadline, a1 the rows, a2 the records. -/
def routing (rs : List Route) (deadline : Word := 0) (tile : Word := own 0) : State :=
  let x := { cx0 with regs := { s := [(1, own 0x1000), (2, deadline), (3, 4096), (4, word (5 * 4096)), (5, 2 ^ 52 + 4096), (6, 256)],
                                a := [(1, tile), (2, own 0x800), (3, own 0)] },
                      eng := { routes := rs, time := List.replicate 7 { issued := 1 } } }
  let s := devOf x
  withOwn (withOwn { s with ctxs := [(0, x), (16, { cx0 with bind := { cx0.bind with uid := 2 } })] } 0x800 (toBytes 32 recNum)) 0x1000 routeTable
/-- A route of one row and one slot, to queue 0x40 of tile 1. -/
def slotOf (state : Nat) : RSlot := { row := 0, k := 0, dest := 0, tile := 1, queue := 0x40, weight := 0x40000000, state := state, data := 0x3FC00000 }
def routed (state : Nat) (deadline : Nat := 0) : Route := { num := 1, at_ := own 0, rows := 1, fmt := .fp32, deadline := deadline, slots := [slotOf state] }
def dealt1 : List (Nat × Dealt) := [(0, ⟨0xFFFF, 1, 1, 0x40⟩)]
/-- Tile 1 has a receive queue of two entries, its tail at n. -/
def queued1 (s : State) (n : Nat) : State := withNext s 0x40 (toBytes 64 (n + 0x1000 * 2 ^ 128 + 1 * 2 ^ 152 + 0x2000 * 2 ^ 192))

theorem wit_Routes : (routing []).cx.eng.routes.any (fun r => r.num + 4 == 2 && !r.done) = false ∧
    (devOf { cx0 with eng := { routes := [routed 0], time := List.replicate 7 { issued := 4 } } }).cx.eng.routes.any (fun r => r.num + 4 == 5 && !r.done) = true ∧
    (routing []).storesBefore 0xFFFF = false ∧ bufIdx (own 0) = 0xFFFF ∧ bufOff (own 0) % 256 = 0 ∧ bufOff (own 128) % 256 ≠ 0 ∧
    yields (checkRange (routing []) (routing []).who (own 0) 256 .read) () = true ∧ bufOff (own 0x800) % 8 = 0 ∧
    yields (readMem (routing []) (routing []).who (own 0x800) 32) (toBytes 32 recNum) = true ∧ recordsReserved (ofBytes (toBytes 32 recNum)) 1 = none ∧
    yields (readMem (routing []) (routing []).who (own 0x1000) 64) (toBytes 64 0x1001) = true ∧ reservedField 0x1001 [(511, 16)] = none ∧
    bitsOf 0x1001 15 12 = 1 ∧ 0 < bitsOf 0x1001 10 0 ∧ bitsOf 0x1001 10 0 ≤ 1024 ∧ yields (readDests (routing []) (own 0x1000) 1 [0, 0] []) dealt1 = true ∧
    5 < (routing []).cx.eng.time.length ∧ bufOff ((routing []).rs 1) % 8 = 0 ∧ bufOff (own 0x1004) % 8 ≠ 0 ∧
    mayWrite (routing []).cx 0 [.scalar 9] = true ∧ (9 : SReg) ≠ 0 ∧
    mayWrite (devOf { cx0 with streams := [{}, {}], ports := some (List.replicate 256 0) }).cx 0 [.scalar 9] = false := by decide +kernel
theorem wit_Settles : (∃ v ∈ (routed 0).slots, v.state < 2) ∧ (∀ v ∈ (routed 2).slots, 2 ≤ v.state) ∧ (routed 2).done = false ∧
    [keysFrom (keyOf 320 0) 256].length = (routed 2).rows ∧
    yields (translate (routing [routed 2]) ((routing [routed 2]).ctx 0).bind.who (addrAdd (own 0) (256 * 0 : Nat)) 256 .write) (keysFrom (keyOf 320 0) 256) = true ∧
    ((keysFrom (keyOf 320 0) 256).all fun a => decide (320 ≤ keySpace a)) = true ∧ (keysFrom (keyOf 320 0) 2).Nodup := by decide +kernel
theorem test_route : ((after (exec (.route 9 1 2 1 2 0) (routing []))).cx.eng.routes.map fun r => (r.num, r.slots.map (·.state))) = [(2, [0, 3])] ∧
    (after (exec (.route 9 1 2 1 2 0) (routing []))).cx.board.map (·.value) = [some (2 * 4096)] ∧
    cause (.route 9 1 2 1 2 0) (routing [] 0 (own 128)) = some 0x19 := by decide +kernel
/-- 1.5 with weight 2 is 3. -/
theorem test_settle : ofBytes (memGetAll ((routing [routed 2]).settleRoute 0 (routed 2)).mem (keysFrom (keyOf 320 0) 4)) = 0x40400000 ∧
    ((routing [routed 2]).settleRoute 0 (routed 2)).cx.eng.routes.map (·.done) = [true] := by decide +kernel

theorem wit_Deliveries : (queued1 (routing [routed 0]) 5).cx.route? 1 = some (routed 0) ∧ (routed 0).done = false ∧ (slotOf 0).state = 0 ∧
    openQueue (queued1 (routing [routed 0]) 1) reqr 1 0x40 = some (⟨1, 1, 0x1000, 0x2000⟩, 0) ∧ (1 + 2 ^ 64 - 0) % 2 ^ 64 < 2 ^ 1 ∧
    (queued1 (routing [routed 0]) 1).behind 0 (routed 0) (slotOf 0) = false ∧ slotOf 0 ∈ (routed 0).slots ∧ (routed 0).slots.takeWhile (· != slotOf 0) = [] ∧
    (readMem (queued1 (routing [routed 0]) 1) reqr (addrAdd (own 0) (256 * 0 : Nat)) 256).isOk = true ∧
    (writeUnit (queued1 (routing [routed 0]) 1) (routeAgent 0 0 1) [] reqr [(addrAdd (tile1 0) (0x1000 + 256 * 1 : Nat), toBytes 256 0),
      (addrAdd (tile1 0) (0x2000 + 16 * 1 : Nat), tagRecord 0 1 (slotOf 0)), (addrAdd (tile1 0) 0x40, toBytes 8 2)]).isOk = true ∧
    (routed 0 7).deadline ≠ 0 ∧ (routed 0 7).deadline ≤ ({ dev with time := 7 } : State).time ∧ (dev).time < (routed 0 7).deadline ∧
    (routed 1).slots.all (fun u => u.state != 0) = true ∧ (slotOf 0).ring = none ∧
    openQueue (queued1 (routing [routed 0]) 2) reqr 1 0x40 = some (⟨2, 1, 0x1000, 0x2000⟩, 0) ∧ ¬ (2 + 2 ^ 64 - 0) % 2 ^ 64 < 2 ^ 1 ∧
    openQueue (withNext (queued1 (routing [routed 0]) 1) 0x53 [0x0F]) reqr 1 0x40 = none ∧
    (({ slotOf 0 with ring := some ⟨1, 1, 0x1000, 0x2000⟩ } : RSlot).ring = some ⟨1, 1, 0x1000, 0x2000⟩) ∧
    yields (readNum (queued1 (routing [routed 0]) 1) reqr (addrOf 0xFE01 0x48) 8) 0 = true := by decide +kernel
/-- A slot that waits on the full queue of tile 1, a ring of two entries of which the head stands at h. -/
def waitingSlot (h : Nat) : State :=
  withNext (queued1 (routing [{ routed 0 with slots := [{ slotOf 0 with ring := some ⟨2, 1, 0x1000, 0x2000⟩ }] }]) 2) 0x48 (toBytes 8 h)
/-- A ROUTE whose own bundle's store is not yet written. -/
def behindRow : State := (queued1 (routing [{ routed 0 with after := 1 }]) 1).onCtx 0 fun x => { x with eng := { x.eng with stData := [{ entry := 0 }] } }
theorem wit_RouteAfterStores : ((behindRow).ctx 0).writtenTo 1 = false ∧ ((queued1 (routing [routed 0]) 1).ctx 0).writtenTo (routed 0).after = true := by decide +kernel
theorem test_route_after_stores : nextIs (exec (.heddleDelivery 0 1) behindRow) behindRow = true := by decide +kernel
theorem test_full_queue :
    ((after (exec (.heddleDelivery 0 1) (queued1 (routing [routed 0]) 2))).cx.eng.routes.map fun r => r.slots.map (·.ring)) = [[some ⟨2, 1, 0x1000, 0x2000⟩]] ∧
    nextIs (exec (.heddleDelivery 0 1) (waitingSlot 0)) (waitingSlot 0) = true ∧
    memGet (after (exec (.heddleDelivery 0 1) (waitingSlot 1))).mem (keyOf 321 0x40) = 3 ∧
    ((after (exec (.heddleDelivery 0 1) (withNext (queued1 (routing [routed 0]) 1) 0x53 [0x0F]))).cx.eng.routes.map fun r => r.slots.map (·.state)) = [[3]] ∧
    nextIs (exec (.heddleDelivery 0 1) { queued1 (routing [routed 0 7]) 1 with time := 7 }) { queued1 (routing [routed 0 7]) 1 with time := 7 } = true := by
  decide +kernel
theorem test_delivery : let t := after (exec (.heddleDelivery 0 1) (queued1 (routing [routed 0]) 1))
    memGet t.mem (keyOf 321 0x40) = 2 ∧ ofBytes (memGetAll t.mem (keysFrom (keyOf 321 0x2010) 12)) = 0x40000000 * 2 ^ 64 + 4096 ∧
    (t.cx.eng.routes.map fun r => r.slots.map (·.state)) = [[1]] := by decide +kernel
theorem test_deadline :
    ((after (exec (.routeDeadline 0 1) { routing [routed 0 7] with time := 7 })).cx.eng.routes.map fun r => r.slots.map (·.state)) = [[4]] ∧
    ((after (exec (.routeDeadline 0 1) { routing [routed 0 7] with time := 6 })).cx.eng.routes.map fun r => r.slots.map (·.state)) = [[0]] := by decide +kernel
/-- A whole route of three slots in row 0: 1.0 and 2.0 in lane 0, under 0.5 and 1.0, and one dropped. -/
def weighed : Route := { routed 2 with done := true, stale := 3, ind := 1, slots := [{ slotOf 2 with data := 0x3F800000, weight := 0x3F000000 },
  { slotOf 2 with k := 1, data := 0x40000000, weight := 0x3F800000, spill := true }, { slotOf 3 with k := 2 }] }
theorem wit_RouteOutputs : weighed.fmt = .fp32 ∧ weighed.slots.length ≤ 256 ∧ weighed.stale ≤ 255 ∧ 0 < weighed.rows ∧ weighed.rows ≤ 64 ∧
    (weighed.slots.filter fun v => v.row == 0 && v.state == 2).length = 2 ∧
    weighed.slots.countP (fun v => v.row == 0 && v.state == 2) ≤ 4 := by decide +kernel
theorem test_route_output : (weighed.output 0).1.toNat % 2 ^ 64 = 0x40200000 ∧ weighed.word 0 = 2 ^ 62 + 3 * 2 ^ 47 + 2 * 2 ^ 38 + 2 ^ 29 + 3 * 2 ^ 12 + 1 ∧
    [1, 2, 3, 4, 5].map weighed.word = [1, 0, 1, 2, 0] ∧
    ({ weighed with slots := [{ slotOf 2 with data := 0x7F800000, weight := 0 }] }.output 0).2.toNat = 16 := by decide +kernel
/-- Whether a result of a syllable is a trap of a condition. -/
def trapIs {α : Type} (r : Except Stop α) (c : Nat) : Bool := match r with | .error (.trap t) => t.cond == c | _ => false
theorem wit_RouteRecords : yields (readDest (routing []) (own 0x1000) 1 0) ⟨0xFFFF, 1, 1, 0x40⟩ = true ∧ trapIs (readDest (routing []) (own 0x1000) 1 1) 0x19 = true ∧
    yields (readDests (routing []) (own 0x1000) 1 [0, 0] []) [(0, ⟨0xFFFF, 1, 1, 0x40⟩)] = true ∧
    trapIs (readDest (withOwn (routing []) 0x1048 [0x41]) (own 0x1000) 1 0) 0x19 = true ∧ trapIs (readDest (withOwn (routing []) 0x104F [1]) (own 0x1000) 1 0) 0x05 = true ∧
    (readMem (queued1 (routing [routed 0]) 1) reqr (addrOf 0xFE01 0x40) 64).isOk = true ∧
    (match readMem (routing []) reqr (addrOf 0xFE05 0x40) 64 with | .ok _ => false | .error _ => true) = true ∧
    openQueue (routing []) reqr 5 0x40 = none := by decide +kernel
theorem test_route_checks : trapIs (readDest (withOwn (routing []) 0x1056 [65]) (own 0x1000) 1 0) 0x19 = true ∧
    cause (.route 9 1 2 1 2 0) (withOwn (routing []) 0x802 [1]) = some 0x05 ∧ cause (.route 9 1 2 1 2 0) (withOwn (routing []) 0x1000 (toBytes 2 0x2001)) = some 0x19 ∧
    cause (.route 9 1 2 1 2 0) (withOwn (routing []) 0x1002 [1]) = some 0x05 ∧ cause (.route 9 1 2 1 2 0) (withOwn (routing []) 0x1000 (toBytes 2 0x1000)) = some 0x19 ∧
    ((allocate [(0, ⟨1, 1, 5, 0x40⟩), (1, ⟨0xFFFF, 1, 6, 0x80⟩)] [(0, 0, 0, 7), (1, 0, 0, 8), (2, 0, 0, 9)] []).map fun v => (v.dest, v.tile, v.queue, v.spill, v.state)) =
      [(0, 5, 0x40, false, 0), (1, 6, 0x80, true, 0), (0, 0, 0, false, 3)] := by decide +kernel
/-- A row on its way to route 1 of context 0, from a team. -/
def returning (team state : Nat) : State := { routing [routed state] with returns := [⟨4096, team, 1, 7⟩] }
theorem wit_Returns : bitsOf ((routing []).rs 6).toNat 11 8 ≠ 0 ∧ bitsOf ((routing []).rs 3).toNat 11 8 = 0 ∧ bufOff ((routing []).ra 3) % 64 = 0 ∧
    yields (translate (routing []) (routing []).who (own 0) 256 .read) (keysFrom (keyOf 320 0) 256) = true ∧
    (keysFrom (keyOf 320 0) 256).any (keyBad (routing [])) = false ∧ (slotOf 1).state = 1 ∧ (routed 1).deadline = 0 ∧ (routed 1).done = false ∧
    (returning 0 1).returns[0]? = some ⟨4096, 0, 1, 7⟩ ∧ (returning 0 1).returns[1]? = none ∧ ((returning 0 1).ctx 0).bound = true ∧
    ((returning 0 1).ctx 0).eng.routes.find? (fun r => r.num % 2 ^ 40 == bitsOf 4096 51 12) = some (routed 1) ∧
    (routed 1).slots.find? (fun v => v.row == bitsOf 4096 7 2 && v.k == 4096 % 4) = some (slotOf 1) ∧ (0 = reqr.team) ∧ (5 ≠ reqr.team ∧ 5 ≠ reqr.peer) := by
  decide +kernel
theorem test_returns : (after (exec (.rret 3 3) (routing []))).returns.map (·.tag) = [4096] ∧ cause (.rret 6 3) (routing []) = some 0x1A ∧
    ((after (exec (.reedReturnArrival 0) (returning 0 1))).cx.eng.routes.map (·.done)) = [true] ∧
    ((after (exec (.reedReturnArrival 0) (returning 5 1))).cx.eng.routes.map (·.stale)) = [1] := by decide +kernel
theorem wit_RouteWaits : ((routing [routed 1]).rs 5).toNat / 2 ^ 52 ≠ (routing []).me ∧ ((routing []).rs 3).toNat / 2 ^ 52 = (routing []).me ∧
    ((routing []).rs 3).toNat % 4096 = 0 ∧ bitsOf ((routing []).rs 3).toNat 51 12 = 1 ∧ 1 ≤ ((routing []).cx.timeline 5).issued ∧
    (routing []).cx.route? 1 = none ∧ (routing [routed 1]).cx.route? 1 = some (routed 1) ∧ ({ routed 2 with done := true } : Route).done = true := by decide +kernel
theorem test_route_waits : (after (exec (.rwait 3) (routing [routed 1]))).status = .held (.route 4096) ∧
    cause (.rwait 5) (routing [routed 1]) = some 0x1A ∧ cause (.rstat 9 3 0) (routing []) = some 0x1A ∧
    (after (exec (.rstat 9 3 0) (routing [{ routed 2 with done := true }]))).cx.board.map (·.value) = [some (2 ^ 62 + 2 ^ 47 + 2 ^ 38)] := by decide +kernel

/-! Early exit. -/

/-- CONFT at layer e of a table with layers: one logit z, threshold 1.0 in s2, its descriptor in s1; the state st. -/
def exiting (layers e z st : Nat) : State :=
  let w := { reqr with usSize := 2 ^ 21 }
  let d := (own 0x1000).toNat + (own 0x3000).toNat * 2 ^ 128 + e * 2 ^ 224 + 2 ^ 320
  let s := devOf { cx0 with bind := { cx0.bind with who := w }, regs := { s := [(1, own 0), (2, 0x3F800000)], a := [(1, own 0x7000)] } }
  let s := withOwn (withOwn s 0 (toBytes 64 d)) 0x1000 (toBytes 64 (pagedNum + (layers - 1) * 2 ^ 208))
  let s := withOwn (withOwn s 0x3000 (toBytes 128 ((own 0x100000).toNat * 2 ^ 448))) 0x7000 (toBytes 4 z)
  withOwn (withOwn s 0x2000 (toBytes 64 (pageHdr 1 st 0))) 0x1044 (toBytes 4 (2 ^ 32 - 1))
def opOf (layers e : Nat) : ExitOp :=
  { table := BlockTable.of (own 0x1000) (pagedNum + (layers - 1) * 2 ^ 208), layer := e, pos := 0, hidden := 0, template := own 0x3000, args := own 0x100000 }
theorem wit_Confidence : (exiting 2 0 0 1).storesBefore 0xFFFF = false ∧ yields (readExit (exiting 2 0 0 1) 1 1) (opOf 2 0, toBytes 4 0) = true ∧
    yields (readExit (exiting 1 0 0 1) 1 1) (opOf 1 0, toBytes 4 0) = true ∧ exits false 3 [0] 0x3F800000 = true ∧ exits true 3 [0] 0x3F800000 = true ∧
    exits false 3 [0x7FC00000] 0x3F800000 = false ∧ sourceHere (exiting 2 0 0 1) (exiting 2 0 0 1).who (opOf 2 0).table 0 0 0 = some 0 ∧
    sourceHere (exiting 2 0 0 0) (exiting 2 0 0 0).who (opOf 2 0).table 0 0 0 = none ∧ (opOf 1 0).layer + 1 = (opOf 1 0).table.layers ∧
    (opOf 2 0).layer + 1 ≠ (opOf 2 0).table.layers ∧ decodeFloat .fp32 (flushSource 3 .fp32 0x7FC00000) = .nan ∧
    decodeFloat .fp32 (flushSource 3 .fp32 0x7F800000) = .inf false := by decide +kernel
theorem test_confidence : exits true 3 (List.replicate 4 0x41000000) 0x40000000 = true ∧ exits true 3 (List.replicate 4 0x41000000) 0x3FFFFFFF = false ∧
    exits false 3 (List.replicate 4 0x41000000) 0x3E800000 = true ∧ exits false 3 (List.replicate 4 0x41000000) 0x3E800001 = false := by decide +kernel
theorem wit_ExitChecks : trapIs (readExit (exiting 1 1 0 1) 1 1) 0x1B = true ∧ trapIs (readExit (withOwn (exiting 2 0 0 1) 30 [1]) 1 1) 0x05 = true ∧
    trapIs (readExit (withOwn (exiting 2 0 0 1) 0x103E [1]) 1 1) 0x05 = true ∧ trapIs (readExit (withOwn (exiting 2 0 0 1) 0x3000 (toBytes 128 0)) 1 1) 0x09 = true ∧
    trapIs (readExit (withOwn (exiting 2 0 0 1) 0x3038 [1]) 1 1) 0x1B = true ∧ (BlockTable.of (own 0x1000) (pagedNum + 2 ^ 208)).inRange = true ∧
    trapIs (readExit (withOwn (exiting 2 0 0 1) 0x303A [31]) 1 1) 0x0C = true ∧
    yields (readExit (exiting 2 0 0 1) 1 1) (opOf 2 0, toBytes 4 0) = true := by decide +kernel
theorem wit_ExitCopies : sourceHere (exiting 2 0 0 0) (exiting 2 0 0 0).who (opOf 2 0).table 0 0 0 = none ∧
    (match translate (exiting 2 0 0 1) (exiting 2 0 0 1).who ((opOf 2 0).table.rowAt 0 0) 512 .read with | .ok ks => !ks.any (keyBad (exiting 2 0 0 1)) | _ => false) = true ∧
    dieOf (exiting 2 0 0 1).tile < (exiting 2 0 0 1).chervil.length ∧ 6 < (exiting 2 0 0 1).cx.eng.time.length ∧ (exiting 2 0 0 1).me < 4096 := by decide +kernel
theorem test_exit_record : let t := (exiting 2 0 0 1).postExit (opOf 2 0) 3
    (t.chervil.getD 0 {}).postings.map (fun p => (ofBytes p.exit.bytes % 2 ^ 64 == (own 0x1000).toNat, bitsOf (ofBytes p.exit.bytes) 127 112, bitsOf (ofBytes p.exit.bytes) 307 256)) =
      [(true, 2, 1)] := by decide +kernel
/-- The value that an instruction promises to predicate 3, and the postings of die 0. -/
def exitOf (i : Instr) (s : State) : Option Nat × Nat := (promised i s, ((after (exec i s)).chervil.getD 0 {}).postings.length)
theorem test_exits : exitOf (.conftMaxp 3 1 2 1) (exiting 2 0 0x7FC00000 1) = (some 0, 0) ∧
    exitOf (.conftEnt 3 1 2 1) (exiting 2 0 0 1) = (none, 1) := by decide +kernel

/-- A posting of context 0, with predicate 3 pending, in a group with n records so far; a record that waits since tick 0. -/
def postingOf (args : Word) (retry : Nat := 0) : Posting :=
  { exit := { bytes := toBytes 64 7, ctx := 0, uid := 1, num := 1 }, who := reqr, template := own 0x3000, args := args, pd := 3, retry := retry }
def chervils (v : Chervil) (q : Nat := 0) : State :=
  let x := { cx0 with eng := { exits := 1 }, board := [{ dest := .pred 3 }] }
  let s := withOwn (devOf x) 0x3000 (toBytes 128 (5 * 2 ^ 320))
  { s with chervil := [v, {}], launch := [(14, { tail := q, cards := List.replicate q ⟨0, [], 0, 0, []⟩ })] }
def grouped (n : Nat) (tick retry : Nat := 0) : Group :=
  { who := reqr, template := own 0x3000, count := n, wait := [{ bytes := [], ctx := 0, uid := 1, num := 1, at_ := own 0x8000, tick := tick }], retry := retry }
/-- The record's slot is uncorrectable. -/
def spoiltExit : State := { chervils { postings := [postingOf (own 0)] } with poison := [keyOf 320 0 / 64] }
theorem wit_Postings : 0 < (chervils { postings := [postingOf (own 0)] }).chervil.length ∧
    (({ postings := [postingOf (own 0)] } : Chervil).nextPosting (fun q => q.retry == 0)) = some (0, postingOf (own 0)) ∧
    (({ postings := [postingOf (own 0)] } : Chervil).group? 0 (own 0x3000)) = none ∧
    (({ postings := [postingOf (own 0)], groups := [grouped 4095] } : Chervil).group? 0 (own 0x3000)) = some 0 ∧
    (({ postings := [postingOf (own 0)], groups := [grouped 4095] } : Chervil).nextPosting (fun q => q.retry == 0)).isSome = true ∧
    yields (translate (chervils { postings := [postingOf (own 0)] }) reqr (own 0) 64 .write) (keysFrom (keyOf 320 0) 64) = true ∧
    (keysFrom (keyOf 320 0) 64).any (keyBad (chervils { postings := [postingOf (own 0)] })) = false ∧ (keysFrom (keyOf 320 0) 64).any (keyBad spoiltExit) = true ∧
    yields (translate spoiltExit reqr (own 0) 64 .write) (keysFrom (keyOf 320 0) 64) = true ∧
    fails (translate (chervils { postings := [postingOf (own 131072)] }) reqr (own 131072) 64 .write) ⟨0x0C, own 131072, 0⟩ = true ∧
    ({ dest := .pred 3 } : Board) ∈ ((chervils {}).ctx 0).board ∧ ({ dest := .pred 3 } : Board).value = none := by decide +kernel
theorem test_posting : let t := after (exec (.exitRecordPosting 0) (chervils { postings := [postingOf (own 0)] }))
    memGet t.mem (keyOf 320 0) = 7 ∧ t.cx.board.map (·.value) = [some 1] ∧ t.cx.eng.exits = 0 ∧
    (after (exec (.exitRecordPosting 0) spoiltExit)).told = [.chervil 0 (own 0x3000) 0x11] ∧
    (after (exec (.exitRecordPosting 0) (chervils { postings := [postingOf (own 131072)] }))).told = [.chervil 0 (own 0x3000) 0x0C] := by decide +kernel
theorem wit_Cards : [grouped 1].findIdx? (fun g => g.retry == 0 && (match g.wait with | [] => false | e :: _ => decide (e.tick + 4000 ≤ 4000))) = some 0 ∧
    yields (readCard { chervils { groups := [grouped 1] } with time := 4000 } reqr (own 0x3000)) (5 * 2 ^ 320) = true ∧
    [grouped 1 1].all (fun g => match g.wait with | [] => true | e :: _ => decide (4000 < e.tick + 4000)) = true ∧ (chervils {}).chervil.getD 0 {} = {} ∧
    (Tab.get ({} : LaunchQ) (chervils {} 2).launch 14).cards.length < 4096 ∧ (∀ g ∈ [grouped 1 0 1], g.retry = 0 ∨ 0 < g.retry) ∧
    (({ postings := [postingOf (own 0) 4000] } : Chervil).nextPosting (fun p => p.retry != 0 && decide (p.retry ≤ 4000))) = some (0, postingOf (own 0) 4000) := by
  decide +kernel
theorem wit_FullBackfill : 4096 ≤ (Tab.get ({} : LaunchQ) [(14, { cards := List.replicate 4096 ⟨0, [], 0, 0, []⟩ })] 14).cards.length :=
  Nat.le_of_eq (List.length_replicate (n := 4096)).symm
theorem test_cards : let t := after (exec (.chervilAgeTimeout 0) { chervils { groups := [grouped 1] } with time := 4000 })
    ((t.chervil.getD 0 {}).formed.map fun q => (cardCount (cardNum q.card), cardArgs (cardNum q.card), cardCmax (cardNum q.card))) = [(1, own 0x8000, 5)] ∧
    (Tab.get ({} : LaunchQ) (after (exec (.chervilCardSubmission 0) (chervils { formed := [⟨0, [], 3, 0, []⟩] } 2))).launch 14).tail = 3 ∧
    memGet (after (exec (.chervilRetry 0) { chervils { postings := [postingOf (own 0) 4000] } with time := 4000 })).mem (keyOf 320 0) = 7 := by decide +kernel
/-- A backfill strand at HALT, of a chunk of the second of two records, whose issuer is the strand 1, another that is swapped out, or gone. -/
def backfilled (uid : Nat) : State :=
  let s := devOf { cx0 with regs := { cursor := 2 ^ 32 + 1 }, eng := { time := List.replicate 7 { issued := 4 } }, streams := [{ leave := some .halt }] }
  { s with runs := [{ queue := 0, pos := 0, card := [], team := 0, peer := 0, who := reqr, recs := [⟨3, uid, 0, 1⟩, ⟨4, uid, 0, 2⟩] }],
           images := [(5, { cx0 with bind := { cx0.bind with uid := 9 } })],
           chervil := [{ groups := [{ who := reqr, template := 0, inUse := [3, 4] }] }, {}] }
theorem wit_RecordsComplete : ((backfilled 1).leaveAll 0).run? (backfilled 1).cx.bind.queue (backfilled 1).cx.bind.card = (backfilled 1).runs.head? ∧
    (backfilled 1).byUid 1 = some 0 ∧ (backfilled 9).byUid 9 = none ∧ (backfilled 1).chervil.length = 2 := by decide +kernel
theorem test_records_complete : (((backfilled 1).leaveHalt 0).cx.timeline 6).completed = 0 ∧ (((backfilled 9).leaveHalt 0).images.map (·.2.swaps)) = [[2]] ∧
    (((backfilled 7).leaveHalt 0).images.map (·.2.swaps)) = [[]] ∧ ((((backfilled 1).recordsDone [⟨3, 1, 0, 1⟩]).cx.timeline 6).completed) = 1 ∧
    ((backfilled 1).leaveHalt 0).chervil.map (fun v => v.groups.map (·.inUse)) = [[[3]], []] ∧ ((backfilled 1).leaveHalt 0).cx.asks = true := by decide +kernel

/-! Tasks, futures, crews. -/

/-- A card of cmin 1, cmax 2 and result size 8 at 0x400, or with a field that JOBQ refuses; its header at 0x600. -/
def cardNum1 (cmin : Nat := 1) : Nat := cmin * 2 ^ 304 + 2 * 2 ^ 320 + 8 * 2 ^ 336 + (own 0x600).toNat * 2 ^ 512
/-- Job queue 0: its ring of two entries at 0x800, its level and owner, switched in or not; cards waiting. -/
def submitting (c : Nat) (tail : Nat := 0) (level owner : Nat := 0) (inn : Nat := 1) (cards : List Queued := []) : State :=
  let j : JobQ := { desc := BitVec.ofNat 512 ((own 0x800).toNat + inn * 2 ^ 100 + 2 ^ 104 + level * 2 ^ 108 + owner * 2 ^ 112), tail := tail }
  let s := dev [(1, 0), (2, 14), (3, 13), (4, 0xFFFFFFFF00000007), (5, 9)] [(1, own 0x400)]
  withOwn { s with jobqs := [(0, j)], launch := [(0, { cards := cards })], teams := [(0, { who := reqr })] } 0x400 (toBytes 128 c)
theorem wit_Tasks : yields (readTask (submitting cardNum1) 1) (cardNum1, 0) = true ∧ cardStatus (own 0x400) cardNum1 0 = 0 ∧
    cardStatus (own 0x400) (cardNum1 0) 0 = 5 ∧ yields (readTask (submitting (cardNum1 0)) 1) (cardNum1 0, 0) = true ∧
    bitOf (Tab.get ({} : JobQ) (submitting cardNum1).jobqs 0).desc.toNat 100 = true ∧ bitsOf (Tab.get ({} : JobQ) (submitting cardNum1).jobqs 0).desc.toNat 111 108 ≠ 14 ∧
    bitsOf (Tab.get ({} : JobQ) (submitting cardNum1).jobqs 0).desc.toNat 127 112 = reqr.team ∧
    bitsOf (Tab.get ({} : JobQ) (submitting cardNum1 2).jobqs 0).desc.toNat 107 104 = 1 ∧ 2 ^ 1 ≤ 2 - 0 ∧ 0 - 0 < 2 ^ 1 ∧
    yields (translate (submitting cardNum1) ((submitting cardNum1).teamWho 0) (addrAdd (own 0x800) (128 * (0 % 2 ^ 1) : Nat)) 128 .write) (keysFrom (keyOf 320 0x800) 128) = true ∧
    keysReady (submitting cardNum1) (keysFrom (keyOf 320 0x800) 128) = true ∧ (submitting cardNum1).fenced 0xFFFF = false ∧
    (after (exec (.fence 9 0) pairing)).fenced 0xFFFF = true ∧
    ((submitting cardNum1).rs 3).toNat % 16 ≤ 13 ∧ 13 < ((submitting cardNum1).rs 2).toNat % 16 := by decide +kernel
theorem test_jobq : [submitting cardNum1, submitting (cardNum1 0), submitting cardNum1 0 14, submitting cardNum1 0 0 5, submitting cardNum1 0 0 0 0, submitting cardNum1 2].map
      (fun s => promised (.jobq 9 1 1) s) = [some 0, some (5 * 2 ^ 60), some (2 * 2 ^ 60), some (2 * 2 ^ 60), some (2 * 2 ^ 60), some (2 ^ 60 + 2)] := by decide +kernel
theorem test_launch : [1, 2, 3].map (fun q => promised (.launch 9 1 q) (submitting cardNum1)) = [some 0, some (2 * 2 ^ 60), some 0] ∧
    ((after (exec (.launch 9 1 3) (submitting cardNum1))).launchQ 0 13).tail = 1 := by decide +kernel
/-- A card queued in a cycle is noted until the cycle ends (R302). -/
theorem test_posted : (after (exec (.jobq 9 1 1) (submitting cardNum1))).cx.eng.posted = [(0, 0, 0)] ∧
    (after (exec (.launch 9 1 3) (submitting cardNum1))).cx.eng.posted = [(2 ^ 16 + 13, 0, 0)] := by decide +kernel
theorem test_keys : (after (exec (.rngkey 4 5 1) (submitting 0))).cx.regs.rngK = 0x900000007 ∧
    promised (.enrd 9) (devOf { cx0 with regs := { enCount := 5, enSat := true } }) = some (2 ^ 63 + 5) ∧ (5 : Nat) < 2 ^ 48 := by decide +kernel

/-- A future word at 0x100; s1 a continuation, s2 a count, s3 a value; a continuation table of one entry at 0x200. -/
def future (w : Nat) (c n : Word := 1) : State :=
  let s := devOf { cx0 with bind := { cx0.bind with ccount := 1 }, regs := { s := [(1, c), (2, n), (3, 2 ^ 48 + 5)], a := [(1, own 0x100)] } }
  withOwn s 0x100 (toBytes 8 w)
def key100 : List Nat := keysFrom (keyOf 320 0x100) 8
theorem wit_Futures : ([0, 2 ^ 62 + 2 ^ 32, 2 ^ 63, 3 * 2 ^ 62].all fun w => yields (readFuture (future w) reqr (own 0x100)) w) = true ∧
    yields (translate (future 0) reqr (own 0x100) 8 .atomic) key100 = true ∧ yields (ownWatch (future 0) (own 0x100) 8 true true) () = true ∧
    futState (2 ^ 62 + 2 ^ 32) = 1 ∧ futState 0 = 0 ∧ futState (2 ^ 63) = 2 ∧ futState (3 * 2 ^ 62) = 3 ∧ (future 0).storesBefore 0xFFFF = false ∧
    yields (readFuture (future 0) reqr (own 0x100) .readWord) 0 = true ∧ yields (translate (future 0) reqr (own 0x100) 8 .readWord) key100 = true ∧
    (0 : Word).toNat < (future 0).cx.bind.ccount ∧ ¬ (1 : Word).toNat < (future 0).cx.bind.ccount ∧ yields (ownWatch (future 0) (own 0x100) 8 true false) () = true := by
  decide +kernel
/-- The future word after an instruction. -/
def futAfter (i : Instr) (s : State) : Nat := ofBytes (memGetAll (after (exec i s)).mem key100)
theorem test_futures : futAfter (.futinit 1) (future (2 ^ 63)) = 0 ∧ cause (.futinit 1) (future (2 ^ 62 + 2 ^ 32)) = some 0x24 ∧
    futAfter (.futreg 1 1 2) (future 0 0 3) = 2 ^ 62 + 3 * 2 ^ 32 ∧ cause (.futreg 1 1 2) (future 0) = some 0x23 ∧
    (after (exec (.futreg 1 1 2) (future (2 ^ 63) 0))).credits.length = 2 ∧ futAfter (.futres 1 3) (future 0) = 2 ^ 63 + 5 ∧
    (after (exec (.futres 1 3) (future (2 ^ 62 + 2 ^ 32)))).credits.length = 1 ∧ cause (.futres 1 3) (future (2 ^ 63)) = some 0x25 := by decide +kernel
theorem test_future_waits : (after (exec (.futwait 9 1) (future 0))).status = .held (.future (own 0x100)) ∧
    promised (.futwait 9 1) (future (2 ^ 63 + 5)) = some (2 ^ 63 + 5) := by decide +kernel

theorem wit_FutureFaults : fails (readFuture (future (2 ^ 48)) reqr (own 0x100)) ⟨0x05, own 0x100, 48⟩ = true ∧
    fails (readFuture (future (3 * 2 ^ 62 + 64)) reqr (own 0x100)) ⟨0x05, own 0x100, 6⟩ = true ∧
    fails (readFuture { future 0 with poison := [keyOf 320 0x100 / 64] } reqr (own 0x100)) ⟨0x11, own 0x100, 0⟩ = true ∧
    fails (readFuture (future 0) reqr (own 0x104)) ⟨0x0D, own 0x104, 0⟩ = true ∧ fails (readFuture (future 0) reqr (own 0x104) .readWord) ⟨0x0D, own 0x104, 0⟩ = true ∧
    cause (.futres 1 3) (future (2 ^ 48)) = some 0x05 ∧ cause (.futwait 9 1) (future 7) = some 0x05 := by decide +kernel
/-- Team 0 with one continuation at 0x400, a card, and its join word; one credit on its way. -/
def joining (j : Nat) (install : Bool := false) (index : Nat := 0) (card : Nat := cardNum1) (q : LaunchQ := {}) : State :=
  let s := { dev with teams := [(0, { who := reqr, conts := own 0x400, ccount := 1, hasConts := true })], launch := [(3, q)],
                      credits := [{ team := 0, index := index, count := 2, install := install }] }
  withOwn (withOwn s 0x400 (toBytes 128 card)) 0x480 (toBytes 8 j)
def joinWord (s : State) : Nat := ofBytes (memGetAll (after (exec .continuationCredit s)).mem (keysFrom (keyOf 320 0x480) 8))
def armed1 : Nat := 2 ^ 62 + 2 ^ 32 + 3
theorem wit_Continuations : (joining armed1).credits = [{ team := 0, index := 0, count := 2 }] ∧ joinStep armed1 2 false = (2 ^ 62 + 3, true) ∧
    yields (translate { joining armed1 with credits := [] } ((joining armed1).teamWho 0) (addrAdd (own 0x400) 128) 8 .atomic) (keysFrom (keyOf 320 0x480) 8) = true ∧
    (keysFrom (keyOf 320 0x480) 8).any (keyBad { joining armed1 with credits := [] }) = false ∧ (joinStep armed1 2 false).2 = true ∧
    (launchable { joining armed1 with credits := [] } ((joining armed1).teamWho 0) (own 0x400) 3).isSome = true ∧
    (launchable { joining armed1 false 0 (cardNum1 0) with credits := [] } ((joining armed1).teamWho 0) (own 0x400) 3) = none ∧
    (joinStep 3 2 true).2 = false ∧ (Tab.get ({ who := {} } : TeamRec) (dev).teams 0).hasConts = false ∧ 1 ≤ (1 : Nat) ∧ (dev).credits = [] ∧ (dev).waiting = [] ∧
    ([({ die := 0, level := 3, card := ⟨0, [], 0, 0, []⟩ } : Waiting)].find? fun w => !((joining 0).launchQ w.die w.level).full).isSome = true ∧
    futState 3 = 0 ∧ futState armed1 = 1 ∧ 0 < bitsOf armed1 47 32 ∧ futState (2 ^ 63) = 2 := by decide +kernel
theorem test_continuations : joinWord (joining 3 true) = 2 ^ 62 + 2 * 2 ^ 32 + 3 ∧ joinWord (joining (2 ^ 62 + 2 * 2 ^ 32 + 3)) = armed1 ∧
    joinWord (joining armed1) = 2 ^ 63 + 3 ∧ joinWord (joining armed1 false 0 (cardNum1 0)) = 2 ^ 63 + 2 ^ 62 + 3 ∧ joinWord (joining (2 ^ 63)) = 2 ^ 63 + 2 ^ 24 ∧
    ((after (exec .continuationCredit (joining armed1))).launchQ 0 3).tail = 1 ∧ (after (exec .continuationCredit (joining armed1 false 1))).told.length = 1 := by decide +kernel
theorem test_continuation_launch : ((after (exec .continuationLaunch { joining 0 with waiting := [{ die := 0, level := 3, card := ⟨0, [], 0, 0, []⟩ }] })).launchQ 0 3).tail = 1 := by
  decide +kernel

theorem wit_LostCredits : joinStep 3 2 false = (2 ^ 62 + 2 ^ 32 + 3, false) ∧ joinStep (2 ^ 62) 2 false = (2 ^ 62 + 2 ^ 24, false) ∧
    (after (exec .continuationCredit { joining armed1 with poison := [keyOf 320 0x480 / 64] })).told = [.credit { team := 0, index := 0, count := 2 } 0x11] ∧
    (after (exec .continuationCredit { joining armed1 with teams := [(0, { who := reqr, conts := own 0x404, ccount := 1, hasConts := true })] })).told =
      [.credit { team := 0, index := 0, count := 2 } 0x0D] := by decide +kernel
/-- A strand in crews, with s1 an identifier, beside the crews that are homed here. -/
def crews1 (id : Word) (ms : List Member) (cs : List Crew) (b : Option (Word × Nat) := none) : State :=
  { devOf { cx0 with regs := { s := [(1, id)] }, eng := { crews := ms }, streams := [{ barrier := b }] } with crews := cs }
def crewOf2 (team : Nat := 0) : Crew := { id := 5, team := team, peer := team, members := [(0, 1), (1, 2)], nextRank := 2 }
/-- A crew of two other strands. -/
def crewOf3 (team : Nat := 0) : Crew := { crewOf2 team with members := [(0, 2), (1, 3)] }
/-- A strand that asks for a crew of device 1, which it has a peer entry for. -/
def abroad : State := { crews1 (2 ^ 56 + 2 ^ 48) [] [] with peers := [(6, 8)] }
theorem wit_Crews : crewInvalid (2 ^ 57) = true ∧ crewInvalid 5 = false ∧ (crews1 5 [] []).cx.member? 5 = none ∧
    4 ≤ (crews1 9 (List.replicate 4 { crew := 5, rank := 1 }) []).cx.otherCrews 9 ∧ (crews1 5 [] []).cx.otherCrews 5 < 4 ∧
    ((abroad).peer? ((abroad).crewHome 0x0101000000000000)).isSome = true ∧
    (abroad).crewLocal (2 ^ 56 + 2 ^ 48) = false ∧ (crewOf2).members.find? (·.2 == cx0.bind.uid) = some (0, 1) ∧
    (∀ p ∈ (crewOf3).members, p.2 ≠ cx0.bind.uid) ∧
    (crews1 5 [] []).crewLocal 5 = true ∧ (crews1 5 [] []).crew? 5 = none ∧ (crews1 5 [] [crewOf2]).crew? 5 = some crewOf2 ∧
    (crews1 5 [] [crewOf3 7]).who.team ≠ (crewOf3 7).team ∧ (crewOf2).nextRank < 2 ^ 32 ∧ (crews1 (2 ^ 56 + 2 ^ 48) [] []).crewLocal (2 ^ 56 + 2 ^ 48) = false ∧
    (crews1 (2 ^ 56 + 2 ^ 48) [] []).peer? 1 = none ∧ ({ crews1 5 [] [] with peers := [(6, 8)] } : State).peer? 1 = some (0, 0) ∧
    (crews1 5 [{ crew := 5, rank := 1 }] [crewOf2]).cx.member? 5 = some { crew := 5, rank := 1 } ∧ (crews1 5 [] []).storesBefore 0xFFFF = false ∧
    pairing.storesBefore 0xFFFF = true ∧ (crews1 5 [] []).grp < (crews1 5 [] []).cx.streams.length := by decide +kernel
theorem test_joins : promised (.crewjoin 9 1) (crews1 5 [] []) = some 0 ∧ promised (.crewjoin 9 1) (crews1 5 [] [crewOf3]) = some 2 ∧ promised (.crewjoin 9 1) (crews1 5 [] [crewOf2]) = some (2 ^ 60) ∧
    promised (.crewjoin 9 1) (crews1 5 [] [crewOf3 7]) = some (5 * 2 ^ 60 + 2 ^ 32 - 1) ∧ promised (.crewjoin 9 1) (crews1 5 [{ crew := 5, rank := 1 }] []) = some (2 ^ 60 + 1) ∧
    promised (.crewjoin 9 1) (crews1 9 (List.replicate 4 { crew := 5, rank := 1 }) []) = some (3 * 2 ^ 60 + 2 ^ 32 - 1) ∧
    promised (.crewjoin 9 1) (crews1 (2 ^ 56 + 2 ^ 48) [] []) = some (4 * 2 ^ 60 + 2 ^ 32 - 1) ∧ cause (.crewjoin 9 1) (crews1 (2 ^ 57) [] []) = some 0x21 ∧
    (after (exec (.crewjoin 9 1) abroad)).cx.eng.joins = [(0x0101000000000000, 9)] := by
  decide +kernel
theorem test_crew_syllables : (after (exec (.crewleave 1) (crews1 5 [{ crew := 5, rank := 0 }] [crewOf2]))).cx.eng.crews = [] ∧
    ((after (exec (.crewleave 1) (crews1 5 [{ crew := 5, rank := 0 }] [crewOf2]))).crews.map (·.members)) = [[(1, 2)]] ∧
    cause (.crewleave 1) (crews1 5 [] []) = some 0x22 ∧
    (after (exec (.cbar 1) (crews1 5 [{ crew := 5, rank := 0 }] [crewOf2]))).stream.barrier = some (5, 0) ∧
    ((after (exec (.cbar 1) (crews1 5 [{ crew := 5, rank := 0 }] [crewOf2]))).crews.map (·.awaited)) = [[(1, 2)]] := by decide +kernel
theorem wit_CrewHomes : promised (.crewjoin 9 1) (crews1 5 [] [{ crewOf3 with nextRank := 2 ^ 32 }]) = some (2 * 2 ^ 60 + 2 ^ 32 - 1) ∧
    (crewOf2).members.find? (·.2 == cx0.bind.uid) = some (0, 1) ∧ (∃ q ∈ (crewOf2).members, q ≠ (0, 1)) ∧
    ((after (exec (.crewleave 1) (crews1 5 [{ crew := 5, rank := 0 }] [{ crewOf2 with isOpen := true, awaited := [(0, 1), (1, 2)] }]))).crews.map (·.awaited)) = [[(1, 2)]] ∧
    (after (exec (.cbar 1) { abroad with ctxs := [(0, { (abroad).cx with eng := { crews := [{ crew := 0x0101000000000000, rank := 3 }] } })] })).stream.barrier =
      some (0x0101000000000000, 3) := by decide +kernel
/-- A generation that has all its members, with or without early arrivals for the next. -/
def arrived2 (early : List (Nat × Nat)) (awaited : List (Nat × Nat) := []) : Crew :=
  { crewOf2 with isOpen := true, arrived := [(0, 1), (1, 2)], early := early, awaited := awaited, next := crewOf2.members }
theorem wit_Generations : (crews1 5 [] [arrived2 []]).crew? 5 = some (arrived2 []) ∧ (arrived2 []).isOpen = true ∧ (arrived2 []).awaited = [] ∧
    (arrived2 []).early = [] ∧ (arrived2 [(0, 1)]).early ≠ [] ∧ (crewOf2).isOpen = false ∧ (arrived2 [] [(1, 2)]).awaited ≠ [] ∧ (1 : Nat) < 2 ^ 64 ∧
    (crews1 5 [] [arrived2 []] (some (5, 0))).byUid 1 = some 0 ∧ ((crews1 5 [] [] (some (5, 0))).ctx 0).streams[0]? = some { barrier := some (5, 0) } ∧
    ({ arrived2 [] [(1, 2)] with arrived := [] } : Crew).isOpen = true ∧ (0, 1) ∉ ({ arrived2 [] [(1, 2)] with arrived := [] } : Crew).arrived ∧
    (1, 2) ∈ (arrived2 [] [(1, 2)]).awaited ∧ (0, 1) ∉ (arrived2 [] [(1, 2)]).awaited ∧ (0, 1) ∈ (arrived2 [] [(1, 2)]).arrived := by decide +kernel
/-- R295: a second CBAR that is counted for the next generation waits on when this one completes. -/
theorem test_arrivals : (let c := { arrived2 [] with heard := [(0, 1), (1, 1)] }
      let t := { barrier := some (5, 0), arrival := 2 }
      let s := crews1 5 [{ crew := 5, rank := 0, bars := 2 }] [c] (some (5, 0))
      let u := after (exec (.crewGenerationCompletion 5) (s.onCtx 0 fun x => { x with streams := [t] }))
      u.stream.barrier = some (5, 0) ∧ (u.crews.map (·.heard)) = [[(0, 1), (1, 1)]]) ∧
    ((crewOf2).arrive (0, 1) 0).heard = [(0, 1)] ∧ ((arrived2 []).arrive (0, 1) 0).heard = [(0, 1)] ∧
    ((arrived2 [] [(1, 2)]).arrive (3, 4) 0).earlyHeard.length = 1 := by decide +kernel
theorem test_generations : (after (exec (.crewGenerationCompletion 5) (crews1 5 [{ crew := 5, rank := 0 }] [arrived2 []] (some (5, 0))))).stream.barrier = none ∧
    ((after (exec (.crewGenerationCompletion 5) (crews1 5 [] [arrived2 [(0, 1)]]))).crews.map fun c => (c.gen, c.isOpen, c.arrived, c.awaited)) = [(1, true, [(0, 1)], [(1, 2)])] ∧
    nextIs (exec (.crewGenerationCompletion 5) (crews1 5 [] [arrived2 [] [(1, 2)]])) (crews1 5 [] [arrived2 [] [(1, 2)]]) = true := by decide +kernel

/-! The host, the fabric, power and trace. -/

/-- The device, whose host port has an address. -/
def devP : State := { dev with portAddr := [(8, 0)] }
/-- A message on host channel c with a sequence number, and the device that receives it. -/
def msg (seq : Word) (body : List Byte) (target : Word := 0) (chan : Nat := 0) : Msg :=
  { port := 8, src := 7, version := 1, chan := chan, seq := seq, ack := 0, target := target, body := body }
/-- A message from port 0. -/
def collMsg : Msg := { msg 1 [] 5 with port := 0 }
/-- The types and bodies of what has been sent. -/
def sent1 (s : State) : List (Nat × List Byte) := s.sent.map fun p => (p.2.2.1, p.2.2.2.body)
/-- A connection with one message unacknowledged. -/
def waiting1 (resends : Nat := 0) (dead : Bool := false) : State :=
  { devP with time := 20000, conns := [((devP).linkKey 8 7 0, { sent := 1, unacked := [(3, msg 1 [1])], resends := resends, dead := dead })],
              peers := [(1, 7), (4, 7), (6, 8)] }
theorem wit_Messages : (devP).portReady 8 = true ∧ ({ devP with readyM := 0 } : State).portReady 8 = false ∧ (msg 1 []).version = 1 ∧ (msg 1 [] 0 1023).chan < 1024 ∧
    1024 ≤ (msg 1 [] 0 1024).chan ∧ (msg 0 []).seq.toNat < ((devP).conn (msg 0 [])).expect ∧ ((devP).conn (msg 2 [])).expect < (msg 2 []).seq.toNat ∧
    (msg 1 []).seq.toNat = ((devP).conn (msg 1 [])).expect ∧ ((devP).conn (msg 1 [])).held = [] ∧ (msg 1 []).body.length ≤ 8192 ∧
    ofBytes (msg 1 (toBytes 8 4)).body = 4 ∧ ofBytes (msg 1 (toBytes 8 2)).body ≠ 4 ∧ (msg 1 (toBytes 8 4)).body.length = 8 ∧ (msg 1 []).body.length ≠ 8 ∧
    isTail 0x100040 = true ∧ collMsg.port ≠ 8 ∧ (msg 1 []).port = 8 ∧ isTail 0x100048 = false ∧
    (255 : Nat) < 256 ∧ (1023 : Nat) < 1024 ∧ (2 : Nat) < 3 := by decide +kernel
theorem wit_InTurn : InTurn devP (msg 1 []) := by unfold InTurn; decide +kernel
theorem test_messages : sent1 (after (exec (.qftRead (msg 1 [] 8)) { devP with time := 5 })) = [(3, toBytes 8 5), (0, [])] ∧
    (after (exec (.qftWrite (msg 1 (toBytes 8 0x1FF))) devP)).devnum = 0xFF ∧ (after (exec (.qftWrite (msg 1 (toBytes 8 9) 8)) devP)).time = 0 ∧
    sent1 (after (exec (.qftWrite (msg 2 (toBytes 8 9))) devP)) = [(10, toBytes 8 4)] ∧ sent1 (after (exec (.qftDone (msg 1 [])) devP)) = [(0, [])] ∧ sent1 ((devP).unlisted (msg 1 [])) = [(10, toBytes 8 1), (0, [])] ∧
    sent1 (after (exec (.qftWrite { msg 1 (toBytes 8 0) 0x100000 with port := 0 }) devP)) = [(10, toBytes 8 2), (0, [])] ∧
    sent1 (after (exec (.qftReaddata (msg 0 [])) devP)) = [(0, [])] ∧ sent1 (after (exec (.qftNak (msg 1 (toBytes 8 4))) (waiting1))) = [(3, [1]), (0, [])] := by decide +kernel
/-- A window write of job queue 1's tail beyond its room. -/
theorem test_window : (after (exec (.qftWrite (msg 1 (toBytes 8 2) 0x100040)) { devP with jobqs := [(1, { desc := BitVec.ofNat 512 (2 ^ 100) })] })).window 0x100050 = 5 ∧
    ((devP).setWindow 0x200008 77).window 0x200008 = 77 ∧ ((devP).setWindow 0x300010 0xFF).window 0x300010 = 15 := by decide +kernel

/-- Channel 0 bound to team 0 with the table of `mapped`. -/
def bound1 : State := { mapped (entryOf 0 7 256) with portAddr := [(8, 0)], chteam := [(0, 2 ^ 16)] }
def hostWho : Who := { ctx := 4096, team := 0, peer := 0, tile := 128, btChan := 0, btAddr := 0, btCount := 1 }
/-- The same with the buffer's data in stack 1, which is not ready. -/
def dark1 : State := { mapped (entryOf 0 7 256 + 32 * 2 ^ 104) with portAddr := [(8, 0)], chteam := [(0, 2 ^ 16)], readyM := 0x7FFFFFD }
theorem wit_Puts : (match translate (took dark1 (msg 1 [1])) hostWho 0 1 .write with | .ok ks => keysReady dark1 ks | .error _ => true) = false ∧
    dark1.channelWho 0 = some hostWho ∧ dark1.portReady 8 = true ∧ (devP).channelWho 0 = none ∧ bound1.channelWho 0 = some hostWho ∧
    yields (translate (took bound1 (msg 1 [1, 2] 254)) hostWho 254 2 .write) [254, 255] = true ∧
    fails (translate (took bound1 (msg 1 [1, 2] 255)) hostWho 255 2 .write) ⟨0x0C, 255, 0⟩ = true ∧
    fails (translate (took bound1 (msg 1 [1] (addrOf 1 0))) hostWho (addrOf 1 0) 1 .write) ⟨0x08, addrOf 1 0, 0⟩ = true ∧
    ofBytes ((msg 1 (toBytes 8 2 ++ toBytes 8 0x500)).body.take 8) % 2 ^ 32 = 2 ∧ (readMem (took bound1 (msg 1 [])) hostWho 254 2).isOk = true := by decide +kernel
theorem wit_PutsInTurn : InTurn bound1 (msg 1 [1, 2] 254) := by unfold InTurn; decide +kernel
theorem test_put_dark : sent1 (after (exec (.qftPut (msg 1 [1])) dark1)) = [(10, toBytes 8 2), (0, [])] := by decide +kernel
theorem test_put_get : memGet (after (exec (.qftPut (msg 1 [1, 2] 254)) bound1)).mem 255 = 2 ∧
    sent1 (after (exec (.qftPut (msg 1 [1, 2] 255)) bound1)) = [(10, toBytes 8 3), (0, [])] ∧ sent1 (after (exec (.qftPut (msg 1 [1])) devP)) = [(10, toBytes 8 2), (0, [])] ∧
    sent1 (after (exec (.qftGet (msg 1 (toBytes 8 1 ++ toBytes 8 0x500) 7)) bound1)) = [(4, [0x80]), (6, toBytes 8 0), (0, [])] := by decide +kernel
/-- A device with firmware. -/
def running : State := { devP with fwstat := 1 }
/-- The shortest image of legal length, without a magic number. -/
def shortest : List Byte := toBytes 16 (2 ^ 20 * 2 ^ 64) ++ List.replicate (imageSize (2 ^ 20) - 16) 0
theorem wit_WholeImage : imageWhole shortest = true := by
  have h : fieldAt shortest 8 8 = 2 ^ 20 := by decide +kernel
  have l : shortest.length = imageSize (2 ^ 20) := by
    simp only [shortest, List.length_append, List.length_replicate]; decide +kernel
  simp only [imageWhole, h, l]; decide +kernel
theorem wit_Loads : (msg 1 []).port = 8 ∧ collMsg.port ≠ 8 ∧ (devP).hostHiSet = false ∧ bitOf (devP).fwstat.toNat 0 = false ∧ bitOf running.fwstat.toNat 0 = true ∧ (msg 1 [] 0 3).chan ≠ 0 ∧ imageWhole (toBytes 16 0) = false ∧
    imageWhole (toBytes 15 0) = false ∧ containerWhole (toBytes 64 0) = true ∧ containerWhole (toBytes 63 0) = false ∧ (devP).hostSet = false ∧
    ((toBytes 16 0).take 4 ≠ [0x51, 0x46, 0x57, 0x31]) ∧ ((toBytes 16 0).take 4 ≠ [0x50, 0x52, 0x4E, 0x53]) ∧
    (let bs := toBytes 64 (0x534E5250 + 2 ^ 32 + 65 * 2 ^ 128); bs.take 4 = [0x50, 0x52, 0x4E, 0x53] ∧ fieldAt bs 4 2 = 1 ∧ fieldAt bs 16 8 ≠ bs.length) ∧
    imageStatus (toBytes 16 0) ≠ 0 ∧ containerStatus (toBytes 64 0) 0 ≠ 0 := by decide +kernel
theorem test_loads_messages : sent1 (({ devP with image := toBytes 16 0 } : State).loadEnds (msg 1 [])) = [(6, toBytes 8 0x20)] ∧
    (({ devP with image := toBytes 16 0 } : State).loadEnds (msg 1 [])).fwstat = 0x1000000002000 ∧
    sent1 (after (exec (.qftLoad collMsg) devP)) = [(10, toBytes 8 2), (0, [])] ∧ (after (exec (.qftLoad (msg 1 (toBytes 15 0))) devP)).image.length = 15 ∧
    sent1 (after (exec (.qftLoad (msg 1 (toBytes 64 0))) running)) = [(6, toBytes 8 1), (0, [])] ∧ (after (exec (.qftLoad (msg 1 [])) devP)).hostLo = 7 := by decide +kernel

/-- A trace of cluster 1 with frames 5 and 6. -/
def traced (ctl : Word) (post : Option Nat := none) (sync : Bool := false) : State :=
  { devP with trace := [(1, { ctl := ctl, pos := 7, frames := [(5, [1, 2]), (6, [3])], post := post, sync := sync, lastTime := 9 })], time := 12, phase := 5,
              notes := [{ tile := 9, issue := [(2, 3)], event := 1, data := 0x77 }, { tile := 20 }] }
/-- A device that device 1 reaches through port 0. -/
def peered : State := { devP with peers := [(4, 7), (6, 8)], crews := [{ crewOf2 with members := [(0, 2 ^ 65 + 3), (1, 2)] }] }
theorem wit_TraceMessages : (((Tab.get ({} : Trace) (traced 1).trace (ofBytes ((toBytes 8 17).take 8) % 16)).frames.filter fun p => decide (6 ≤ p.1) && decide (p.1 < 6 + 1024)).length) ≤ 1024 ∧
    peered.portReady 0 = true ∧ peered.peerOf collMsg = some 1 ∧ (devP).peerOf collMsg = none ∧ peered.crew? 5 = some { crewOf2 with members := [(0, 2 ^ 65 + 3), (1, 2)] } ∧
    [((0 : Nat), 2 ^ 65 + 3), (1, 2)].find? (·.2 == 2 ^ 64 * (1 + 1) + 3 % 2 ^ 64) = some (0, 2 ^ 65 + 3) := by decide +kernel
theorem wit_CollInTurn : InTurn peered collMsg := by unfold InTurn; decide +kernel
/-- A strand whose CREWJOIN to device 1 is under way. -/
def joins1 : State := (waiting1 16).onCtx 0 fun x => { x with eng := { joins := [(2 ^ 56 + 2 ^ 48, 9)] }, board := [{ dest := .scalar 9 }] }
theorem wit_LostJoins : (joins1.ctx 0).bound = true ∧ (joins1.ctx 0).eng.joins = [(0x0101000000000000, 9)] ∧ joins1.crewHome 0x0101000000000000 = 1 ∧
    joins1.crewLocal 0x0101000000000000 = false ∧ Tab.get 0 joins1.peers (4 * 1 + 2) = 8 ∧ 1 ∈ joins1.devicesAt 0 7 := by decide +kernel
theorem test_lost_joins : ((joins1.setWindow (0x300000 + 32 + 16) 0).cx.board.map (·.value)) = [some (4 * 2 ^ 60 + 2 ^ 32 - 1)] ∧
    ((joins1.setWindow (0x300000 + 32 + 16) 8).cx.board.map (·.value)) = [none] ∧
    ((joins1.setWindow (0x300000 + 64) 8).cx.board.map (·.value)) = [none] := by decide +kernel
theorem test_trace_message : sent1 (after (exec (.qftTrace (msg 1 (toBytes 8 17 ++ toBytes 8 6 ++ toBytes 8 0))) (traced 1))) = [(4, toBytes 8 3), (6, toBytes 8 1), (0, [])] ∧
    ((after (exec (.qftColl collMsg (.arrive 3)) peered)).crews.map (·.arrived)) = [[(0, 2 ^ 65 + 3)]] ∧
    ((after (exec (.qftColl collMsg (.leave 3)) peered)).crews.map (·.members)) = [[(1, 2)]] ∧ (after (exec (.qftColl collMsg (.leave 3)) devP)).window 0x100 = 2 ^ 32 := by decide +kernel
theorem wit_Links : (waiting1).conns.length = 1 ∧ (Tab.get ({} : Conn) (waiting1).conns ((devP).linkKey 8 7 0)).unacked ≠ [] ∧ 0 + 20000 ≤ (waiting1).time ∧
    (Tab.get ({} : Conn) (waiting1 16).conns ((devP).linkKey 8 7 0)).resends = 16 ∧ (Tab.get ({} : Conn) (waiting1 15).conns ((devP).linkKey 8 7 0)).resends < 16 ∧
    (Tab.get ({} : Conn) (waiting1 16 true).conns ((devP).linkKey 8 7 0)).dead = true ∧ ({ waiting1 with time := 19999 } : State).time < 0 + 20000 ∧
    1 ∈ peered.devicesAt 0 7 ∧ ({ devP with readyM := 0 } : State).portReady 3 = false := by decide +kernel
/-- R348, R352: a port's new address begins a connection of its own. -/
theorem wit_Connections : ((waiting1).conns.map (·.1)).filter (fun k => k % 2 ^ 142 == ((7 : BitVec 128).toNat * 1024 + 0) * 16 + 8) = [(devP).linkKey 8 7 0] ∧
    Tab.has (waiting1).conns ((waiting1).linkKey 8 7 0) = true ∧
    ({ devP with portAddr := [(8, 5)] } : State).linkKey 8 7 0 ≠ (devP).linkKey 8 7 0 := by decide +kernel
theorem test_links : sent1 (after (exec (.qftResendTimeout 8 7 0) (waiting1 15))) = [(3, [1])] ∧
    ((after (exec (.qftResendTimeout 8 7 0) (waiting1 16))).conns.map (·.2.dead)) = [true] ∧ nextIs (exec (.qftResendTimeout 8 7 0) { waiting1 with time := 19999 }) { waiting1 with time := 19999 } = true ∧
    (after (exec (.nonQftDatagram 3) devP)).window 0x118 = 2 ^ 32 ∧ (after (exec (.portLinkChange 3 true) devP)).window 0x118 = 1 := by decide +kernel

theorem wit_BringUp : (127 : Nat) < 128 ∧ (7 : Nat) < 8 ∧ (1 : Nat) < 2 ∧ (8 : Nat) < 9 ∧ (∀ d ∈ ([0, 1] : List Nat), d < 2) ∧ (65535 : Nat) < 2 ^ 16 := by decide
theorem test_ready : (after (exec (.functionReady (.tile 127)) State.reset)).window 0x208 = 2 ^ 63 ∧ (after (exec (.functionReady (.steward 7)) State.reset)).window 0x210 = 2 ^ 26 ∧
    (after (exec (.functionReady (.port 8)) State.reset)).window 0x210 = 2 ^ 18 ∧ (after (exec .moduleReset { devP with devnum := 3, time := 9 })).window 0 = 0 := by decide +kernel
theorem test_heat : (after (exec (.thermalThrottle 1 105) devP)).window 0x220 = 105 * 2 ^ 24 + 2 ∧ (after (exec (.thermalCoolBelow100 1 99) { devP with hot := [1] })).window 0x220 = 99 * 2 ^ 24 ∧
    (after (exec (.thermalTrip 0 115) devP)).trip = true ∧ (after (exec (.thermalTrip 0 115) devP)).window 0x220 = 115 * 2 ^ 16 + 6 := by decide +kernel

theorem wit_Traces : (Tab.get ({} : Trace) (traced 1).trace 1).ctl.toNat % 4 = 1 ∧ (Tab.get ({} : Trace) (devP).trace 1).ctl.toNat % 4 = 0 ∧
    (Tab.get ({} : Trace) (traced 2 (some 1)).trace 1).post = some 1 ∧ triggers (2 ^ 16 + 10) ((traced 0).notes.filter fun n => clusterOf n.tile == 1) = true ∧
    triggers (2 ^ 16 + 2) ((traced 0).notes.filter fun n => clusterOf n.tile == 1) = false ∧ 0 < bitsOf (2 ^ 16 + 10 : Word).toNat 31 16 ∧ 12 - 9 ≤ 3 := by decide +kernel
theorem test_trace_frames : (Tab.get [] (Tab.get ({} : Trace) (after (exec (.traceFrame 1) (traced 1))).trace 1).frames 7).map (·.toNat) =
      [3 * 2 ^ 60, 0, 2 ^ 58 + 3 * 2 ^ 32 + 2 ^ 20 + 0x77, 0, 0, 0, 0, 0, 0] ∧
    (Tab.get ({} : Trace) (after (exec (.traceFrame 1) (traced 2 (some 1)))).trace 1).ctl = 0 ∧
    (Tab.get ({} : Trace) (after (exec (.traceFrame 1) (traced (2 ^ 16 + 10)))).trace 1).post = some 1024 ∧
    (Tab.get ([] : List Word) (Tab.get ({} : Trace) (after (exec (.traceFrame 1) (traced 1 none true))).trace 1).frames 7).headD 0 = word (2 ^ 62 + 12) := by decide +kernel
/-- Two notes of one tile: the first mention of a slot and the lowest event count (R347). -/
theorem test_tile_word : (tileWord [{ tile := 9, issue := [(2, 3), (0, 1)], event := 5, data := 0xFFFFFF }, { tile := 9, issue := [(2, 7)], event := 2, data := 0x77 }]).toNat =
      2 ^ 58 + 2 ^ 56 + 3 * 2 ^ 32 + 2 ^ 24 + 2 ^ 21 + 0x77 ∧ triggers 8 [{ tile := 9, event := 1 }] = true ∧
    triggers 16 [{ tile := 9, event := 1, data := 4 * 0x29 }] = true ∧ triggers 16 [{ tile := 9, event := 1 }] = false ∧ triggers 8 [{ tile := 9, event := 2 }] = false := by decide +kernel
theorem test_trigger_alone : (Tab.get ({} : Trace) (after (exec (.traceFrame 1) (traced 10))).trace 1).ctl = 8 := by decide +kernel
/-- A DONE that was held comes next, once the message before it has been taken. -/
theorem test_held : let s := after (exec (.qftDone (msg 2 [])) devP)
    (s.conn (msg 1 [])).held.map (·.1) = [2] ∧ (after (exec (.qftDone (msg 1 [])) s)).agenda = [.qftDone (msg 2 [])] ∧
    ((after (exec (.qftDone (msg 1 [])) s)).conn (msg 1 [])).held = [] ∧ (s.conn (msg 1 [])).held.find? (fun p => p.1 == (s.conn (msg 1 [])).expect + 1) = some (2, .listed (.qftDone (msg 2 []))) := by
  decide +kernel
/-- A send on a new connection is numbered 1 and starts its timer; QSTAT's error is cleared by writing 1; 0x28 is not listed. -/
theorem test_sends : ((({ devP with time := 7 } : State).send 8 7 0 3 0 [1]).sent.map fun p => (p.2.2.1, p.2.2.2.seq.toNat)) = [(3, 1)] ∧
    (Tab.get ({} : Conn) (({ devP with time := 7 } : State).send 8 7 0 3 0 [1]).conns ((devP).linkKey 8 7 0)).timer = 7 ∧ (({ devP with readyM := 0 } : State).send 8 7 0 3 0 [1]).sent = [] ∧
    (({ devP with jobqs := [(1, { error := true })] } : State).setWindow 0x100050 4).window 0x100050 = 0 ∧
    (({ devP with jobqs := [(1, { error := true })] } : State).setWindow 0x100050 3).window 0x100050 = 4 ∧ (devP).window 0x28 = 0 ∧ ((devP).setWindow 0x300018 9).peers = [] := by decide +kernel
/-- A GET of more than 8,192 bytes answers in two PUTs, the second at the reply target + 8,192. -/
theorem test_get_pieces : ((putPieces devP (msg 1 []) 0x500 2 (List.replicate 8193 1) 0).sent.map fun p => (p.2.2.1, p.2.2.2.target.toNat, p.2.2.2.body.length)) =
    [(4, 0x500, 8192), (4, 0x2500, 1)] := by decide +kernel
theorem test_trace_target : ((after (exec (.qftTrace (msg 1 (toBytes 8 17 ++ toBytes 8 4 ++ toBytes 8 0x500))) (traced 1))).sent.map fun p => (p.2.2.1, p.2.2.2.target.toNat)) =
    [(4, 0x500 + 72), (6, 0), (0, 0)] := by decide +kernel

/-- A container of version 1 with one section entry that names bytes `off` and on; its digest is the one of its end. -/
def box (type off size link flags minimum : Nat) (code : List Byte) : List Byte :=
  let tail := toBytes 8 type ++ toBytes 8 off ++ toBytes 8 size ++ toBytes 8 link ++ code
  toBytes 8 (0x534E5250 + 2 ^ 32 + flags * 2 ^ 48) ++ toBytes 8 (1 + minimum * 2 ^ 32) ++ toBytes 8 (64 + tail.length) ++ toBytes 8 0 ++
    toBytes 32 (Config.sha256 tail).toNat ++ tail
theorem ofBytes_toBytes (n x : Nat) : ofBytes (toBytes n x) = x % 256 ^ n := by
  induction n generalizing x with
  | zero => simp [toBytes, ofBytes, Nat.mod_one]
  | succ n ih => simp [toBytes, ofBytes, ih, Nat.pow_succ, Nat.mul_comm (256 ^ n) 256, Nat.mod_mul]
theorem length_toBytes (n x : Nat) : (toBytes n x).length = n := by
  induction n generalizing x with
  | zero => rfl
  | succ n ih => simp [toBytes, ih]
/-- The digest of a box is the one that is checked. -/
theorem wit_Digest (type off size link flags minimum : Nat) (code : List Byte) :
    BitVec.ofNat 256 (fieldAt (box type off size link flags minimum code) 0x20 32) =
      Config.sha256 ((box type off size link flags minimum code).drop 0x40) := by
  have h : ∀ (a d t : List Byte), a.length = 32 → d.length = 32 → (a ++ d ++ t).drop 0x40 = t ∧ ((a ++ d ++ t).drop 0x20).take 32 = d := by
    intro a d t ha hd
    constructor
    · rw [List.drop_append_of_le_length (by simp [ha, hd])]; simp [ha, hd]
    · rw [List.append_assoc, List.drop_append_of_le_length (by omega), List.drop_of_length_le (by omega)]; simp [hd]
  unfold box fieldAt
  obtain ⟨h1, h2⟩ := h (toBytes 8 (0x534E5250 + 2 ^ 32 + flags * 2 ^ 48) ++ toBytes 8 (1 + minimum * 2 ^ 32) ++
    toBytes 8 (64 + (toBytes 8 type ++ toBytes 8 off ++ toBytes 8 size ++ toBytes 8 link ++ code).length) ++ toBytes 8 0)
    (toBytes 32 (Config.sha256 (toBytes 8 type ++ toBytes 8 off ++ toBytes 8 size ++ toBytes 8 link ++ code)).toNat)
    (toBytes 8 type ++ toBytes 8 off ++ toBytes 8 size ++ toBytes 8 link ++ code) (by simp [length_toBytes]) (length_toBytes _ _)
  simp only [h1, h2, ofBytes_toBytes]
  rw [Nat.mod_eq_of_lt (by have := (Config.sha256 (toBytes 8 type ++ toBytes 8 off ++ toBytes 8 size ++ toBytes 8 link ++ code)).isLt; exact this)]
  simp
/-- One code section of one NOP with its stop bit. -/
def nopBox (off size link flags minimum : Nat) (stop : Bool := true) : List Byte := box 1 off size link flags minimum (toBytes 8 ((encode 0 0 stop .nop).headD 0))
theorem wit_ImportChecks : fieldAt (nopBox 96 8 0 1 3) 4 2 = 1 ∧ (nopBox 96 8 0 1 3).take 4 = [0x50, 0x52, 0x4E, 0x53] ∧
    fieldAt (nopBox 96 8 0 1 3) 0x10 8 = (nopBox 96 8 0 1 3).length ∧ fieldAt (nopBox 96 8 0 1 3) 0x0C 4 = 3 ∧ badSections (nopBox 96 8 0 1 3) = false ∧
    badCode (nopBox 96 8 0 1 3) = false ∧ isNative (nopBox 96 8 0 1 3) = true ∧ badSections (nopBox 97 8 0 1 3) = true ∧ badSections (nopBox 96 8 1 1 3) = true ∧
    badSections (box 7 96 8 0 1 3 (toBytes 8 0)) = true ∧ badCode (nopBox 96 8 0 1 3 false) = true ∧ badCode (nopBox 96 7 0 1 3) = true ∧ badCode (nopBox 96 0 0 1 3) = true ∧
    isNative (nopBox 96 8 0 0 3) = false ∧ (toBytes 16 (2 ^ 20 * 2 ^ 64)).take 4 ≠ [0x51, 0x46, 0x57, 0x31] := by decide +kernel
theorem test_containers : containerStatus (nopBox 96 8 0 1 3) 3 = 0 ∧ containerStatus (nopBox 96 8 0 1 3) 2 = 4 ∧ containerStatus (nopBox 97 8 0 1 3) 3 = 3 ∧
    containerStatus (nopBox 96 8 0 1 3 false) 3 = 5 := by
  obtain ⟨h1, h2, h3, h4, h5, h6, h7, h8, -, -, h9, -⟩ := wit_ImportChecks
  have hl : fieldAt (nopBox 97 8 0 1 3) 4 2 = 1 ∧ (nopBox 97 8 0 1 3).take 4 = [0x50, 0x52, 0x4E, 0x53] ∧
    fieldAt (nopBox 97 8 0 1 3) 0x10 8 = (nopBox 97 8 0 1 3).length ∧ fieldAt (nopBox 96 8 0 1 3 false) 4 2 = 1 ∧
    (nopBox 96 8 0 1 3 false).take 4 = [0x50, 0x52, 0x4E, 0x53] ∧ fieldAt (nopBox 96 8 0 1 3 false) 0x10 8 = (nopBox 96 8 0 1 3 false).length ∧
    fieldAt (nopBox 96 8 0 1 3 false) 0x0C 4 = 3 ∧ badSections (nopBox 96 8 0 1 3 false) = false := by decide +kernel
  obtain ⟨k1, k2, k3, k4, k5, k6, k7, k8⟩ := hl
  have d (a b c d' e : Nat) (f : Bool) := wit_Digest 1 a b c d' e (toBytes 8 ((encode 0 0 f .nop).headD 0))
  refine ⟨?_, ?_, ?_, ?_⟩ <;> unfold containerStatus <;> simp_all [nopBox]
theorem test_groups : groupsOf [1, 2 ^ 63, 3] = [[1, 2 ^ 63], [3]] ∧ sectionStatus (List.replicate 33 ((encode 0 0 false .nop).headD 0)) = 7 ∧
    sectionStatus [(encode 0 0 true .nop).headD 0] = 0 := by decide +kernel
/-- Translation: GPOST before the BR of its group; a group of a forked stream takes its stream's slots, and its NOPs too. -/
theorem test_translation : let w := fun (n : Nat) (st : Bool) (i : Instr) => encode n 0 st i
    (translateSection (w 0 false (.br 0) ++ w 0 true (.gpost 1))).map (·.1) = [w 0 true (.gpost 1), w 0 true (.br (-1))] ∧
    (let ws := w 0 true (.fork 0x444 3 0 0) ++ w 0 true (.join 3) ++ w 0 true (.mul 3 4 5) ++ w 0 true (.join 3);
      sectionStatus ws = 0 ∧ (translateSection ws).map (·.1.map fun x => bitsOf x 62 60) = [[0, 1], [0], [1], [1], [1], [1], [0]]) := by decide +kernel

end Sys2Proof.Tests
end

section
/-!
PROOFS. Connections (R350, R352): what a table keeps of two writes, what taking, acknowledging and answering a message
leave of its connection, and one equation for each way in which `State.receive` ends.
-/

namespace Sys2Proof.Machine

/-! Tables. -/

/-- Of two writes under one key the second stays. -/
@[simp] theorem tab_set_set {α : Type} (t : List (Nat × α)) (k : Nat) (v w : α) :
    Tab.set (Tab.set t k v) k w = Tab.set t k w := by
  induction t with
  | nil => simp [Tab.set]
  | cons p r ih =>
    obtain ⟨j, x⟩ := p
    by_cases hj : j = k
    · simp [Tab.set, hj]
    · by_cases hk : k < j <;> simp [Tab.set, hj, hk, ih]

/-! The connection of a message. -/

/-- A connection is found by the table of connections and the addresses of the ports. -/
theorem State.conn_congr {s t : State} (m : Msg) (hc : t.conns = s.conns) (ha : t.portAddr = s.portAddr) :
    t.conn m = s.conn m := by
  unfold State.conn State.linkKey State.addressOf
  rw [hc, ha]

@[simp] theorem State.conn_onConn (s : State) (m : Msg) (f : Conn → Conn) : (s.onConn m f).conn m = f (s.conn m) :=
  tab_get_set_self ..

@[simp] theorem State.onConn_onConn (s : State) (m : Msg) (f g : Conn → Conn) :
    (s.onConn m f).onConn m g = s.onConn m (g ∘ f) := by
  have hc : Tab.set (s.onConn m f).conns (s.linkKey m.port m.src m.chan) (g ((s.onConn m f).conn m)) =
      Tab.set s.conns (s.linkKey m.port m.src m.chan) (g (f (s.conn m))) := by
    rw [State.conn_onConn]
    exact tab_set_set ..
  exact congrArg (fun cs => { s with conns := cs }) hc

@[simp] theorem Conn.acked_expect (c : Conn) (a now : Nat) : (c.acked a now).expect = c.expect := by
  unfold Conn.acked; dsimp only; split <;> rfl
@[simp] theorem Conn.acked_held (c : Conn) (a now : Nat) : (c.acked a now).held = c.held := by
  unfold Conn.acked; dsimp only; split <;> rfl

/-- What stays unacknowledged is what was, beyond the acknowledged number (R352). -/
theorem Conn.mem_acked_unacked {c : Conn} {a now : Nat} {p : Nat × Msg} (h : p ∈ (c.acked a now).unacked) :
    p ∈ c.unacked ∧ a < p.2.seq.toNat := by
  unfold Conn.acked at h
  dsimp only at h
  split at h
  · simpa using h
  · have hall := List.length_filter_eq_length_iff.1 (Nat.le_antisymm (List.length_filter_le _ _) (Nat.not_lt.1 ‹_›))
    exact ⟨h, by simpa using hall p h⟩

/-! Acknowledgements and messages sent. -/

/-- The acknowledgement of a message (log 35). -/
theorem State.acknowledge_sent (s : State) (m : Msg) :
    ∃ a, (s.acknowledge m).sent = s.sent ++ [(m.port, m.src, 0, a)] := ⟨_, rfl⟩

@[simp] theorem State.conn_acknowledge (s : State) (m : Msg) : (s.acknowledge m).conn m = s.conn m := rfl

@[simp] theorem State.conn_reply (s : State) (m : Msg) (type : Nat) (target : Word) (body : List Byte) :
    ((s.reply m type target body).conn m).held = (s.conn m).held ∧
    ((s.reply m type target body).conn m).expect = (s.conn m).expect := by
  have h : (s.reply m type target body).conn m = Tab.get ({} : Conn) (s.reply m type target body).conns
    (s.linkKey m.port m.src m.chan) := rfl
  rw [h]
  simp [State.reply, State.send, State.conn]

/-- A message that its port can send is on its way (R351). -/
theorem State.reply_sent (s : State) (m : Msg) (type : Nat) (target : Word) (body : List Byte)
    (h : s.portReady m.port = true) :
    ∃ d : Msg, (s.reply m type target body).sent = s.sent ++ [(m.port, m.src, type, d)] ∧ d.body = body ∧
      d.target = target ∧ d.chan = m.chan := by
  refine ⟨_, if_pos h, rfl, rfl, rfl⟩

/-! How a message ends (R350, R352, R362). -/

/-- A message of version 1 on one of the channels, no longer than a message can be, at a port that is ready. -/
def State.accepts (s : State) (m : Msg) : Prop :=
  s.portReady m.port = true ∧ m.version = 1 ∧ m.chan < 1024 ∧ m.body.length ≤ 8192

/-- The message held on a connection that is now due becomes the next happening (R352). -/
def State.takeHeld (s : State) (m : Msg) : State :=
  match (s.conn m).held.find? fun (p : Nat × Arrival) => p.1 == (s.conn m).expect with
  | none => s
  | some (n, e) =>
    let t := s.onConn m fun c => { c with held := c.held.filter (·.1 != n) }
    match e with
    | .listed i => { t with agenda := i :: t.agenda }
    | .unlisted w => { t with fw := .unlisted w :: t.fw }

theorem State.takeHeld_none {s : State} {m : Msg} (h : (s.conn m).held = []) : s.takeHeld m = s := by
  unfold State.takeHeld
  rw [h]
  rfl

theorem State.takeHeld_listed {s : State} {m : Msg} {n : Nat} {j : Instr}
    (h : (s.conn m).held.find? (fun p => p.1 == (s.conn m).expect) = some (n, .listed j)) :
    s.takeHeld m =
      let t := s.onConn m fun c => { c with held := c.held.filter (·.1 != n) }
      { t with agenda := j :: t.agenda } := by
  unfold State.takeHeld
  rw [h]

theorem State.receive_dropped {s : State} {m : Msg} (self : Arrival) (perform : State → State)
    (h : s.portReady m.port = false ∨ m.version ≠ 1 ∨ 1024 ≤ m.chan ∨ 8192 < m.body.length) :
    s.receive m self perform = s :=
  if_pos (by simpa [or_assoc] using h)

/-- What an accepted message comes to, before its number is looked at. -/
theorem State.receive_accepted {s : State} {m : Msg} (self : Arrival) (perform : State → State) (h : s.accepts m) :
    (s.receive m self perform) =
      let t := s.onConn m (·.acked m.ack.toNat s.time)
      if m.seq.toNat < (s.conn m).expect then t.acknowledge m
      else if (s.conn m).expect < m.seq.toNat then
        (t.onConn m fun c => if c.held.any (·.1 == m.seq.toNat) then c
          else { c with held := c.held ++ [(m.seq.toNat, self)] }).nak m 4
      else
        ((perform (took s m)).acknowledge m).takeHeld m := by
  obtain ⟨hr, hv, hc, hb⟩ := h
  have ht : (s.onConn m (·.acked m.ack.toNat s.time)).onConn m (fun c => { c with expect := c.expect + 1 }) = took s m :=
    by rw [State.onConn_onConn, took]; simp [Function.comp_def]
  unfold State.receive
  rw [if_neg (by simp [hr, hv, hc, hb])]
  simp only [State.conn_onConn, Conn.acked_expect, ht]
  rfl

theorem State.receive_older {s : State} {m : Msg} (self : Arrival) (perform : State → State) (h : s.accepts m)
    (hs : m.seq.toNat < (s.conn m).expect) :
    s.receive m self perform = (s.onConn m (·.acked m.ack.toNat s.time)).acknowledge m := by
  rw [State.receive_accepted self perform h]
  exact if_pos hs

/-- A message ahead of its turn is held and answered with NAK 4. -/
theorem State.receive_newer {s : State} {m : Msg} (self : Arrival) (perform : State → State) (h : s.accepts m)
    (hs : (s.conn m).expect < m.seq.toNat) :
    s.receive m self perform = ((s.onConn m (·.acked m.ack.toNat s.time)).onConn m fun c =>
      if c.held.any (·.1 == m.seq.toNat) then c else { c with held := c.held ++ [(m.seq.toNat, self)] }).nak m 4 := by
  rw [State.receive_accepted self perform h]
  dsimp only
  rw [if_neg (Nat.lt_asymm hs), if_pos hs]

/-- A message in turn is performed and acknowledged, and then the held one that is due after it is taken. -/
theorem State.receive_next {s : State} {m : Msg} (self : Arrival) (perform : State → State) (h : s.accepts m)
    (hs : m.seq.toNat = (s.conn m).expect) :
    s.receive m self perform = ((perform (took s m)).acknowledge m).takeHeld m := by
  rw [State.receive_accepted self perform h]
  dsimp only
  rw [if_neg (Nat.not_lt.2 (Nat.le_of_eq hs.symm)), if_neg (Nat.not_lt.2 (Nat.le_of_eq hs))]

/-! A message in turn. -/

theorem accepts_of_inTurn {s : State} {m : Msg} (h : InTurn s m) : s.accepts m := by
  obtain ⟨hready, hversion, hchan, hbody, -⟩ := h
  exact ⟨hready, hversion, hchan, hbody⟩

@[simp] theorem conn_took (s : State) (m : Msg) :
    (took s m).conn m = { (s.conn m).acked m.ack.toNat s.time with expect := (s.conn m).expect + 1 } := by
  simp [took]

/-- What is performed in turn leaves the messages held on its connection as they are. -/
def KeepsHeld (m : Msg) (s t : State) : Prop := (t.conn m).held = (s.conn m).held

theorem KeepsHeld.refl (m : Msg) (s : State) : KeepsHeld m s s := rfl

theorem KeepsHeld.trans {m : Msg} {s t u : State} (h : KeepsHeld m s t) (k : KeepsHeld m t u) : KeepsHeld m s u := by
  unfold KeepsHeld at *
  rw [k, h]

theorem keepsHeld_of_conns {m : Msg} {s t : State} (hc : t.conns = s.conns) (ha : t.portAddr = s.portAddr) :
    KeepsHeld m s t := by
  unfold KeepsHeld
  rw [State.conn_congr m hc ha]

theorem keepsHeld_reply (m : Msg) (s : State) (type : Nat) (target : Word) (body : List Byte) :
    KeepsHeld m s (s.reply m type target body) := (State.conn_reply s m type target body).1

/-- A message in turn is performed once and acknowledged (R350, R352). -/
theorem State.receive_inTurn {s : State} {m : Msg} (self : Arrival) {perform : State → State} (h : InTurn s m)
    (hk : KeepsHeld m (took s m) (perform (took s m))) :
    s.receive m self perform = (perform (took s m)).acknowledge m := by
  obtain ⟨-, -, -, -, hs, hh⟩ := id h
  have hheld : (((perform (took s m)).acknowledge m).conn m).held = [] := by
    rw [State.conn_acknowledge, hk, conn_took]
    simp [hh]
  rw [State.receive_next self perform (accepts_of_inTurn h) hs, State.takeHeld_none hheld]

end Sys2Proof.Machine
end

section
/-!
PROOFS. The peer table (R294, R359; log 16): the joins under way that a changed entry ends.
-/

namespace Sys2Proof.Machine

/-! Joins that no answer can reach (R294, R359). -/

/-- A context whose join of a crew gets status 4 where the crew satisfies a test. -/
def Ctx.loses (f : Word → Bool) (now : Nat) (x : Ctx) (j : Word × Nat) : Ctx :=
  if f j.1 then x.joined j.1 (notJoined 4) now else x

/-- The joins of one entry of the list of contexts ended. -/
def State.loseJoinsOf (f : Word → Bool) (s : State) (p : Nat × Ctx) : State :=
  p.2.eng.joins.foldl (fun s j => if f j.1 then s.onCtx p.1 (·.joined j.1 (notJoined 4) s.cycle) else s) s

theorem State.loseJoins_eq_foldl (s : State) (f : Word → Bool) : s.loseJoins f = s.bound.foldl (State.loseJoinsOf f) s :=
  rfl

/-- Ending joins changes contexts alone. -/
theorem State.loseJoins_frame (s : State) (f : Word → Bool) : s.loseJoins f = { s with ctxs := (s.loseJoins f).ctxs } := by
  have inner (ls : List (Word × Nat)) (c : Nat) (t : State) (h : t = { s with ctxs := t.ctxs }) :
      let u := ls.foldl (fun s j => if f j.1 then s.onCtx c (·.joined j.1 (notJoined 4) s.cycle) else s) t
      u = { s with ctxs := u.ctxs } := by
    induction ls generalizing t with
    | nil => exact h
    | cons j r ih =>
      refine ih _ ?_
      dsimp only
      split
      · rw [h]; rfl
      · exact h
  rw [State.loseJoins_eq_foldl]
  have outer (ls : List (Nat × Ctx)) (t : State) (h : t = { s with ctxs := t.ctxs }) :
      ls.foldl (State.loseJoinsOf f) t = { s with ctxs := (ls.foldl (State.loseJoinsOf f) t).ctxs } := by
    induction ls generalizing t with
    | nil => exact h
    | cons p r ih => exact ih _ (inner _ _ _ h)
  exact outer _ _ rfl

/-- What a context comes to when joins of an entry of the list of contexts end: its own change where the entry is its. -/
theorem State.ctx_loseJoinsOf (f : Word → Bool) (s : State) (p : Nat × Ctx) (c : Nat) :
    (s.loseJoinsOf f p).cycle = s.cycle ∧ (s.loseJoinsOf f p).ctx c =
      if p.1 = c then p.2.eng.joins.foldl (Ctx.loses f s.cycle) (s.ctx c) else s.ctx c := by
  unfold State.loseJoinsOf
  generalize p.2.eng.joins = ls
  induction ls generalizing s with
  | nil => simp
  | cons j r ih =>
    simp only [List.foldl_cons]
    refine ⟨(ih _).1.trans (by split <;> rfl), (ih _).2.trans ?_⟩
    by_cases hf : f j.1
    · by_cases hp : p.1 = c
      · subst hp; simp [hf, Ctx.loses]
      · simp [hf, hp, State.ctx_onCtx_other s _ (Ne.symm hp)]
    · simp [hf, Ctx.loses]

/-- The joins that the list of contexts holds under a context's identifier. -/
def joinsUnder (c : Nat) (ps : List (Nat × Ctx)) : List (Word × Nat) :=
  (ps.filter (·.1 == c)).flatMap (·.2.eng.joins)

theorem State.ctx_loseJoins (s : State) (f : Word → Bool) (c : Nat) :
    (s.loseJoins f).ctx c = (joinsUnder c s.bound).foldl (Ctx.loses f s.cycle) (s.ctx c) := by
  rw [State.loseJoins_eq_foldl]
  have walk (ps : List (Nat × Ctx)) (t : State) (ht : t.cycle = s.cycle) :
      (ps.foldl (State.loseJoinsOf f) t).ctx c = (joinsUnder c ps).foldl (Ctx.loses f s.cycle) (t.ctx c) := by
    induction ps generalizing t with
    | nil => rfl
    | cons p r ih =>
      obtain ⟨hcycle, hctx⟩ := State.ctx_loseJoinsOf f t p c
      rw [List.foldl_cons, ih _ (hcycle.trans ht), hctx]
      by_cases hp : p.1 = c <;> simp [joinsUnder, hp, ht]
  exact walk _ _ rfl

theorem Ctx.joined_none {x : Ctx} {id : Word} (h : ∀ j ∈ x.eng.joins, j.1 ≠ id) (result : Word) (now : Nat) :
    x.joined id result now = x := by
  have hn : x.eng.joins.find? (·.1 == id) = none := by simpa using h
  unfold Ctx.joined
  rw [hn]

/-- A context none of whose joins is to end stays. -/
theorem Ctx.foldl_loses_none (f : Word → Bool) (now : Nat) (js : List (Word × Nat)) {x : Ctx}
    (h : ∀ j ∈ x.eng.joins, f j.1 = false) : js.foldl (Ctx.loses f now) x = x := by
  induction js with
  | nil => rfl
  | cons j r ih =>
    have hj : x.loses f now j = x := by
      unfold Ctx.loses
      split
      · exact Ctx.joined_none (fun k hk e => by have := h k hk; simp_all) _ _
      · rfl
    rw [List.foldl_cons, hj, ih]

/-- A strand's only join, answered with status 4, is under way no more. -/
theorem Ctx.joined_joins {x : Ctx} {j : Word × Nat} (h : x.eng.joins = [j]) (now : Nat) :
    (x.joined j.1 (notJoined 4) now).eng.joins = [] := by
  have hz : (notJoined 4).toNat / 2 ^ 60 ≠ 0 := by decide
  have hf : x.eng.joins.find? (·.1 == j.1) = some (j.1, j.2) := by simp [h]
  unfold Ctx.joined
  rw [hf]
  dsimp only
  rw [if_neg hz]
  simp [h, Ctx.answer]

/-- The only join of a context ends once. -/
theorem Ctx.foldl_loses_single (f : Word → Bool) (now : Nat) (js : List (Word × Nat)) {x : Ctx} {j : Word × Nat}
    (h : x.eng.joins = [j]) (hf : f j.1 = true) (hj : j ∈ js) :
    js.foldl (Ctx.loses f now) x = x.joined j.1 (notJoined 4) now := by
  induction js with
  | nil => cases hj
  | cons k r ih =>
    rw [List.foldl_cons]
    by_cases hk : k.1 = j.1
    · have he : x.loses f now k = x.joined j.1 (notJoined 4) now := by simp [Ctx.loses, hk, hf]
      rw [he, Ctx.foldl_loses_none f now r (by simp [Ctx.joined_joins h])]
    · have he : x.loses f now k = x := by
        unfold Ctx.loses
        split
        · exact Ctx.joined_none (by simp [h, Ne.symm hk]) _ _
        · rfl
      rw [he, ih ((List.mem_cons.1 hj).resolve_left fun e => hk (by rw [e]))]

/-- A bound context is listed among them. -/
theorem State.mem_bound {s : State} {c : Nat} (h : (s.ctx c).bound = true) : (c, s.ctx c) ∈ s.bound := by
  have find (t : List (Nat × Ctx)) (ht : (Tab.get {} t c).bound = true) : (c, Tab.get {} t c) ∈ t := by
    induction t with
    | nil => cases ht
    | cons p r ih =>
      obtain ⟨i, x⟩ := p
      by_cases hi : i = c
      · simp [Tab.get, hi]
      · simp only [tab_get_cons, if_neg hi] at ht ⊢
        exact List.mem_cons_of_mem _ (ih ht)
  exact List.mem_filter.2 ⟨find _ h, h⟩

theorem mem_joinsUnder {s : State} {c : Nat} {j : Word × Nat} (h : (s.ctx c).bound = true)
    (hj : j ∈ (s.ctx c).eng.joins) : j ∈ joinsUnder c s.bound :=
  List.mem_flatMap.2 ⟨_, List.mem_filter.2 ⟨State.mem_bound h, beq_self_eq_true c⟩, hj⟩

/-! An entry of the peer table (R359, log 16). -/

/-- Whether a crew is homed at device d of the peer table. -/
def State.homedAt (s : State) (d : Nat) (id : Word) : Bool := s.crewHome id == d && !s.crewLocal id

theorem State.setPeers_frame (s : State) (d : Nat) (ps : List (Nat × Word)) :
    s.setPeers d ps = { s with peers := ps, ctxs := (s.setPeers d ps).ctxs } := by
  unfold State.setPeers
  dsimp only
  split
  · rfl
  · rw [State.loseJoins_frame]

/-- Register r of entry d written as it stood: no context changes. -/
theorem State.setPeers_same {s : State} {d r : Nat} {w : Word} (h : Tab.get 0 s.peers (4 * d + r) = w) :
    (s.setPeers d (Tab.set s.peers (4 * d + r) w)).ctxs = s.ctxs := by
  unfold State.setPeers
  dsimp only
  rw [if_pos]
  rw [List.all_eq_true]
  intro i _
  rw [tab_get_set]
  split <;> simp_all

/-- Register r of entry d written with another value: the joins of crews homed there end. -/
theorem State.setPeers_other {s : State} {d r : Nat} {w : Word} (hr : r < 3)
    (h : Tab.get 0 s.peers (4 * d + r) ≠ w) (c : Nat) :
    (s.setPeers d (Tab.set s.peers (4 * d + r) w)).ctx c =
      (joinsUnder c s.bound).foldl (Ctx.loses (s.homedAt d) s.cycle) (s.ctx c) := by
  unfold State.setPeers
  dsimp only
  rw [if_neg, State.ctx_loseJoins]
  · rfl
  · intro hall
    have := List.all_eq_true.1 hall r (by simpa using hr)
    simp_all

end Sys2Proof.Machine
end

section
/-!
PROOFS. The registers of the window (R354, R355, R357, R359, R361): what a read and a write of each does.
-/

namespace Sys2Proof.Machine

/-! The registers of the window: offsets of a queue, a channel, a peer entry and a port. -/

/-- Register r of a queue as it reads (R355). -/
def JobQ.register (j : JobQ) (r : Nat) : Nat :=
  match r with | 0 => j.tail | 8 => j.head | 16 => j.stat | _ => 0

/-- Register r of queue q written (R355, R356). -/
def State.setQueue (s : State) (q r v : Nat) : State :=
  match r with
  | 0 => s.onQueue q (·.writeTail v s.ticks)
  | 16 => if bitOf v 2 then s.onQueue q fun j => { j with error := false } else s
  | _ => s

section
variable (s : State) (v : Nat) {q c d r p off : Nat}

/-- A register of queue q read (R355). -/
theorem State.window_queue (hq : q < 256) (hr : r < 64) (h8 : r % 8 = 0) :
    s.window (0x100000 + 64 * q + r) =
      (Tab.get ({} : JobQ) s.jobqs q).register r := by
  have hd : (0x100000 + 64 * q + r - 0x100000) / 64 = q := by omega
  have hm : (0x100000 + 64 * q + r) % 64 = r := by omega
  unfold State.window
  repeat rw [if_neg (by omega)]
  rw [if_pos (by omega), hd, hm]
  rfl

/-- A register of queue q written (R355, R356). -/
theorem State.setWindow_queue (hq : q < 256) (hr : r < 64) (h8 : r % 8 = 0) :
    s.setWindow (0x100000 + 64 * q + r) v = s.setQueue q r v := by
  have hd : (0x100000 + 64 * q + r - 0x100000) / 64 = q := by omega
  have hm : (0x100000 + 64 * q + r) % 64 = r := by omega
  unfold State.setWindow
  repeat rw [if_neg (by omega)]
  rw [if_pos (by omega), hd, hm]
  rfl

theorem State.window_chteam (hc : c < 1024) :
    s.window (0x200000 + 16 * c) = (Tab.get 0 s.chteam c).toNat := by
  have hd : (0x200000 + 16 * c - 0x200000) / 16 = c := by omega
  unfold State.window
  repeat rw [if_neg (by omega)]
  rw [if_pos (by omega), hd, if_pos (by omega)]

theorem State.setWindow_chteam (hc : c < 1024) :
    s.setWindow (0x200000 + 16 * c) v = { s with chteam := Tab.set s.chteam c (word (v % 2 ^ 17)) } := by
  have hd : (0x200000 + 16 * c - 0x200000) / 16 = c := by omega
  unfold State.setWindow
  repeat rw [if_neg (by omega)]
  rw [if_pos (by omega), hd, if_pos (by omega)]

theorem State.window_chtab (hc : c < 1024) :
    s.window (0x200008 + 16 * c) = (Tab.get 0 s.chtab c).toNat := by
  have hd : (0x200008 + 16 * c - 0x200000) / 16 = c := by omega
  unfold State.window
  repeat rw [if_neg (by omega)]
  rw [if_pos (by omega), hd, if_neg (by omega)]

theorem State.setWindow_chtab (hc : c < 1024) :
    s.setWindow (0x200008 + 16 * c) v = { s with chtab := Tab.set s.chtab c (word v) } := by
  have hd : (0x200008 + 16 * c - 0x200000) / 16 = c := by omega
  unfold State.setWindow
  repeat rw [if_neg (by omega)]
  rw [if_pos (by omega), hd, if_neg (by omega)]

theorem State.window_peer (hd : d < 256) (hr : r < 3) :
    s.window (0x300000 + 32 * d + 8 * r) = (Tab.get 0 s.peers (4 * d + r)).toNat := by
  have hk : 4 * ((0x300000 + 32 * d + 8 * r - 0x300000) / 32) + (0x300000 + 32 * d + 8 * r) % 32 / 8 = 4 * d + r := by
    omega
  unfold State.window
  repeat rw [if_neg (by omega)]
  rw [if_pos (by omega), hk]

theorem State.setWindow_peer (hd : d < 256) (hr : r < 3) :
    s.setWindow (0x300000 + 32 * d + 8 * r) v =
      s.setPeers d (Tab.set s.peers (4 * d + r) (word (if r = 2 then v % 16 else v))) := by
  have hk : (0x300000 + 32 * d + 8 * r - 0x300000) / 32 = d := by omega
  have hm : (0x300000 + 32 * d + 8 * r) % 32 = 8 * r := by omega
  have he : (8 * r = 16) = (r = 2) := by simp only [eq_iff_iff]; omega
  unfold State.setWindow
  repeat rw [if_neg (by omega)]
  rw [if_pos (by omega), hk, hm]
  simp only [he, Nat.mul_div_cancel_left r (by decide : 0 < 8)]

theorem State.window_portstat (hp : p < 9) : s.window (0x100 + 8 * p) = (Tab.get 0 s.portstat p).toNat := by
  have hd : (0x100 + 8 * p - 0x100) / 8 = p := by omega
  unfold State.window
  repeat rw [if_neg (by omega)]
  rw [if_pos (by omega), hd]

/-- An offset in none of the ranges that a write knows changes nothing (R354). -/
theorem State.setWindow_ignored (h : off ∉ [0x00, 0x10, 0x18]) (hoff : off < 0x100000) : s.setWindow off v = s := by
  simp only [List.mem_cons, List.not_mem_nil, not_or] at h
  unfold State.setWindow
  repeat rw [if_neg (by omega)]
  split
  · rfl
  · repeat rw [if_neg (by omega)]

/-- Offsets at which the window has no register (R354, R355, R357, R359, R361). -/
def Unlisted (off : Nat) : Prop :=
  off ∉ [0x00, 0x08, 0x10, 0x18, 0x200, 0x208, 0x210, 0x218, 0x220] ∧ (∀ p, p < 9 → off ≠ 0x100 + 8 * p) ∧
  (∀ q, q < 256 → off ∉ [0x100000 + 64 * q, 0x100000 + 64 * q + 8, 0x100000 + 64 * q + 16]) ∧
  (∀ c, c < 1024 → off ∉ [0x200000 + 16 * c, 0x200008 + 16 * c]) ∧
  ∀ d r, d < 256 → r < 3 → off ≠ 0x300000 + 32 * d + 8 * r

/-- An aligned offset without a register is in no range but that of the queues, and there in none of their registers. -/
theorem unlisted_ranges (h : Unlisted off) (h8 : off % 8 = 0) :
    ¬(0x100 ≤ off ∧ off ≤ 0x140) ∧ (0x100000 ≤ off → off < 0x104000 → off % 64 ≠ 0 ∧ off % 64 ≠ 8 ∧ off % 64 ≠ 16) ∧
    ¬(0x200000 ≤ off ∧ off < 0x204000) ∧ ¬(0x300000 ≤ off ∧ off < 0x302000 ∧ off % 32 < 24) := by
  obtain ⟨-, hport, hqueue, hchan, hpeer⟩ := h
  refine ⟨fun _ => ?_, fun _ _ => ?_, fun _ => ?_, fun _ => ?_⟩
  · have := hport ((off - 0x100) / 8) (by omega)
    omega
  · have := hqueue ((off - 0x100000) / 64) (by omega)
    simp only [List.mem_cons, List.not_mem_nil, not_or] at this
    omega
  · have := hchan ((off - 0x200000) / 16) (by omega)
    simp only [List.mem_cons, List.not_mem_nil, not_or] at this
    omega
  · have := hpeer ((off - 0x300000) / 32) (off % 32 / 8) (by omega) (by omega)
    omega

theorem State.window_unlisted (h : Unlisted off) : s.window off = 0 := by
  obtain ⟨hlist, -⟩ := id h
  simp only [List.mem_cons, List.not_mem_nil, not_or] at hlist
  unfold State.window
  iterate 4 rw [if_neg (by omega)]
  by_cases h8 : off % 8 = 0
  · obtain ⟨hport, hqueue, hchan, hpeer⟩ := unlisted_ranges h h8
    rw [if_neg (by omega), if_neg hport]
    iterate 5 rw [if_neg (by omega)]
    by_cases hq : 0x100000 ≤ off ∧ off < 0x104000
    · have := hqueue hq.1 hq.2
      rw [if_pos hq]
      dsimp only
      split <;> omega
    · rw [if_neg hq, if_neg hchan, if_neg hpeer]
  · exact if_pos h8

theorem State.setWindow_unlisted (h : Unlisted off) : s.setWindow off v = s := by
  obtain ⟨hlist, -⟩ := id h
  simp only [List.mem_cons, List.not_mem_nil, not_or] at hlist
  unfold State.setWindow
  iterate 3 rw [if_neg (by omega)]
  by_cases h8 : off % 8 = 0
  · obtain ⟨-, hqueue, hchan, hpeer⟩ := unlisted_ranges h h8
    rw [if_neg (by omega)]
    by_cases hq : 0x100000 ≤ off ∧ off < 0x104000
    · have := hqueue hq.1 hq.2
      rw [if_pos hq]
      dsimp only
      split
      · omega
      · omega
      · rfl
    · rw [if_neg hq, if_neg hchan, if_neg hpeer]
  · exact if_pos h8

end

/-- A register written leaves the connections and the messages held on them. -/
theorem keepsHeld_setWindow (m : Msg) (s : State) (off v : Nat) : KeepsHeld m s (s.setWindow off v) := by
  unfold State.setWindow
  dsimp only
  iterate 3
    split
    · exact keepsHeld_of_conns rfl rfl
  split
  · exact .refl ..
  split
  · split
    · exact keepsHeld_of_conns rfl rfl
    · split
      · exact keepsHeld_of_conns rfl rfl
      · exact .refl ..
    · exact .refl ..
  split
  · split <;> exact keepsHeld_of_conns rfl rfl
  split
  · rw [State.setPeers_frame]
    exact keepsHeld_of_conns rfl rfl
  · exact .refl ..

end Sys2Proof.Machine
end

section
/-!
PROOFS. Messages (R350-R352): what each of those that do not concern memory leaves, and the statement about messages
and registers.
-/

namespace Sys2Proof.Machine

/-! Messages of the types of R351. -/

/-- The messages that every sender may send, as instructions. -/
def messagesOf (m : Msg) : List Instr :=
  [.qftWrite m, .qftRead m, .qftReaddata m, .qftDone m, .qftPut m, .qftGet m, .qftLoad m, .qftTrace m, .qftNak m]

/-- Each of them is taken in the order of its connection. -/
theorem exec_message {m : Msg} {i : Instr} (h : i ∈ messagesOf m) (s : State) :
    ∃ self perform, exec i s = .next (s.receive m self perform) := by
  simp only [messagesOf, List.mem_cons, List.not_mem_nil, or_false] at h
  rcases h with rfl | rfl | rfl | rfl | rfl | rfl | rfl | rfl | rfl <;> exact ⟨_, _, rfl⟩

/-- What a message ahead of its turn leaves (R352): the sender's next number stays, the message is held, and NAK 4
goes out. -/
theorem receive_newer_holds {s : State} {m : Msg} (self : Arrival) (perform : State → State) (h : s.accepts m)
    (hs : (s.conn m).expect < m.seq.toNat) :
    let t := s.receive m self perform
    t.mem = s.mem ∧ t.ctxs = s.ctxs ∧ t.jobqs = s.jobqs ∧ (t.conn m).expect = (s.conn m).expect ∧
    (∃ j, (m.seq.toNat, j) ∈ (t.conn m).held) ∧
    ∃ d, t.sent = s.sent ++ [(m.port, m.src, 0x0A, d)] ∧ d.body = toBytes 8 4 := by
  dsimp only
  rw [State.receive_newer self perform h hs]
  refine ⟨rfl, rfl, rfl, ?_, ?_, ?_⟩
  · rw [State.nak, (State.conn_reply ..).2, State.conn_onConn]
    split <;> simp
  · rw [State.nak, (State.conn_reply ..).1, State.conn_onConn]
    split
    · obtain ⟨p, hp, he⟩ := List.any_eq_true.1 ‹_›
      exact ⟨p.2, by rw [← beq_iff_eq.1 he]; exact hp⟩
    · exact ⟨self, by simp⟩
  · obtain ⟨d, hd, hb, -⟩ := State.reply_sent ((s.onConn m (·.acked m.ack.toNat s.time)).onConn m fun c =>
      if c.held.any (·.1 == m.seq.toNat) then c else { c with held := c.held ++ [(m.seq.toNat, self)] }) m 0x0A 0
      (toBytes 8 4) h.1
    exact ⟨d, hd, hb⟩

theorem conn_took_unacked {s : State} {m : Msg} {p : Nat × Msg} (h : p ∈ ((took s m).conn m).unacked) :
    p ∈ (s.conn m).unacked ∧ m.ack.toNat < p.2.seq.toNat := by
  rw [conn_took] at h
  exact Conn.mem_acked_unacked h

theorem exec_qftReaddata_inTurn {s : State} {m : Msg} (h : InTurn s m) :
    exec (.qftReaddata m) s = .next ((took s m).acknowledge m) :=
  congrArg _ (State.receive_inTurn _ h (.refl ..))

theorem exec_qftDone_inTurn {s : State} {m : Msg} (h : InTurn s m) :
    exec (.qftDone m) s = .next ((took s m).acknowledge m) :=
  congrArg _ (State.receive_inTurn _ h (.refl ..))

theorem unlisted_inTurn {s : State} {m : Msg} (h : InTurn s m) :
    s.unlisted m = ((took s m).nak m 1).acknowledge m :=
  State.receive_inTurn _ h (keepsHeld_reply ..)

theorem State.resend_sent {s : State} {port : Nat} (h : s.portReady port = true) (addr : BitVec 128)
    (ms : List (Nat × Msg)) :
    s.resend port addr ms = { s with sent := s.sent ++ ms.map fun p => (port, addr, p.1, p.2) } :=
  if_pos h

/-- A NAK in turn: of reason 4 it has what is unacknowledged sent again (R352). -/
theorem exec_qftNak_inTurn {s : State} {m : Msg} (h : InTurn s m) :
    exec (.qftNak m) s = .next ((if ofBytes m.body = 4 then (took s m).resend m.port m.src ((took s m).conn m).unacked
      else took s m).acknowledge m) := by
  refine congrArg _ (State.receive_inTurn _ h ?_)
  split
  · rw [State.resend_sent (s := took s m) h.1]
    exact keepsHeld_of_conns rfl rfl
  · exact .refl ..

theorem exec_qftNak_sent {s : State} {m : Msg} (h : InTurn s m) (hb : ofBytes m.body = 4) :
    ∃ t, exec (.qftNak m) s = .next t ∧ t.mem = s.mem ∧ t.ctxs = s.ctxs ∧ ∃ a,
      t.sent = s.sent ++ ((took s m).conn m).unacked.map (fun p => (m.port, m.src, p.1, p.2)) ++ [(m.port, m.src, 0, a)] := by
  rw [exec_qftNak_inTurn h, if_pos hb, State.resend_sent (s := took s m) h.1]
  exact ⟨_, rfl, rfl, rfl, _, rfl⟩

/-- A message that does nothing more, and the held one that is due after it, which is the next happening. -/
theorem receive_id_then {s : State} {m : Msg} (self : Arrival) (h : s.accepts m) (hs : m.seq.toNat = (s.conn m).expect)
    {n : Nat} {j : Instr} (hh : (s.conn m).held.find? (fun p => p.1 == (s.conn m).expect + 1) = some (n, .listed j)) :
    let t := s.receive m self id
    t.agenda = j :: s.agenda ∧ t.mem = s.mem ∧ (t.conn m).expect = (s.conn m).expect + 1 ∧
    (t.conn m).held = (s.conn m).held.filter (·.1 != n) := by
  have ht : s.receive m self id = _ := (State.receive_next self id h hs).trans
    (State.takeHeld_listed (n := n) (j := j) (by simpa using hh))
  have hc : (s.receive m self id).conn m =
      { (took s m).conn m with held := ((took s m).conn m).held.filter (·.1 != n) } := by
    rw [ht]
    exact State.conn_onConn ((took s m).acknowledge m) m fun c => { c with held := c.held.filter (·.1 != n) }
  dsimp only
  rw [hc, conn_took, ht]
  exact ⟨rfl, rfl, rfl, by simp⟩

/-- A message sent has its connection's next number and acknowledges what has been performed (R350, R352). -/
theorem send_numbers (s : State) (port chan type : Nat) (addr : BitVec 128) (target : Word) (body : List Byte) :
    let k := s.linkKey port addr chan
    let c := Tab.get ({} : Conn) s.conns k
    let t := s.send port addr chan type target body
    ∃ w : Msg, Tab.get ({} : Conn) t.conns k = { c with
        sent := c.sent + 1, unacked := c.unacked ++ [(type, w)], timer := if c.unacked = [] then s.time else c.timer } ∧
      t = { s with conns := t.conns, sent := t.sent } ∧
      t.sent = s.sent ++ (if s.portReady port = true then [(port, addr, type, w)] else []) ∧
      w = { port := port, src := s.addressOf port, version := 1, chan := chan, seq := word (c.sent + 1),
            ack := word (c.expect - 1), target := target, body := body } := by
  refine ⟨_, ?_, rfl, ?_, rfl⟩
  · simp [State.send]
  · simp only [State.send]
    split <;> simp

/-! WRITE and READ (R351, R2). -/

theorem keepsHeld_fromHost {s : State} {m : Msg} (work : Bool) {perform : State → State}
    (h : KeepsHeld m s (perform s)) : KeepsHeld m s (s.fromHost m work perform) := by
  unfold State.fromHost
  split
  · exact keepsHeld_reply ..
  · exact h

/-- A WRITE in turn: refused as work from a peer, performed, or of a length that writes nothing (log 35). -/
theorem exec_qftWrite_inTurn {s : State} {m : Msg} (h : InTurn s m) :
    exec (.qftWrite m) s = .next (((took s m).fromHost m (isTail m.target.toNat) fun s =>
      if m.body.length = 8 then s.setWindow m.target.toNat (ofBytes m.body) else s).acknowledge m) := by
  refine congrArg _ (State.receive_inTurn _ h (keepsHeld_fromHost _ ?_))
  split
  · exact keepsHeld_setWindow ..
  · exact .refl ..

theorem exec_qftRead_inTurn {s : State} {m : Msg} (h : InTurn s m) :
    exec (.qftRead m) s = .next (((took s m).send m.port m.src m.chan 0x03 m.target
      (toBytes 8 ((took s m).window m.target.toNat))).acknowledge m) :=
  congrArg _ (State.receive_inTurn _ h (keepsHeld_reply ..))

theorem State.fromHost_allowed {m : Msg} {work : Bool} (h : m.port = 8 ∨ work = false) (s : State)
    (perform : State → State) : s.fromHost m work perform = perform s := by
  unfold State.fromHost
  rw [if_neg]
  rcases h with h | h <;> simp [h]

theorem State.fromHost_refused {m : Msg} {work : Bool} (h : m.port ≠ 8) (hw : work = true) (s : State)
    (perform : State → State) : s.fromHost m work perform = s.nak m 2 := by
  unfold State.fromHost
  rw [if_pos]
  simp [h, hw]

/-- What WRITE and READ in turn do. -/
theorem exec_window_inTurn {s : State} {m : Msg} (h : InTurn s m) :
    let u := took s m
    (m.body.length = 8 → m.port = 8 ∨ isTail m.target.toNat = false →
      exec (.qftWrite m) s = .next ((u.setWindow m.target.toNat (ofBytes m.body)).acknowledge m)) ∧
    (m.body.length ≠ 8 → m.port = 8 ∨ isTail m.target.toNat = false → exec (.qftWrite m) s = .next (u.acknowledge m)) ∧
    (m.port ≠ 8 → isTail m.target.toNat = true → exec (.qftWrite m) s = .next ((u.nak m 2).acknowledge m)) ∧
    exec (.qftRead m) s =
      .next ((u.send m.port m.src m.chan 0x03 m.target (toBytes 8 (u.window m.target.toNat))).acknowledge m) := by
  refine ⟨fun hb hp => ?_, fun hb hp => ?_, fun hp ht => ?_, exec_qftRead_inTurn h⟩
  · rw [exec_qftWrite_inTurn h, State.fromHost_allowed hp, if_pos hb]
  · rw [exec_qftWrite_inTurn h, State.fromHost_allowed hp, if_neg hb]
  · rw [exec_qftWrite_inTurn h, State.fromHost_refused hp ht]

/-! The peer table through the window (R359, log 16). -/

theorem State.homedAt_iff {s : State} {d : Nat} {id : Word} :
    s.homedAt d id = true ↔ s.crewHome id = d ∧ s.crewLocal id = false := by
  simp [State.homedAt]

/-- A peer register written changes its register, and the joins toward its device where it is no longer what it was. -/
theorem setWindow_peer_effect (s : State) (v : Nat) {d r : Nat} (hd : d < 256) (hr : r < 3) :
    let w := word (if r = 2 then v % 16 else v)
    let t := s.setWindow (0x300000 + 32 * d + 8 * r) v
    t = { s with peers := Tab.set s.peers (4 * d + r) w, ctxs := t.ctxs } ∧
    (Tab.get 0 s.peers (4 * d + r) = w → t.ctxs = s.ctxs) ∧
    (Tab.get 0 s.peers (4 * d + r) ≠ w → ∀ c, (s.ctx c).bound = true →
      ((∀ j ∈ (s.ctx c).eng.joins, s.crewHome j.1 = d → s.crewLocal j.1 = true) → t.ctx c = s.ctx c) ∧
      ∀ j, (s.ctx c).eng.joins = [j] → s.crewHome j.1 = d → s.crewLocal j.1 = false →
        t.ctx c = (s.ctx c).joined j.1 (notJoined 4) s.cycle) := by
  dsimp only
  rw [State.setWindow_peer s v hd hr]
  refine ⟨State.setPeers_frame .., State.setPeers_same, fun hne c hb => ?_⟩
  rw [State.setPeers_other hr hne]
  refine ⟨fun hj => Ctx.foldl_loses_none _ _ _ fun j hm => ?_, fun j hj hd hl => ?_⟩
  · cases hh : s.homedAt d j.1
    · rfl
    · obtain ⟨hd, hl⟩ := State.homedAt_iff.1 hh
      exact absurd (hj j hm hd) (ne_true_of_eq_false hl)
  · exact Ctx.foldl_loses_single _ _ _ hj (State.homedAt_iff.2 ⟨hd, hl⟩) (mem_joinsUnder hb (by simp [hj]))

theorem bitOf_eq_testBit (v i : Nat) : bitOf v i = v.testBit i := by
  rw [bitOf, Nat.testBit_eq_decide_div_mod_eq, Bool.beq_eq_decide_eq]

@[simp] theorem word_toNat (n : Nat) : (word n).toNat = n % 2 ^ 64 := BitVec.toNat_ofNat ..

end Sys2Proof.Machine
end

section
namespace Sys2Proof.Machine

/-- Settles O56: the cases of `State.receive`, and a lemma for each register of the window. -/
theorem messagesAndRegisters : Obligations.MessagesAndRegisters := by
  refine ⟨fun s m => ⟨?_, ?_, ?_, ?_⟩, fun s m h => exec_window_inTurn h, ?_⟩
  · intro i hi
    obtain ⟨self, perform, he⟩ := exec_message hi s
    rw [he]
    refine ⟨fun h => congrArg _ (State.receive_dropped self perform h), fun hr hv hc hb => ⟨fun hs => ?_, fun hs => ?_⟩⟩
    · exact congrArg _ (State.receive_older self perform ⟨hr, hv, hc, hb⟩ hs)
    · exact ⟨_, rfl, receive_newer_holds self perform ⟨hr, hv, hc, hb⟩ hs⟩
  · intro h
    refine ⟨rfl, rfl, by simp, fun p => conn_took_unacked, exec_qftReaddata_inTurn h, exec_qftDone_inTurn h,
      unlisted_inTurn h, fun hb => ?_, exec_qftNak_sent h⟩
    rw [exec_qftNak_inTurn h, if_neg hb]
  · intro hr hv hc hb hs n j hh i hi
    have hthen (self : Arrival) := receive_id_then self ⟨hr, hv, hc, hb⟩ hs hh
    simp only [List.mem_cons, List.not_mem_nil, or_false] at hi
    rcases hi with rfl | rfl <;> exact ⟨_, rfl, hthen _⟩
  · exact send_numbers s
  · intro s v q c d r hq hc hd hr
    refine ⟨rfl, rfl, rfl, State.setWindow_queue s v (r := 0) hq (by decide) rfl, ?_, State.setWindow_chteam s v hc,
      State.setWindow_chtab s v hc, setWindow_peer_effect s v hd hr, ?_, rfl, rfl, rfl, rfl, rfl, rfl, rfl, rfl, rfl,
      State.window_queue s (r := 0) hq (by decide) rfl, State.window_queue s (r := 16) hq (by decide) rfl,
      fun p hp => ⟨State.window_portstat s hp, ?_⟩, ?_, ?_, ?_, ?_, ?_, ?_, ?_,
      State.window_queue s (r := 8) hq (by decide) rfl, ?_, ?_, ?_⟩
    · rw [State.setWindow_queue s v (r := 16) hq (by decide) rfl, ← bitOf_eq_testBit]
      rfl
    · intro off hoff
      by_cases hhead : off = 0x100000 + 64 * q + 8
      · rw [hhead]
        exact State.setWindow_queue s v (r := 8) hq (by decide) rfl
      · simp only [List.mem_cons, List.not_mem_nil, or_false] at hoff
        refine State.setWindow_ignored s v ?_ (by omega)
        simp only [List.mem_cons, List.not_mem_nil, or_false]
        omega
    · exact State.setWindow_ignored s v (by simp; omega) (by omega)
    · intro off hlist hport hqueue hchan hpeer
      have h : Unlisted off := ⟨hlist, hport, hqueue, hchan, hpeer⟩
      exact ⟨State.window_unlisted s h, State.setWindow_unlisted s v h⟩
    · exact (word_toNat _).trans (Nat.mod_eq_of_lt (by omega))
    · exact word_toNat v
    · exact congrArg State.jobqs (State.setWindow_queue s v (r := 0) hq (by decide) rfl)
    · simp [isTail]; omega
    · simp [isTail]; omega
    · simp [isTail]; omega
    · rw [State.setWindow_chteam s v hc, State.window_chteam _ hc]
      simp; omega
    · rw [State.setWindow_chtab s v hc, State.window_chtab _ hc]
      simp
    · rw [State.window_peer _ hd hr, State.setWindow_peer s v hd hr, State.setPeers_frame]
      simp only [tab_get_set_self, word_toNat]
      split <;> omega

end Sys2Proof.Machine
end

section
/-!
PROOFS. PUT and GET (R351, R357): what a message in turn does for the team that its channel is bound to.
-/

namespace Sys2Proof.Machine

/-! Accesses leave the connections. -/

theorem noteFlags_conns (s : State) (g : Agent) (ks : List Nat) :
    (noteFlags s g ks).conns = s.conns ∧ (noteFlags s g ks).portAddr = s.portAddr := by
  unfold noteFlags
  dsimp only
  split <;> exact ⟨rfl, rfl⟩

theorem keepsHeld_storeKeys (m : Msg) (s : State) (g : Agent) (w : Who) (a : Word) (ks : List Nat) (bs : List Byte) :
    KeepsHeld m s (storeKeys s g w a ks bs) := by
  unfold storeKeys
  split
  · obtain ⟨hc, ha⟩ := noteFlags_conns (noteWatches { s with mem := memPutAll s.mem ks bs } g w.team w.tile a ks.length) g ks
    exact keepsHeld_of_conns hc ha
  · exact .refl ..

/-! PUT. -/

/-- What a PUT performed in turn does. -/
def putEffect (s : State) (m : Msg) : State :=
  match s.channelWho m.chan with
  | none => s.nak m 2
  | some w => match writeMem s (portAgent m.port) w m.target m.body with
    | .ok t => t
    | .error f => s.nak m (nakReason f)

theorem putEffect_none {s : State} {m : Msg} (h : s.channelWho m.chan = none) : putEffect s m = s.nak m 2 := by
  unfold putEffect; rw [h]

theorem putEffect_error {s : State} {m : Msg} {w : Who} {f : MFault} (h : s.channelWho m.chan = some w)
    (hf : writeMem s (portAgent m.port) w m.target m.body = .error f) : putEffect s m = s.nak m (nakReason f) := by
  unfold putEffect; rw [h]; dsimp only; rw [hf]

theorem putEffect_ok {s t : State} {m : Msg} {w : Who} (h : s.channelWho m.chan = some w)
    (ht : writeMem s (portAgent m.port) w m.target m.body = .ok t) : putEffect s m = t := by
  unfold putEffect; rw [h]; dsimp only; rw [ht]

theorem keepsHeld_putEffect (s : State) (m : Msg) : KeepsHeld m s (putEffect s m) := by
  unfold putEffect
  split
  · exact keepsHeld_reply ..
  · split
    · obtain ⟨ks, -, -, rfl⟩ := writeMem_ok ‹_›
      exact keepsHeld_storeKeys ..
    · exact keepsHeld_reply ..

theorem exec_qftPut_inTurn {s : State} {m : Msg} (h : InTurn s m) :
    exec (.qftPut m) s = .next ((putEffect (took s m) m).acknowledge m) :=
  congrArg _ (State.receive_inTurn _ h (keepsHeld_putEffect ..))

/-- A write whose address does not translate fails with the fault. -/
theorem writeMem_error {s : State} {w : Who} {a : Word} {bs : List Byte} {acc : Acc} {f : MFault} (g : Agent)
    (h : translate s w a bs.length acc = .error f) : writeMem s g w a bs acc = .error f := by
  unfold writeMem; rw [h]

theorem writeMem_translated {s : State} {w : Who} {a : Word} {bs : List Byte} {acc : Acc} {ks : List Nat} (g : Agent)
    (h : translate s w a bs.length acc = .ok ks) : writeMem s g w a bs acc =
      if keysReady s ks then .ok (storeKeys s g w a ks bs) else .error ⟨0x11, a, 0⟩ := by
  unfold writeMem; rw [h]

/-- Memory that is ready takes the bytes at their keys and nothing else (R74, R362). -/
theorem wrote_storeKeys {s : State} {ks : List Nat} (h : keysReady s ks = true) (g : Agent) (w : Who) (a : Word)
    (bs : List Byte) : wrote s (storeKeys s g w a ks bs) ks bs := by
  have hm : (storeKeys s g w a ks bs).mem = memPutAll s.mem ks bs := by rw [storeKeys_mem, if_pos h]
  exact ⟨hm, fun k hk => by rw [hm, memGet_memPutAll_other _ _ _ _ hk]⟩

/-! GET. -/

/-- What a GET performed in turn does. -/
def getEffect (s : State) (m : Msg) : State :=
  match s.channelWho m.chan with
  | none => s.nak m 2
  | some w => match readMem s w m.target (fieldAt m.body 0 8 % 2 ^ 32) with
    | .error f => s.nak m (nakReason f)
    | .ok bs => (putPieces s m (word (fieldAt m.body 8 8)) (bs.length / 8192 + 1) bs 0).done m 0

theorem getEffect_none {s : State} {m : Msg} (h : s.channelWho m.chan = none) : getEffect s m = s.nak m 2 := by
  unfold getEffect; rw [h]

theorem getEffect_error {s : State} {m : Msg} {w : Who} {f : MFault} (h : s.channelWho m.chan = some w)
    (hf : readMem s w m.target (fieldAt m.body 0 8 % 2 ^ 32) = .error f) : getEffect s m = s.nak m (nakReason f) := by
  unfold getEffect; rw [h]; dsimp only; rw [hf]

theorem getEffect_ok {s : State} {m : Msg} {w : Who} {bs : List Byte} (h : s.channelWho m.chan = some w)
    (hb : readMem s w m.target (fieldAt m.body 0 8 % 2 ^ 32) = .ok bs) : getEffect s m =
      (putPieces s m (word (fieldAt m.body 8 8)) (bs.length / 8192 + 1) bs 0).done m 0 := by
  unfold getEffect; rw [h]; dsimp only; rw [hb]

/-- The messages of an answer: one for each 8,192 bytes, at the reply target and as far beyond it as the piece is from
the first byte, the first being piece `i`. -/
def Pieces (m : Msg) (target : Word) (bs : List Byte) (i : Nat) (puts : List (Nat × BitVec 128 × Nat × Msg)) : Prop :=
  (puts.map (·.2.2.2.body)).flatten = bs ∧
  ∀ j p, puts[j]? = some p → p.1 = m.port ∧ p.2.1 = m.src ∧ p.2.2.1 = 0x04 ∧ p.2.2.2.chan = m.chan ∧
    p.2.2.2.body = (bs.drop (8192 * j)).take 8192 ∧ p.2.2.2.target = target + word (8192 * (i + j))

theorem Pieces.nil (m : Msg) (target : Word) (i : Nat) : Pieces m target [] i [] := ⟨rfl, by simp⟩

theorem Pieces.cons {m d : Msg} {target : Word} {bs : List Byte} {i : Nat} {puts : List (Nat × BitVec 128 × Nat × Msg)}
    (h : Pieces m target (bs.drop 8192) (i + 1) puts) (hb : d.body = bs.take 8192)
    (ht : d.target = target + word (8192 * i)) (hc : d.chan = m.chan) :
    Pieces m target bs i ((m.port, m.src, 0x04, d) :: puts) := by
  obtain ⟨hflat, hpieces⟩ := h
  refine ⟨by simp [hflat, hb], fun j p hp => ?_⟩
  cases j with
  | zero =>
    cases Option.some.inj hp
    exact ⟨rfl, rfl, rfl, hc, by simpa using hb, by simpa using ht⟩
  | succ j =>
    obtain ⟨h1, h2, h3, h4, h5, h6⟩ := hpieces j p hp
    refine ⟨h1, h2, h3, h4, ?_, ?_⟩
    · rw [h5, List.drop_drop, Nat.mul_succ, Nat.add_comm]
    · rw [h6]
      congr 3
      omega

/-- What the messages of an answer leave, when there are as many as it takes. -/
theorem putPieces_sent (m : Msg) (target : Word) (n : Nat) (s : State) (bs : List Byte) (i : Nat)
    (hr : s.portReady m.port = true) (hn : bs.length ≤ 8192 * n) :
    let t := putPieces s m target n bs i
    t.mem = s.mem ∧ t.portReady m.port = true ∧ KeepsHeld m s t ∧
    ∃ puts, t.sent = s.sent ++ puts ∧ Pieces m target bs i puts := by
  induction n generalizing s bs i with
  | zero =>
    obtain rfl := List.length_eq_zero_iff.1 (Nat.le_zero.1 hn)
    exact ⟨rfl, hr, .refl .., [], by simp [putPieces], .nil ..⟩
  | succ n ih =>
    by_cases hb : bs = []
    · subst hb
      exact ⟨rfl, hr, .refl .., [], by simp [putPieces], .nil ..⟩
    · have hstep : putPieces s m target (n + 1) bs i = putPieces
          (s.reply m 0x04 (target + word (8192 * i)) (bs.take 8192)) m target n (bs.drop 8192) (i + 1) :=
        if_neg (by simpa using hb)
      obtain ⟨d, hd, hbody, htarget, hchan⟩ := State.reply_sent s m 0x04 (target + word (8192 * i)) (bs.take 8192) hr
      obtain ⟨hmem, hready, hkeeps, puts, hsent, hputs⟩ :=
        ih (s.reply m 0x04 (target + word (8192 * i)) (bs.take 8192)) (bs.drop 8192) (i + 1) hr
          (by rw [List.length_drop]; omega)
      dsimp only
      rw [hstep]
      exact ⟨hmem, hready, (keepsHeld_reply ..).trans hkeeps, _, by rw [hsent, hd, List.append_assoc]; rfl,
        hputs.cons hbody htarget hchan⟩

theorem putPieces_whole (m : Msg) (target : Word) (s : State) (bs : List Byte) (hr : s.portReady m.port = true) :
    let t := putPieces s m target (bs.length / 8192 + 1) bs 0
    t.mem = s.mem ∧ t.portReady m.port = true ∧ KeepsHeld m s t ∧
    ∃ puts, t.sent = s.sent ++ puts ∧ Pieces m target bs 0 puts :=
  putPieces_sent m target _ s bs 0 hr (by omega)

theorem keepsHeld_getEffect {s : State} {m : Msg} (hr : s.portReady m.port = true) :
    KeepsHeld m s (getEffect s m) := by
  unfold getEffect
  split
  · exact keepsHeld_reply ..
  · split
    · exact keepsHeld_reply ..
    · obtain ⟨-, -, hkeeps, -⟩ := putPieces_whole m (word (fieldAt m.body 8 8)) s _ hr
      exact hkeeps.trans (keepsHeld_reply ..)

theorem exec_qftGet_inTurn {s : State} {m : Msg} (h : InTurn s m) :
    exec (.qftGet m) s = .next ((getEffect (took s m) m).acknowledge m) :=
  congrArg _ (State.receive_inTurn _ h (keepsHeld_getEffect (s := took s m) h.1))

/-- What a GET that reads its bytes sends: the pieces, DONE, and the acknowledgement. -/
theorem getEffect_sent {s : State} {m : Msg} {w : Who} {bs : List Byte} (hr : s.portReady m.port = true)
    (h : s.channelWho m.chan = some w) (hb : readMem s w m.target (fieldAt m.body 0 8 % 2 ^ 32) = .ok bs) :
    let t := (getEffect s m).acknowledge m
    t.mem = s.mem ∧ ∃ puts d a, t.sent = s.sent ++ puts ++ [(m.port, m.src, 0x06, d), (m.port, m.src, 0, a)] ∧
      d.body = toBytes 8 0 ∧ Pieces m (word (fieldAt m.body 8 8)) bs 0 puts := by
  obtain ⟨hmem, hready, -, puts, hsent, hputs⟩ := putPieces_whole m (word (fieldAt m.body 8 8)) s bs hr
  obtain ⟨d, hd, hbody, -⟩ := State.reply_sent _ m 0x06 0 (toBytes 8 0) hready
  obtain ⟨a, ha⟩ := State.acknowledge_sent (getEffect s m) m
  rw [getEffect_ok h hb] at ha ⊢
  refine ⟨hmem, puts, d, a, ?_, hbody, hputs⟩
  rw [ha, State.done, hd, hsent]
  simp

/-- A channel's requester is of the team that the channel is bound to (R357). -/
theorem channelWho_team {s : State} {chan : Nat} {w : Who} (h : s.channelWho chan = some w) :
    w.team = (Tab.get 0 s.chteam chan).toNat % 2 ^ 16 := by
  unfold State.channelWho at h
  dsimp only at h
  split at h
  · cases h; rfl
  · cases h

/-! What PUT and GET in turn do (R351, R357, R362). -/

/-- A message refused with a NAK of a reason. -/
def NakOf (s : State) (m : Msg) (o : Host.Outcome State Fault Refusal) (why : Nat) : Prop :=
  o = .next (((took s m).nak m why).acknowledge m)

section
variable {s : State} {m : Msg} {w : Who} (h : InTurn s m)
include h

theorem exec_qftPut_unbound (hw : s.channelWho m.chan = none) : NakOf s m (exec (.qftPut m) s) 2 := by
  rw [NakOf, exec_qftPut_inTurn h, putEffect_none (s := took s m) hw]

theorem exec_qftGet_unbound (hw : s.channelWho m.chan = none) : NakOf s m (exec (.qftGet m) s) 2 := by
  rw [NakOf, exec_qftGet_inTurn h, getEffect_none (s := took s m) hw]

theorem exec_qftPut_refused (hw : s.channelWho m.chan = some w) {f : MFault}
    (hf : translate (took s m) w m.target m.body.length .write = .error f) :
    NakOf s m (exec (.qftPut m) s) (if f.cond = 0x0C then 3 else 2) := by
  rw [NakOf, exec_qftPut_inTurn h, putEffect_error (s := took s m) hw (writeMem_error _ hf), nakReason]

theorem exec_qftPut_dark (hw : s.channelWho m.chan = some w) {ks : List Nat}
    (hk : translate (took s m) w m.target m.body.length .write = .ok ks) (hr : keysReady (took s m) ks = false) :
    NakOf s m (exec (.qftPut m) s) 2 := by
  have hf : writeMem (took s m) (portAgent m.port) w m.target m.body = .error ⟨0x11, m.target, 0⟩ := by
    rw [writeMem_translated _ hk, if_neg (by simp [hr])]
  rw [NakOf, exec_qftPut_inTurn h, putEffect_error (s := took s m) hw hf]
  rfl

theorem exec_qftPut_writes (hw : s.channelWho m.chan = some w) {ks : List Nat}
    (hk : translate (took s m) w m.target m.body.length .write = .ok ks) (hr : keysReady (took s m) ks = true) :
    ∃ t, exec (.qftPut m) s = .next t ∧ wrote s t ks m.body := by
  have ht : writeMem (took s m) (portAgent m.port) w m.target m.body =
      .ok (storeKeys (took s m) (portAgent m.port) w m.target ks m.body) := by
    rw [writeMem_translated _ hk, if_pos hr]
  rw [exec_qftPut_inTurn h, putEffect_ok (s := took s m) hw ht]
  exact ⟨_, rfl, wrote_storeKeys (s := took s m) hr _ _ _ _⟩

theorem exec_qftGet_refused (hw : s.channelWho m.chan = some w) {f : MFault}
    (hf : readMem (took s m) w m.target (fieldAt m.body 0 8 % 2 ^ 32) = .error f) :
    NakOf s m (exec (.qftGet m) s) (if f.cond = 0x0C then 3 else 2) := by
  rw [NakOf, exec_qftGet_inTurn h, getEffect_error (s := took s m) hw hf, nakReason]

theorem exec_qftGet_answers (hw : s.channelWho m.chan = some w) {bs : List Byte}
    (hb : readMem (took s m) w m.target (fieldAt m.body 0 8 % 2 ^ 32) = .ok bs) :
    ∃ t puts d a, exec (.qftGet m) s = .next t ∧ t.mem = s.mem ∧
      t.sent = s.sent ++ puts ++ [(m.port, m.src, 0x06, d), (m.port, m.src, 0, a)] ∧ d.body = toBytes 8 0 ∧
      Pieces m (word (fieldAt m.body 8 8)) bs 0 puts := by
  obtain ⟨hmem, puts, d, a, hsent⟩ := getEffect_sent (s := took s m) h.1 hw hb
  exact ⟨_, puts, d, a, exec_qftGet_inTurn h, hmem, hsent⟩

end

end Sys2Proof.Machine
end

section
/-!
PROOFS. LOAD (R351, R363, R65): what a message in turn gathers, and what the boot ROM's check of an image and steward
firmware's check of a container leave.
-/

namespace Sys2Proof.Machine

/-! Firmware images (R361, R364). -/

theorem imageStatus_lt (bs : List Byte) : imageStatus bs < 2 ^ 8 := by
  unfold imageStatus
  dsimp only
  repeat' split
  all_goals decide

/-- The number that n bytes hold. -/
theorem ofBytes_lt (bs : List Byte) : ofBytes bs < 256 ^ bs.length := by
  induction bs with
  | nil => decide
  | cons b r ih =>
    rw [ofBytes, List.length_cons, Nat.pow_succ]
    have := b.isLt
    omega

theorem fieldAt_lt (bs : List Byte) (off n : Nat) : fieldAt bs off n < 256 ^ n :=
  Nat.lt_of_lt_of_le (ofBytes_lt _) (Nat.pow_le_pow_right (by decide) (List.length_take_le ..))

/-- FWSTAT after an image that is accepted: its fields (R361). -/
theorem fwstat_accepted {a f : Nat} (ha : a < 2 ^ 16) (hf : f < 2 ^ 32) :
    let z := (word (a * 2 ^ 48 + f * 2 ^ 16 + 1)).toNat
    bitOf z 0 = true ∧ bitsOf z 15 8 = 0 ∧ bitsOf z 47 16 = f ∧ bitsOf z 63 48 = a := by
  simp only [word_toNat, bitOf, bitsOf, beq_iff_eq]
  omega

/-- FWSTAT after an image that is refused: its status and the attempts are new, the rest stays (R361). -/
theorem fwstat_refused {a v : Nat} (w : Word) (ha : a < 2 ^ 16) (hv : v < 2 ^ 8) :
    let z := (word (setBits (setBits w.toNat 63 48 a) 15 8 v)).toNat
    bitOf z 0 = bitOf w.toNat 0 ∧ bitsOf z 15 8 = v ∧ bitsOf z 47 16 = bitsOf w.toNat 47 16 ∧ bitsOf z 63 48 = a := by
  have hw := w.isLt
  have hbit (x y : Nat) (h : x % 2 = y % 2) : bitOf x 0 = bitOf y 0 := by simp [bitOf, h]
  simp only [word_toNat, bitsOf, setBits]
  refine ⟨hbit _ _ ?_, ?_, ?_, ?_⟩ <;> omega

/-- The machine with an image checked: its firmware and FWSTAT as they then are, and nothing gathered. -/
def State.imageTaken (s : State) (firmware : List Byte) (fwstat : Word) : State :=
  { s with firmware := firmware, image := [], fwstat := fwstat }

theorem State.imageTaken_fields (s : State) (f : List Byte) (w : Word) :
    (s.imageTaken f w).mem = s.mem ∧ (s.imageTaken f w).image = [] ∧ (s.imageTaken f w).firmware = f ∧
    (s.imageTaken f w).fwstat = w := ⟨rfl, rfl, rfl, rfl⟩

theorem keepsHeld_imageTaken (m : Msg) (s : State) (f : List Byte) (w : Word) : KeepsHeld m s (s.imageTaken f w) :=
  keepsHeld_of_conns rfl rfl

/-- The loads of images so far, with the one that is checked (R361). -/
def State.attempts (s : State) : Nat := min (bitsOf s.fwstat.toNat 63 48 + 1) 65535

theorem State.attempts_lt (s : State) : s.attempts < 2 ^ 16 := by
  unfold State.attempts
  omega

theorem checkImage_ok {s : State} {bs : List Byte} (h : imageStatus bs = 0) : s.checkImage bs =
    (s.imageTaken bs (word (s.attempts * 2 ^ 48 + fieldAt bs 4 4 * 2 ^ 16 + 1)), 0) := by
  simp only [State.checkImage, State.imageTaken, State.attempts, if_pos h]

theorem checkImage_bad {s : State} {bs : List Byte} (h : imageStatus bs ≠ 0) : s.checkImage bs =
    (s.imageTaken s.firmware (word (setBits (setBits s.fwstat.toNat 63 48 s.attempts) 15 8 (imageStatus bs))),
      imageStatus bs) := by
  simp only [State.checkImage, State.imageTaken, State.attempts, if_neg h]

/-- FIRMWARE_IMAGE_CHECK (R361, R364). -/
theorem checkImage_effect (s : State) (bs : List Byte) :
    let r := s.checkImage bs
    r.2 = imageStatus bs ∧ r.1.mem = s.mem ∧ r.1.image = [] ∧
    (r.2 = 0 → r.1.firmware = bs ∧ bitOf r.1.fwstat.toNat 0 = true ∧ bitsOf r.1.fwstat.toNat 15 8 = 0) ∧
    (r.2 ≠ 0 → r.1.firmware = s.firmware ∧ bitOf r.1.fwstat.toNat 0 = bitOf s.fwstat.toNat 0 ∧
      bitsOf r.1.fwstat.toNat 15 8 = r.2) ∧
    bitsOf r.1.fwstat.toNat 63 48 = s.attempts ∧
    bitsOf r.1.fwstat.toNat 47 16 = if imageStatus bs = 0 then fieldAt bs 4 4 else bitsOf s.fwstat.toNat 47 16 := by
  by_cases h : imageStatus bs = 0
  · have hf : fieldAt bs 4 4 < 2 ^ 32 := Nat.lt_of_lt_of_eq (fieldAt_lt bs 4 4) (by decide)
    obtain ⟨hrun, hstatus, hrollback, hattempts⟩ := fwstat_accepted s.attempts_lt hf
    rw [checkImage_ok h, if_pos h]
    generalize word (s.attempts * 2 ^ 48 + fieldAt bs 4 4 * 2 ^ 16 + 1) = w at *
    obtain ⟨hmem, himage, hfirmware, hw⟩ := State.imageTaken_fields s bs w
    generalize s.imageTaken bs w = t at *
    subst hw
    exact ⟨h.symm, hmem, himage, fun _ => ⟨hfirmware, hrun, hstatus⟩, fun hne => absurd rfl hne, hattempts, hrollback⟩
  · obtain ⟨hrun, hstatus, hrollback, hattempts⟩ := fwstat_refused s.fwstat s.attempts_lt (imageStatus_lt bs)
    rw [checkImage_bad h, if_neg h]
    generalize word (setBits (setBits s.fwstat.toNat 63 48 s.attempts) 15 8 (imageStatus bs)) = w at *
    obtain ⟨hmem, himage, hfirmware, hw⟩ := State.imageTaken_fields s s.firmware w
    generalize s.imageTaken s.firmware w = t at *
    subst hw
    exact ⟨rfl, hmem, himage, fun hz => absurd hz h, fun _ => ⟨hfirmware, hrun, hstatus⟩, hattempts, hrollback⟩

theorem keepsHeld_checkImage (m : Msg) (s : State) (bs : List Byte) : KeepsHeld m s (s.checkImage bs).1 := by
  by_cases h : imageStatus bs = 0
  · rw [checkImage_ok h]
    exact keepsHeld_imageTaken ..
  · rw [checkImage_bad h]
    exact keepsHeld_imageTaken ..

/-! Containers installed (R65, R66). -/

theorem loadContainer_ok {s : State} {bs : List Byte}
    (h : containerStatus bs (Config.firmwareVersion s.firmware) = 0) : s.loadContainer bs =
      ({ s with kernels := s.kernels ++ [(bs, nativeCode bs)], told := s.told ++ [.container bs] }, 0) :=
  if_pos h

theorem loadContainer_bad {s : State} {bs : List Byte}
    (h : containerStatus bs (Config.firmwareVersion s.firmware) ≠ 0) :
    s.loadContainer bs = (s, containerStatus bs (Config.firmwareVersion s.firmware)) :=
  if_neg h

/-- The code of a native container is its own. -/
theorem nativeCode_native {bs : List Byte} (h : isNative bs = true) :
    nativeCode bs = (codeWords bs).map fun ws => ws.map word := by
  simp only [nativeCode, h, if_true]
  conv => rhs; rw [← List.zipIdx_map_fst 0 (codeWords bs), List.map_map]
  rfl

theorem loadContainer_effect (s : State) (bs : List Byte) :
    let c := s.loadContainer bs
    c.2 = containerStatus bs (Config.firmwareVersion s.firmware) ∧ (c.2 ≠ 0 → c.1 = s) ∧
    (c.2 = 0 → c.1.mem = s.mem ∧ ∃ code, c.1.kernels = s.kernels ++ [(bs, code)] ∧
      (isNative bs = true → code = (codeWords bs).map fun ws => ws.map word)) := by
  by_cases h : containerStatus bs (Config.firmwareVersion s.firmware) = 0
  · rw [loadContainer_ok h]
    exact ⟨h.symm, fun hne => absurd rfl hne, fun _ => ⟨rfl, _, rfl, nativeCode_native⟩⟩
  · rw [loadContainer_bad h]
    exact ⟨rfl, fun _ => rfl, fun hz => absurd hz h⟩

theorem keepsHeld_loadContainer (m : Msg) (s : State) (bs : List Byte) : KeepsHeld m s (s.loadContainer bs).1 := by
  by_cases h : containerStatus bs (Config.firmwareVersion s.firmware) = 0
  · rw [loadContainer_ok h]
    exact keepsHeld_of_conns rfl rfl
  · rw [loadContainer_bad h]
    exact .refl ..

/-! LOAD in turn (R2, R351, R354, R363). -/

/-- The first LOAD sets each half of the host's address that no WRITE has set. -/
theorem State.firstLoad_eq (s : State) (src : BitVec 128) : s.firstLoad src = { s with
    hostLo := if s.hostSet = true then s.hostLo else src.setWidth 64
    hostHi := if s.hostHiSet = true then s.hostHi else (src >>> 64).setWidth 64
    hostSet := true, hostHiSet := true } := by
  have hlo (t : State) : (if t.hostSet = true then t else { t with hostLo := src.setWidth 64, hostSet := true }) =
      { t with hostLo := if t.hostSet = true then t.hostLo else src.setWidth 64, hostSet := true } := by
    split
    · exact congrArg (fun b => { t with hostSet := b }) ‹_›
    · rfl
  have hhi (t : State) : (if t.hostHiSet = true then t else { t with hostHi := (src >>> 64).setWidth 64, hostHiSet := true }) =
      { t with hostHi := if t.hostHiSet = true then t.hostHi else (src >>> 64).setWidth 64, hostHiSet := true } := by
    split
    · exact congrArg (fun b => { t with hostHiSet := b }) ‹_›
    · rfl
  unfold State.firstLoad
  rw [hlo]
  exact hhi _

theorem keepsHeld_firstLoad (m : Msg) (s : State) (src : BitVec 128) : KeepsHeld m s (s.firstLoad src) := by
  rw [State.firstLoad_eq]
  exact keepsHeld_of_conns rfl rfl

/-! How a LOAD that has been taken ends (R351, R363). -/

section
variable {s : State} {m : Msg}

theorem State.takeLoad_elsewhere (hr : bitOf s.fwstat.toNat 0 = false) (hc : m.chan ≠ 0) :
    s.takeLoad m false = s := by
  unfold State.takeLoad
  rw [if_neg (by simp [hr]), if_pos hc]

theorem State.takeLoad_image (hr : bitOf s.fwstat.toNat 0 = false) (hc : m.chan = 0) :
    s.takeLoad m false = if imageWhole (s.image ++ m.body) = true then
      (s.checkImage (s.image ++ m.body)).1.done m (s.checkImage (s.image ++ m.body)).2
    else { s with image := s.image ++ m.body } := by
  unfold State.takeLoad
  rw [if_neg (by simp [hr]), if_neg (by simp [hc])]
  rfl

theorem State.takeLoad_container (hr : bitOf s.fwstat.toNat 0 = true) :
    s.takeLoad m false = if containerWhole (s.container ++ m.body) = true then
      ((({ s with container := [] } : State).loadContainer (s.container ++ m.body)).1.done m
        (({ s with container := [] } : State).loadContainer (s.container ++ m.body)).2)
    else { s with container := s.container ++ m.body } := by
  unfold State.takeLoad
  rw [if_pos hr]
  rfl

theorem keepsHeld_takeLoad (s : State) (m : Msg) : KeepsHeld m s (s.takeLoad m false) := by
  cases hr : bitOf s.fwstat.toNat 0
  · by_cases hc : m.chan = 0
    · rw [State.takeLoad_image hr hc]
      split
      · exact (keepsHeld_checkImage ..).trans (keepsHeld_reply ..)
      · exact keepsHeld_of_conns rfl rfl
    · rw [State.takeLoad_elsewhere hr hc]
      exact .refl ..
  · rw [State.takeLoad_container hr]
    split
    · have h : KeepsHeld m s { s with container := [] } := keepsHeld_of_conns rfl rfl
      exact (h.trans (keepsHeld_loadContainer ..)).trans (keepsHeld_reply ..)
    · exact keepsHeld_of_conns rfl rfl

end

theorem exec_qftLoad_inTurn {s : State} {m : Msg} (h : InTurn s m) :
    exec (.qftLoad m) s = .next (((took s m).fromHost m true fun s => (s.firstLoad m.src).takeLoad m false).acknowledge m) :=
  congrArg _ (State.receive_inTurn _ h (keepsHeld_fromHost _ ((keepsHeld_firstLoad ..).trans (keepsHeld_takeLoad ..))))

/-- What a LOAD in turn does (R2, R351, R354, R363, R65; logs 35, 38). -/
theorem exec_qftLoad_effect {s : State} {m : Msg} (h : InTurn s m) :
    let u := { took s m with
      hostLo := if s.hostSet = true then s.hostLo else m.src.setWidth 64
      hostHi := if s.hostHiSet = true then s.hostHi else (m.src >>> 64).setWidth 64
      hostSet := true, hostHiSet := true }
    let runs := bitOf s.fwstat.toNat 0
    let image := s.image ++ m.body
    let cont := s.container ++ m.body
    (m.port ≠ 8 → exec (.qftLoad m) s = .next (((took s m).nak m 2).acknowledge m)) ∧
    (m.port = 8 →
    (runs = false → m.chan ≠ 0 → exec (.qftLoad m) s = .next (u.acknowledge m)) ∧
    (runs = false → m.chan = 0 → imageWhole image = false →
      exec (.qftLoad m) s = .next (({ u with image := image } : State).acknowledge m)) ∧
    (runs = false → m.chan = 0 → imageWhole image = true → exec (.qftLoad m) s =
      .next (((u.checkImage image).1.done m (u.checkImage image).2).acknowledge m)) ∧
    (runs = true → containerWhole cont = false →
      exec (.qftLoad m) s = .next (({ u with container := cont } : State).acknowledge m)) ∧
    (runs = true → containerWhole cont = true →
      let r := ({ u with container := [] } : State).loadContainer cont
      exec (.qftLoad m) s = .next ((r.1.done m r.2).acknowledge m))) := by
  intro u runs image cont
  let after (t : State) : Host.Outcome State Fault Refusal := .next (t.acknowledge m)
  have hu : (took s m).firstLoad m.src = u := State.firstLoad_eq ..
  refine ⟨fun hp => ?_, fun hp => ?_⟩
  · rw [exec_qftLoad_inTurn h, State.fromHost_refused hp rfl]
  · rw [exec_qftLoad_inTurn h, State.fromHost_allowed (Or.inl hp), hu]
    refine ⟨fun hr hc => ?_, fun hr hc hw => ?_, fun hr hc hw => ?_, fun hr hw => ?_, fun hr hw => ?_⟩
    · exact congrArg after (State.takeLoad_elsewhere (s := u) hr hc)
    · exact congrArg after ((State.takeLoad_image (s := u) hr hc).trans (if_neg (ne_true_of_eq_false hw)))
    · exact congrArg after ((State.takeLoad_image (s := u) hr hc).trans (if_pos hw))
    · exact congrArg after ((State.takeLoad_container (s := u) hr).trans (if_neg (ne_true_of_eq_false hw)))
    · exact congrArg after ((State.takeLoad_container (s := u) hr).trans (if_pos hw))

end Sys2Proof.Machine
end

section
/-!
PROOFS. The checks of containers and firmware images (R60-R62, R65, R364): which status each defect has, and how
portable code is cut into groups.
-/

namespace Sys2Proof.Machine

/-! Sections (R61, R65). -/

/-- Fields of entry i of the section table (R61). -/
def sectionAt (bs : List Byte) (i : Nat) : Section :=
  ⟨fieldAt bs (0x40 + 32 * i) 2, fieldAt bs (0x40 + 32 * i + 8) 8, fieldAt bs (0x40 + 32 * i + 16) 8,
   fieldAt bs (0x40 + 32 * i + 24) 4⟩

theorem sections_eq (bs : List Byte) : sections bs = (List.range (fieldAt bs 8 2)).map (sectionAt bs) := rfl

theorem any_sections (bs : List Byte) (f : Section → Bool) :
    (sections bs).any f = true ↔ ∃ i, i < fieldAt bs 8 2 ∧ f (sectionAt bs i) = true := by
  simp [sections_eq]

theorem anyPair_eq_false (f : Section → Section → Bool) (l : List Section) :
    anyPair f l = false ↔ l.Pairwise fun a b => f a b = false := by
  induction l with
  | nil => simp [anyPair]
  | cons a r ih => simp [anyPair, ih]

/-- A pair among numbered sections is two of them, the lower number first. -/
theorem anyPair_map_range (f : Section → Section → Bool) (g : Nat → Section) (n : Nat) :
    anyPair f ((List.range n).map g) = true ↔ ∃ i, i < n ∧ ∃ j, j < i ∧ f (g j) (g i) = true := by
  have hpairs : anyPair f ((List.range n).map g) = false ↔ ∀ j i, j < n → i < n → j < i → f (g j) (g i) = false := by
    rw [anyPair_eq_false, List.pairwise_iff_getElem]
    simp only [List.length_map, List.length_range, List.getElem_map, List.getElem_range]
  constructor
  · intro h
    apply Classical.byContradiction
    intro hnone
    refine ne_true_of_eq_false (hpairs.2 fun j i _ hi hj => ?_) h
    exact eq_false_of_ne_true fun hf => hnone ⟨i, hi, j, hj, hf⟩
  · rintro ⟨i, hi, j, hj, hf⟩
    refine eq_true_of_ne_false fun h => ?_
    exact ne_true_of_eq_false (hpairs.1 h j i (Nat.lt_trans hj hi) hi hj) hf

theorem meets_iff (a b : Section) : a.meets b = true ↔ b.off < a.off + a.size ∧ a.off < b.off + b.size := by
  simp [Section.meets, and_comm]

/-- What status 3 says of a section table (R60, R61, R65; log 14). -/
theorem badSections_iff (bs : List Byte) : badSections bs = true ↔
    let n := fieldAt bs 8 2
    n < 1 ∨ 256 < n ∨ bs.length < 0x40 + 32 * n ∨ ∃ i, i < n ∧
      (bs.length < (sectionAt bs i).off + (sectionAt bs i).size ∨ (sectionAt bs i).type < 1 ∨ 6 < (sectionAt bs i).type ∨
        n ≤ (sectionAt bs i).link ∨ ∃ j, j < i ∧ (sectionAt bs i).off < (sectionAt bs j).off + (sectionAt bs j).size ∧
          (sectionAt bs j).off < (sectionAt bs i).off + (sectionAt bs i).size) := by
  have hl : (sections bs).length = fieldAt bs 8 2 := by simp [sections_eq]
  have hp := anyPair_map_range Section.meets (sectionAt bs) (fieldAt bs 8 2)
  rw [← sections_eq] at hp
  simp only [meets_iff] at hp
  simp only [badSections, Bool.or_eq_true, decide_eq_true_eq, any_sections, hp, hl, or_assoc, ← exists_or,
    ← and_or_left]

/-- Code that is no whole syllables, or whose last one has no stop bit (R65). -/
def codeEndsBadly (bs : List Byte) (a : Section) : Prop :=
  a.size % 8 ≠ 0 ∨ a.size < 8 ∨ (fieldAt bs (a.off + 8 * (a.size / 8 - 1)) 8).testBit 63 = false

theorem wordStop_eq_testBit (w : Nat) : wordStop w = w.testBit 63 := bitOf_eq_testBit w 63

theorem sectionWords_getLast? (bs : List Byte) (a : Section) : (sectionWords bs a).getLast? =
    if a.size < 8 then none else some (fieldAt bs (a.off + 8 * (a.size / 8 - 1)) 8) := by
  unfold sectionWords
  rw [List.getLast?_map, List.getLast?_range]
  split <;> split <;> simp_all

theorem badCode_iff (bs : List Byte) : badCode bs = true ↔
    ∃ i, i < fieldAt bs 8 2 ∧ (sectionAt bs i).type = 1 ∧ codeEndsBadly bs (sectionAt bs i) := by
  simp only [badCode, any_sections, Bool.and_eq_true, beq_iff_eq, Bool.or_eq_true, bne_iff_ne,
    sectionWords_getLast?, codeEndsBadly]
  refine exists_congr fun i => and_congr_right fun _ => and_congr_right fun _ => or_congr_right ?_
  split <;> simp [*, wordStop_eq_testBit]

/-! The status of a container (R60-R62, R65). -/

section
variable {bs : List Byte} {v : Nat}

theorem containerStatus_magic (h : bs.take 4 ≠ [0x50, 0x52, 0x4E, 0x53]) : containerStatus bs v = 1 := by
  unfold containerStatus
  rw [if_pos (Or.inl h)]

variable (hm : bs.take 4 = [0x50, 0x52, 0x4E, 0x53]) (hv : fieldAt bs 4 2 = 1)
include hm hv

/-- What the checks come to once magic and version are right. -/
theorem containerStatus_named : containerStatus bs v =
    if BitVec.ofNat 256 (fieldAt bs 0x20 32) ≠ Config.sha256 (bs.drop 0x40) ∨ fieldAt bs 0x10 8 ≠ bs.length then 2
    else if badSections bs then 3
    else if v < fieldAt bs 0x0C 4 then 4
    else if badCode bs then 5
    else if isNative bs then 0
    else
      let v := lowest ((codeWords bs).map sectionStatus)
      if v ≠ 0 then v else if forkRefused bs then 10 else 0 := by
  unfold containerStatus
  rw [if_neg (by simp [hm, hv])]

theorem containerStatus_length (h : fieldAt bs 0x10 8 ≠ bs.length) : containerStatus bs v = 2 := by
  rw [containerStatus_named hm hv, if_pos (Or.inr h)]

theorem containerStatus_digest (h : BitVec.ofNat 256 (fieldAt bs 0x20 32) ≠ Config.sha256 (bs.drop 0x40)) :
    containerStatus bs v = 2 := by
  rw [containerStatus_named hm hv, if_pos (Or.inl h)]

variable (hd : BitVec.ofNat 256 (fieldAt bs 0x20 32) = Config.sha256 (bs.drop 0x40)) (hl : fieldAt bs 0x10 8 = bs.length)
include hd hl

theorem containerStatus_sections (h : badSections bs = true) : containerStatus bs v = 3 := by
  rw [containerStatus_named hm hv, if_neg (by simp [hd, hl]), if_pos h]

variable (hs : badSections bs = false)
include hs

theorem containerStatus_version (h : v < fieldAt bs 0x0C 4) : containerStatus bs v = 4 := by
  rw [containerStatus_named hm hv, if_neg (by simp [hd, hl]), if_neg (by simp [hs]), if_pos h]

variable (hf : fieldAt bs 0x0C 4 ≤ v)
include hf

theorem containerStatus_code (h : badCode bs = true) : containerStatus bs v = 5 := by
  rw [containerStatus_named hm hv, if_neg (by simp [hd, hl]), if_neg (by simp [hs]), if_neg (Nat.not_lt.2 hf), if_pos h]

/-- What is left to check once the sections and their code have passed: the portable code. -/
theorem containerStatus_translates (h : badCode bs = false) : containerStatus bs v =
    if isNative bs then 0
    else
      let v := lowest ((codeWords bs).map sectionStatus)
      if v ≠ 0 then v else if forkRefused bs then 10 else 0 := by
  rw [containerStatus_named hm hv, if_neg (by simp [hd, hl]), if_neg (by simp [hs]), if_neg (Nat.not_lt.2 hf),
    if_neg (by simp [h])]

end

theorem isNative_iff (bs : List Byte) : isNative bs = true ↔ fieldAt bs 6 2 % 2 = 1 := by
  simp [isNative, bitOf]

/-- The statuses of portable code (R65). -/
theorem sectionStatus_mem (ws : List Nat) : sectionStatus ws = 0 ∨ 6 ≤ sectionStatus ws ∧ sectionStatus ws ≤ 9 := by
  unfold sectionStatus
  dsimp only
  repeat' split
  all_goals decide

/-- The lowest nonzero of some numbers is one of them, or 0. -/
theorem lowest_mem (vs : List Nat) : lowest vs = 0 ∨ lowest vs ∈ vs := by
  have walk (vs : List Nat) (m : Nat) :
      let n := vs.foldl (fun m v => if v = 0 then m else if m = 0 then v else min m v) m
      n = m ∨ n ∈ vs := by
    induction vs generalizing m with
    | nil => exact .inl rfl
    | cons v r ih =>
      have hstep : (if v = 0 then m else if m = 0 then v else min m v) = m ∨
          (if v = 0 then m else if m = 0 then v else min m v) = v := by
        split
        · exact .inl rfl
        split
        · exact .inr rfl
        · rw [Nat.min_def]
          split
          · exact .inl rfl
          · exact .inr rfl
      rcases ih (if v = 0 then m else if m = 0 then v else min m v) with h | h
      · rcases hstep with e | e
        · exact .inl (h.trans e)
        · exact .inr (List.mem_cons.2 (.inl (h.trans e)))
      · exact .inr (List.mem_cons_of_mem _ h)
  exact walk vs 0

theorem portableStatus_mem (bs : List Byte) :
    let v := lowest ((codeWords bs).map sectionStatus)
    let k := if v ≠ 0 then v else if forkRefused bs then 10 else 0
    k = 0 ∨ 6 ≤ k ∧ k ≤ 10 := by
  dsimp only
  split
  · rcases lowest_mem ((codeWords bs).map sectionStatus) with h0 | hm
    · exact absurd h0 ‹_›
    · obtain ⟨ws, -, hw⟩ := List.mem_map.1 hm
      have := sectionStatus_mem ws
      omega
  · split <;> decide

end Sys2Proof.Machine
end

section
/-!
PROOFS. Portable code cut into groups (R62), firmware images (R364), and the statement about memory and LOAD messages.
-/

namespace Sys2Proof.Machine

/-! Groups (R62). -/

theorem groupsOf_stop {w : Nat} (h : wordStop w = true) (r : List Nat) : groupsOf (w :: r) = [w] :: groupsOf r := by
  rw [groupsOf, if_pos h]

/-- A word without a stop bit begins the group of the words after it, or one of its own at the end. -/
theorem groupsOf_go {w : Nat} (h : wordStop w = false) (r : List Nat) :
    groupsOf (w :: r) = (w :: (groupsOf r).headD []) :: (groupsOf r).tail := by
  rw [groupsOf, if_neg (by simp [h])]
  cases groupsOf r <;> rfl

theorem groupsOf_flatten (ws : List Nat) : (groupsOf ws).flatten = ws := by
  induction ws with
  | nil => rfl
  | cons w r ih =>
    cases h : wordStop w
    · rw [groupsOf_go h]
      cases hg : groupsOf r <;> simp_all
    · rw [groupsOf_stop h, List.flatten_cons, ih, List.singleton_append]

/-- No word of a group but its last has a stop bit. -/
def StopsAtMostLast (g : List Nat) : Prop := ∃ xs x, g = xs ++ [x] ∧ ∀ y ∈ xs, wordStop y = false

/-- The last word of a group has a stop bit. -/
def EndsInStop (g : List Nat) : Prop := ∃ xs x, g = xs ++ [x] ∧ wordStop x = true

theorem StopsAtMostLast.cons {w : Nat} {g : List Nat} (h : wordStop w = false) (hg : StopsAtMostLast g) :
    StopsAtMostLast (w :: g) := by
  obtain ⟨xs, x, rfl, hxs⟩ := hg
  exact ⟨w :: xs, x, rfl, List.forall_mem_cons.2 ⟨h, hxs⟩⟩

theorem EndsInStop.cons (w : Nat) {g : List Nat} (hg : EndsInStop g) : EndsInStop (w :: g) := by
  obtain ⟨xs, x, rfl, hx⟩ := hg
  exact ⟨w :: xs, x, rfl, hx⟩

theorem groupsOf_stopsAtMostLast (ws : List Nat) : ∀ g ∈ groupsOf ws, StopsAtMostLast g := by
  induction ws with
  | nil => simp [groupsOf]
  | cons w r ih =>
    have single : StopsAtMostLast [w] := ⟨[], w, rfl, by simp⟩
    cases h : wordStop w
    · rw [groupsOf_go h]
      cases hg : groupsOf r with
      | nil => simpa using single
      | cons g gs =>
        rw [hg, List.forall_mem_cons] at ih
        exact List.forall_mem_cons.2 ⟨ih.1.cons h, ih.2⟩
    · rw [groupsOf_stop h]
      exact List.forall_mem_cons.2 ⟨single, ih⟩

/-- Every group but the last ends in a stop bit. -/
theorem groupsOf_endsInStop (ws : List Nat) : ∀ g ∈ (groupsOf ws).dropLast, EndsInStop g := by
  induction ws with
  | nil => simp [groupsOf]
  | cons w r ih =>
    cases h : wordStop w
    · rw [groupsOf_go h]
      cases hg : groupsOf r with
      | nil => simp
      | cons g gs =>
        cases gs with
        | nil => simp
        | cons k ks =>
          rw [hg, List.dropLast_cons_cons, List.forall_mem_cons] at ih
          exact List.forall_mem_cons.2 ⟨ih.1.cons w, ih.2⟩
    · rw [groupsOf_stop h]
      cases hg : groupsOf r with
      | nil => simp
      | cons g gs =>
        rw [hg] at ih
        exact List.forall_mem_cons.2 ⟨⟨[], w, rfl, h⟩, ih⟩

/-- A group of more than 32 syllables is refused, with status 7 unless one of status 6 is found (R62, R65). -/
theorem sectionStatus_longGroup {ws : List Nat} (h : ∃ g ∈ groupsOf ws, 32 < g.length) :
    sectionStatus ws = 6 ∨ sectionStatus ws = 7 := by
  have hlong : (groupsOf ws).any (fun g => decide (32 < g.length)) = true := by simpa using h
  unfold sectionStatus
  dsimp only
  split
  · exact .inl rfl
  · rw [if_pos (by simp [hlong])]
    exact .inr rfl

/-! Firmware images (R364). -/

/-- An image of legal layout, and one whose keys are the fused ones. -/
def ImageSound (bs : List Byte) : Prop :=
  bs.take 4 = [0x51, 0x46, 0x57, 0x31] ∧ 2 ^ 20 ≤ fieldAt bs 8 8 ∧ fieldAt bs 8 8 ≤ 2 ^ 26 ∧
  bs.length = 30688 + fieldAt bs 8 8
def ImageFused (bs : List Byte) : Prop :=
  Config.sha384 ((bs.drop 64).take 384) = Config.fusedRsaDigest ∧
  Config.sha384 ((bs.drop 448).take 64) = Config.fusedSlhDigest

/-- Its two signatures. -/
def imageRsa (bs : List Byte) : Bool :=
  Config.rsaVerify ((bs.drop 64).take 384) (bs.take (512 + fieldAt bs 8 8)) ((bs.drop (512 + fieldAt bs 8 8)).take 384)
def imageSlh (bs : List Byte) : Bool :=
  Config.slhVerify ((bs.drop 448).take 64) (bs.take (512 + fieldAt bs 8 8)) ((bs.drop (896 + fieldAt bs 8 8)).take 29792)

theorem imageStatus_unsound {bs : List Byte} (h : ¬ ImageSound bs) : imageStatus bs = 0x20 := by
  unfold imageStatus
  refine if_pos (Classical.byContradiction fun hc => h ?_)
  simp only [not_or, Classical.not_not, Nat.not_lt] at hc
  exact hc

section
variable {bs : List Byte} (hs : ImageSound bs)
include hs

theorem imageStatus_sound : imageStatus bs =
    if Config.sha384 ((bs.drop 64).take 384) ≠ Config.fusedRsaDigest ∨
      Config.sha384 ((bs.drop 448).take 64) ≠ Config.fusedSlhDigest then 0x21
    else if fieldAt bs 4 4 < Config.fusedRollback then 0x22
    else if !imageRsa bs then 0x23
    else if !imageSlh bs then 0x24
    else 0 := by
  obtain ⟨hm, hlo, hhi, hl⟩ := hs
  refine if_neg ?_
  simp only [not_or, Classical.not_not, Nat.not_lt]
  exact ⟨hm, hlo, hhi, hl⟩

theorem imageStatus_unfused (h : ¬ ImageFused bs) : imageStatus bs = 0x21 := by
  rw [imageStatus_sound hs, if_pos (Classical.not_and_iff_not_or_not.1 h)]

variable (hf : ImageFused bs)
include hf

theorem imageStatus_fused : imageStatus bs =
    if fieldAt bs 4 4 < Config.fusedRollback then 0x22
    else if !imageRsa bs then 0x23
    else if !imageSlh bs then 0x24
    else 0 := by
  obtain ⟨hrsa, hslh⟩ := hf
  rw [imageStatus_sound hs, if_neg (by simp [hrsa, hslh])]

theorem imageStatus_rollback (h : fieldAt bs 4 4 < Config.fusedRollback) : imageStatus bs = 0x22 := by
  rw [imageStatus_fused hs hf, if_pos h]

variable (hr : Config.fusedRollback ≤ fieldAt bs 4 4)
include hr

theorem imageStatus_rsa (h : imageRsa bs = false) : imageStatus bs = 0x23 := by
  rw [imageStatus_fused hs hf, if_neg (Nat.not_lt.2 hr), if_pos (by simp [h])]

theorem imageStatus_slh (h : imageRsa bs = true) (hl : imageSlh bs = false) : imageStatus bs = 0x24 := by
  rw [imageStatus_fused hs hf, if_neg (Nat.not_lt.2 hr), if_neg (by simp [h]), if_pos (by simp [hl])]

theorem imageStatus_accepted (h : imageRsa bs = true) (hl : imageSlh bs = true) : imageStatus bs = 0 := by
  rw [imageStatus_fused hs hf, if_neg (Nat.not_lt.2 hr), if_neg (by simp [h]), if_neg (by simp [hl])]

end

/-! Memory and LOAD messages. -/

/-- The container checks in their order (R60, R61, R65; log 14). -/
theorem containerStatus_order {bs : List Byte} {v : Nat} (hm : bs.take 4 = [0x50, 0x52, 0x4E, 0x53])
    (hv : fieldAt bs 4 2 = 1) (hd : BitVec.ofNat 256 (fieldAt bs 0x20 32) = Config.sha256 (bs.drop 0x40))
    (hl : fieldAt bs 0x10 8 = bs.length) :
    (badSections bs = true → containerStatus bs v = 3) ∧
    (¬ badSections bs = true → v < fieldAt bs 0x0C 4 → containerStatus bs v = 4) ∧
    (¬ badSections bs = true → fieldAt bs 0x0C 4 ≤ v → badCode bs = true → containerStatus bs v = 5) ∧
    (¬ badSections bs = true → fieldAt bs 0x0C 4 ≤ v → ¬ badCode bs = true →
      (fieldAt bs 6 2 % 2 = 1 → containerStatus bs v = 0) ∧
      (containerStatus bs v = 0 ∨ 6 ≤ containerStatus bs v ∧ containerStatus bs v ≤ 10)) := by
  simp only [Bool.not_eq_true]
  refine ⟨containerStatus_sections hm hv hd hl, containerStatus_version hm hv hd hl,
    containerStatus_code hm hv hd hl, fun hs hf hc => ?_⟩
  rw [containerStatus_translates hm hv hd hl hs hf hc]
  refine ⟨fun hn => if_pos ((isNative_iff bs).2 hn), ?_⟩
  split
  · exact .inl rfl
  · exact portableStatus_mem bs

/-- Settles O57: PUT, GET and LOAD in turn, then what the checks of containers, groups and images say. -/
theorem memoryAndLoadMessages : Obligations.MemoryAndLoadMessages := by
  refine ⟨fun s m h => ⟨fun hw => ⟨exec_qftPut_unbound h hw, exec_qftGet_unbound h hw⟩, fun w hw =>
    ⟨channelWho_team hw, fun f hf => exec_qftPut_refused h hw hf, fun ks hk => ⟨exec_qftPut_dark h hw hk,
      exec_qftPut_writes h hw hk⟩, fun f hf => exec_qftGet_refused h hw hf, fun bs hb => ?_⟩⟩,
    ⟨fun s m h => exec_qftLoad_effect h, fun s bs => ?_, fun bs v => ⟨fun hm => imageStatus_unsound fun hs => hm hs.1,
      containerStatus_magic, containerStatus_length⟩⟩, ⟨fun bs v => ?_, fun ws => ?_, fun s bs => ?_⟩⟩
  · obtain ⟨t, puts, d, a, ht, hmem, hsent, hbody, hflat, hputs⟩ := exec_qftGet_answers h hw hb
    refine ⟨t, puts, d, a, ht, hmem, hsent, hbody, hflat, fun p hp => ?_, fun j p hp => ?_⟩
    · obtain ⟨j, hj⟩ := List.getElem?_of_mem hp
      obtain ⟨hport, hsrc, htype, -, hb, -⟩ := hputs j p hj
      exact ⟨hport, hsrc, htype, hb ▸ List.length_take_le ..⟩
    · obtain ⟨-, -, -, hchan, hb, htarget⟩ := hputs j p hp
      exact ⟨hchan, hb, by rw [htarget, Nat.zero_add]; rfl⟩
  · obtain ⟨hstatus, hmem, himage, hok, hbad, hattempts, -⟩ := checkImage_effect s bs
    exact ⟨hstatus, hmem, himage, hok, hbad, hattempts, loadContainer_effect s bs⟩
  · intro n type off size link bad code hm hv
    have hbad : bad ↔ badSections bs = true := (badSections_iff bs).symm
    have hcode : code ↔ badCode bs = true := (badCode_iff bs).symm
    rw [hbad, hcode]
    exact ⟨containerStatus_digest hm hv, fun hd hl => containerStatus_order hm hv hd hl⟩
  · refine ⟨groupsOf_flatten ws, groupsOf_stopsAtMostLast ws, fun us g h vs he => ?_, sectionStatus_longGroup⟩
    exact groupsOf_endsInStop ws g (by simp [he])
  · intro b sound fused rsa slh
    obtain ⟨-, -, -, -, -, -, hrollback⟩ := checkImage_effect s bs
    refine ⟨imageStatus_unsound, imageStatus_unfused, imageStatus_rollback, fun hs hf hr => ⟨imageStatus_rsa hs hf hr,
      imageStatus_slh hs hf hr, fun h hl => ?_⟩, fun hne => ?_⟩
    · have hz := imageStatus_accepted hs hf hr h hl
      exact ⟨hz, by rw [hrollback, if_pos hz]⟩
    · rw [hrollback, if_neg hne]

end Sys2Proof.Machine
end

section
/-!
PROOFS. Reset, the first bind of a context, and the ratio of the clocks (R4, R152, R155, R208, R322, R361, R366).
-/

namespace Sys2Proof.Machine

/-! The first bind (R152, R305). -/

/-- A context as it is first bound, with the chunk that it is dealt. -/
def firstBound (b : Bind) (xchk : Bool) (ports : Option (List Byte)) (nver : Nat) (tvec pc cursor argptr : Word)
    (now since : Nat) : Ctx :=
  { bound := true, bind := b, xchk := xchk, ports := ports,
    regs := { nver := nver, cursor := cursor, argptr := argptr }, trap := { tvec := tvec },
    streams := [{ pc := pc }], issued := now, since := since, rnd := ⟨0, now⟩ }

/-- The context that a bind record of a new card describes, before it is dealt a chunk. -/
def bindCtx (s : State) (c : Nat) (record : BitVec 1024) (run : Run) (header vec : Nat) : Ctx :=
  let k := cardNum run.card
  firstBound { recordBind s c record.toNat header s.uid with entry := cardEntry k } (bitOf record.toNat 640)
    (s.portRecord (cardHeader k) run.team) (bitsOf record.toNat 643 642) (vectorOf vec) (cardEntry k) 0 0 s.cycle s.ticks

/-- A chunk dealt is in CURSOR and ARGPTR (R154, R303). -/
theorem State.ctx_deal (s : State) (c : Nat) (r : Run) : ∃ cursor argptr, (s.deal c r).ctx c =
    { s.ctx c with regs := { (s.ctx c).regs with cursor := cursor, argptr := argptr } } :=
  ⟨_, _, State.ctx_onCtx_self ..⟩

/-- A bind that dispatch can do is done: the context put in its slot and dealt its first chunk (R305). -/
theorem exec_bindNew_binds {s t : State} {c : Nat} {record : BitVec 1024} {run : Run} {header vec : Nat}
    (h : CanBind s t c record run header vec) : ∃ (v : State) (run' : Run), exec (.bindNew c record) s =
      .next ((((v.setCtx c (bindCtx s c record run header vec)).deal c run').note c 7 (c % 16)).actionDone c record.toNat 1) := by
  obtain ⟨hslot, hnver, hrun, hdealt, hcard, hheader, hreserved, hvec, hports⟩ := h
  rw [exec_bindNew, execBindNew]
  simp only [hslot, hrun, hcard, hheader, hreserved, hvec, hports, if_neg hnver, if_neg (Nat.not_le.2 hdealt)]
  exact ⟨_, _, rfl⟩

/-- What such a bind leaves in its slot: NVER and TVEC from the record and the save area, the rest as at every first
bind. -/
theorem bindNew_firstBound {s t : State} {c : Nat} {record : BitVec 1024} {run : Run} {header vec : Nat}
    (h : CanBind s t c record run header vec) :
    ∃ u b xchk ports pc cursor argptr now since, exec (.bindNew c record) s = .next u ∧ u.ctx c =
      firstBound b xchk ports (bitsOf record.toNat 643 642) (vectorOf vec) pc cursor argptr now since := by
  obtain ⟨v, run', hexec⟩ := exec_bindNew_binds h
  obtain ⟨cursor, argptr, hctx⟩ := State.ctx_deal (v.setCtx c (bindCtx s c record run header vec)) c run'
  rw [State.ctx_setCtx_self] at hctx
  exact ⟨_, _, _, _, _, cursor, argptr, _, _, hexec, hctx⟩

/-- While a context has seen no cycle begin, its special registers read as they are. -/
theorem readSpecial_unseen {s : State} (h : s.cx.seen = []) (n : Nat) : readSpecial s n = specialNow s n := by
  unfold readSpecial
  rw [h]
  split <;> rfl

/-- Special registers that a first bind leaves 0 (R121, R145, R155, R316, R322, R337). -/
def zeroSpecials : List Nat :=
  [0x010, 0x011, 0x012, 0x020, 0x021, 0x047, 0x050, 0x052, 0x053, 0x060, 0x081, 0x082, 0x083, 0x08C,
   0x08D, 0x0C0, 0x0C4, 0x0C7, 0x0C8, 0x0CB, 0x0D0, 0x0D1, 0x0D2, 0x100, 0x13F, 0x140, 0x143]

section
variable {s : State} {b : Bind} {xchk : Bool} {ports : Option (List Byte)} {nver now since : Nat}
  {tvec pc cursor argptr : Word} (h : s.cx = firstBound b xchk ports nver tvec pc cursor argptr now since)
include h

theorem firstBound_special (n : Nat) : readSpecial s n = specialNow s n :=
  readSpecial_unseen (by rw [h]; rfl) n

theorem firstBound_zeros : ∀ n ∈ zeroSpecials, readSpecial s n = 0 := by
  intro n hn
  rw [firstBound_special h]
  simp only [zeroSpecials, List.mem_cons, List.not_mem_nil, or_false] at hn
  rcases hn with rfl | rfl | rfl | rfl | rfl | rfl | rfl | rfl | rfl | rfl | rfl | rfl | rfl | rfl | rfl | rfl | rfl |
    rfl | rfl | rfl | rfl | rfl | rfl | rfl | rfl | rfl | rfl <;>
  simp [specialNow, h, firstBound, constEntry, Ctx.aqstat, Ctx.stRows, unpaired, Ctx.encnt, Ctx.tstate, Debug.wlctl,
    Watch.word]

theorem firstBound_nver : readSpecial s 0x051 = nver := by
  rw [firstBound_special h, specialNow, h]
  rfl

theorem firstBound_tvec : readSpecial s 0x080 = tvec.toNat := by
  rw [firstBound_special h, specialNow, h]
  rfl

theorem firstBound_lqtag : readSpecial s 0x046 = Tag.fp32.code := by
  rw [firstBound_special h, specialNow, h]
  rfl

end

/-- TVEC keeps the alignment and bit 0 of the word that it is loaded from (R322). -/
theorem vectorOf_toNat (v : Nat) : (vectorOf v).toNat = v % 2 ^ 64 / 8 * 8 + v % 2 := by
  simp only [vectorOf, word, bitsOf, BitVec.toNat_ofNat]
  omega

/-! The clocks (R4, R365, R366; logs 5, 37). -/

theorem State.stands_of_trip {s : State} (h : s.trip = true) : s.stands = true := by
  simp [State.stands, h]

/-- A cycle counted: 9 cycles to 4 reference ticks. -/
theorem State.tick_runs {s : State} (h : s.stands = false) : s.tick.cycle = s.cycle + 1 ∧
    s.tick.phase = (s.phase + 4) % 9 ∧ s.tick.time = if 9 ≤ s.phase + 4 then s.time + 1 else s.time := by
  unfold State.tick
  rw [if_neg (by simp [h])]
  refine ⟨rfl, rfl, ?_⟩
  simp [State.countMissed]

/-- A module whose clocks stand counts ticks alone (R366). -/
theorem State.tick_stands {s : State} (h : s.stands = true) : s.tick.cycle = s.cycle ∧ s.tick.time = s.time + 1 := by
  unfold State.tick
  rw [if_pos h]
  exact ⟨rfl, rfl⟩

/-- Settles O6: the fields of `State.reset`, those of a context first bound, and a tick of each kind. -/
theorem resetAndFirstBindValues : Obligations.ResetAndFirstBindValues := by
  refine ⟨⟨rfl, rfl, rfl, rfl, rfl, fun _ => rfl, rfl⟩, fun s t c record run header vec h => ?_, fun s hp =>
    ⟨fun hs => ?_, State.stands_of_trip, State.tick_stands⟩⟩
  · obtain ⟨u, b, xchk, ports, pc, cursor, argptr, now, since, hexec, hctx⟩ := bindNew_firstBound h
    refine ⟨u, hexec, ?_⟩
    intro s
    have hcx : s.cx = firstBound b xchk ports _ (vectorOf vec) pc cursor argptr now since := hctx
    refine ⟨?_, ?_, ?_, ?_, ?_, ?_, ?_, ?_, ?_, ?_, ?_, firstBound_zeros hcx, firstBound_nver hcx,
      (firstBound_tvec hcx).trans (vectorOf_toNat vec), firstBound_lqtag hcx, ?_, ?_⟩ <;> rw [hcx]
    · rfl
    · intro n; simp [firstBound, Ctx.s]
    · exact fun _ => rfl
    · intro n; simp [firstBound, Ctx.p]
    · intro n; simp [firstBound, Ctx.g]
    · intro n; simp [firstBound, Ctx.m]
    · exact fun _ => rfl
    · exact fun _ => rfl
    · rfl
    · rfl
    · exact fun _ => rfl
    · rfl
    · rfl
  · obtain ⟨hcycle, hphase, htime⟩ := State.tick_runs hs
    rw [hcycle, hphase, htime]
    split <;> omega

end Sys2Proof.Machine
end
